-- ==== Sys2Proof/Word.lean ====
section
/-! DEFINITION. The word types of the GQF-720L and the type of sparse tables. A sparse table lists
its entries by rising key; what is not listed is the table's default. Its operations stand in Machine/Sparse.lean. -/

namespace Sys2Proof

/-- One 32-bit lane, literal, route entry or instruction word (R154). -/
abbrev Word := BitVec 32

/-- One byte of memory. -/
abbrev Byte := BitVec 8

/-- A 64-bit register or trace time (R134). -/
abbrev DWord := BitVec 64

/-- A frame tag (R160). -/
abbrev Tag := BitVec 16

/-- A table from numbers to values, by rising key; an unlisted entry is the default. -/
abbrev Sparse (α : Type) := List (Nat × α)

end Sys2Proof
end

