-- ==== Sys2Proof/Machine/OpTable.lean ====
section
/-! DEFINITION. The opcode map (R334) as data: what each opcode reads, the modifier codes it defines and the formats
its slot attribute may accept. The decoder, the loader (R331, R335) and the meanings read this one table. -/

namespace Sys2Proof.Machine

/-- One opcode: its code and mnemonic; whether BSEL names operand B (else BSEL is a modifier, and bit `c` of `mods`
is set for each code `c` it defines, R327); whether it reads field P; the permitted FACC (R331). -/
structure OpInfo where
  op    : Nat
  name  : String
  readsB : Bool
  mods  : BitVec 16
  readsP : Bool
  facc  : BitVec 8
  deriving DecidableEq, Repr

def opRows0 : List OpInfo := [
  ⟨0x01, "IADD", true, 0x0000#16, false, 0x01#8⟩,
  ⟨0x02, "ISUB", true, 0x0000#16, false, 0x01#8⟩,
  ⟨0x03, "IADDS", true, 0x0000#16, false, 0x01#8⟩,
  ⟨0x04, "IADDUS", true, 0x0000#16, false, 0x01#8⟩,
  ⟨0x05, "ISUBS", true, 0x0000#16, false, 0x01#8⟩,
  ⟨0x06, "IMUL", true, 0x0000#16, false, 0x01#8⟩,
  ⟨0x07, "IMULH", true, 0x0000#16, false, 0x01#8⟩,
  ⟨0x08, "IMULHU", true, 0x0000#16, false, 0x01#8⟩,
  ⟨0x09, "IMAD", true, 0x0000#16, true, 0x01#8⟩,
  ⟨0x0A, "IDIV", true, 0x0000#16, false, 0x01#8⟩,
  ⟨0x0B, "IDIVU", true, 0x0000#16, false, 0x01#8⟩,
  ⟨0x0C, "IREM", true, 0x0000#16, false, 0x01#8⟩,
  ⟨0x0D, "IREMU", true, 0x0000#16, false, 0x01#8⟩,
  ⟨0x0E, "IMIN", true, 0x0000#16, false, 0x01#8⟩,
  ⟨0x0F, "IMAX", true, 0x0000#16, false, 0x01#8⟩]

def opRows1 : List OpInfo := [
  ⟨0x10, "IMINU", true, 0x0000#16, false, 0x01#8⟩,
  ⟨0x11, "IMAXU", true, 0x0000#16, false, 0x01#8⟩,
  ⟨0x12, "IABS", false, 0x0001#16, false, 0x01#8⟩,
  ⟨0x13, "INEG", false, 0x0001#16, false, 0x01#8⟩,
  ⟨0x14, "AND", true, 0x0000#16, false, 0x07#8⟩,
  ⟨0x15, "OR", true, 0x0000#16, false, 0x07#8⟩,
  ⟨0x16, "XOR", true, 0x0000#16, false, 0x07#8⟩,
  ⟨0x17, "ANDN", true, 0x0000#16, false, 0x07#8⟩,
  ⟨0x18, "NOT", false, 0x0001#16, false, 0x07#8⟩,
  ⟨0x19, "SHL", true, 0x0000#16, false, 0x07#8⟩,
  ⟨0x1A, "SHR", true, 0x0000#16, false, 0x07#8⟩,
  ⟨0x1B, "SAR", true, 0x0000#16, false, 0x07#8⟩,
  ⟨0x1C, "ROL", true, 0x0000#16, false, 0x07#8⟩,
  ⟨0x1D, "CLZ", false, 0x0001#16, false, 0x07#8⟩,
  ⟨0x1E, "POPC", false, 0x0001#16, false, 0x07#8⟩,
  ⟨0x1F, "BREV", false, 0x0001#16, false, 0x07#8⟩]

def opRows2 : List OpInfo := [
  ⟨0x20, "BFX", true, 0x0000#16, false, 0x07#8⟩,
  ⟨0x21, "BFI", true, 0x0000#16, true, 0x07#8⟩,
  ⟨0x22, "ISEQ", true, 0x0000#16, false, 0x01#8⟩,
  ⟨0x23, "ISNE", true, 0x0000#16, false, 0x01#8⟩,
  ⟨0x24, "ISLT", true, 0x0000#16, false, 0x01#8⟩,
  ⟨0x25, "ISLE", true, 0x0000#16, false, 0x01#8⟩,
  ⟨0x26, "ISLTU", true, 0x0000#16, false, 0x01#8⟩,
  ⟨0x27, "ISLEU", true, 0x0000#16, false, 0x01#8⟩]

def opRows3 : List OpInfo := [
  ⟨0x30, "FADD", true, 0x0000#16, false, 0x06#8⟩,
  ⟨0x31, "FSUB", true, 0x0000#16, false, 0x06#8⟩,
  ⟨0x32, "FMUL", true, 0x0000#16, false, 0x06#8⟩,
  ⟨0x33, "FMA", true, 0x0000#16, true, 0x06#8⟩,
  ⟨0x34, "FMIN", true, 0x0000#16, false, 0x06#8⟩,
  ⟨0x35, "FMAX", true, 0x0000#16, false, 0x06#8⟩,
  ⟨0x36, "FABS", false, 0x0001#16, false, 0x06#8⟩,
  ⟨0x37, "FNEG", false, 0x0001#16, false, 0x06#8⟩,
  ⟨0x38, "FSEQ", true, 0x0000#16, false, 0x06#8⟩,
  ⟨0x39, "FSLT", true, 0x0000#16, false, 0x06#8⟩,
  ⟨0x3A, "FSLE", true, 0x0000#16, false, 0x06#8⟩,
  ⟨0x3B, "FSUN", true, 0x0000#16, false, 0x06#8⟩,
  ⟨0x3C, "FSCALE", true, 0x0000#16, false, 0x07#8⟩,
  ⟨0x3D, "FRND", false, 0x000F#16, false, 0x06#8⟩,
  ⟨0x3E, "RCPE", false, 0x0001#16, false, 0x06#8⟩,
  ⟨0x3F, "RSQE", false, 0x0001#16, false, 0x06#8⟩]

def opRows4 : List OpInfo := [
  ⟨0x40, "EXP2", false, 0x0001#16, false, 0x06#8⟩,
  ⟨0x41, "LOG2", false, 0x0001#16, false, 0x06#8⟩,
  ⟨0x42, "TANH", false, 0x0001#16, false, 0x06#8⟩,
  ⟨0x43, "SIGM", false, 0x0001#16, false, 0x06#8⟩]

def opRows5 : List OpInfo := [
  ⟨0x50, "CVTFI", false, 0x00FF#16, false, 0x02#8⟩,
  ⟨0x51, "CVTIF", false, 0x0011#16, false, 0x01#8⟩,
  ⟨0x52, "CVTFB", false, 0x0001#16, false, 0x02#8⟩,
  ⟨0x53, "CVTBF", false, 0x0001#16, false, 0x04#8⟩,
  ⟨0x54, "CVTFH", false, 0x0001#16, false, 0x02#8⟩,
  ⟨0x55, "CVTHF", false, 0x0001#16, false, 0x01#8⟩,
  ⟨0x56, "QE4", true, 0x0000#16, false, 0x02#8⟩,
  ⟨0x57, "QE5", true, 0x0000#16, false, 0x02#8⟩,
  ⟨0x58, "QE2", true, 0x0000#16, false, 0x02#8⟩,
  ⟨0x59, "QAI8", true, 0x0000#16, false, 0x03#8⟩,
  ⟨0x5A, "QAI4", true, 0x0000#16, false, 0x03#8⟩,
  ⟨0x5B, "DQF", false, 0x0001#16, false, 0xF8#8⟩,
  ⟨0x5C, "SCALEOF", false, 0x0007#16, false, 0x02#8⟩,
  ⟨0x5D, "RETAG", false, 0x00FF#16, false, 0xFF#8⟩]

def opRows6 : List OpInfo := [
  ⟨0x60, "VBCAST", false, 0x00FF#16, false, 0xFF#8⟩,
  ⟨0x61, "VLANE", false, 0x00FF#16, false, 0xFF#8⟩,
  ⟨0x62, "VINS", true, 0x0000#16, true, 0xFF#8⟩,
  ⟨0x63, "VMERGE", true, 0x0000#16, false, 0xFF#8⟩,
  ⟨0x64, "VSPLIT", false, 0x00FE#16, false, 0xFF#8⟩,
  ⟨0x65, "VMASK", true, 0x0000#16, false, 0xFF#8⟩,
  ⟨0x66, "VSUM", false, 0x0001#16, false, 0x07#8⟩,
  ⟨0x67, "VMAX", false, 0x0001#16, false, 0x07#8⟩,
  ⟨0x68, "VMIN", false, 0x0001#16, false, 0x07#8⟩,
  ⟨0x69, "VDOT", true, 0x0000#16, false, 0x07#8⟩,
  ⟨0x6A, "VLEN", false, 0x0001#16, false, 0xFF#8⟩,
  ⟨0x6B, "VNZ", false, 0x0003#16, false, 0xFF#8⟩,
  ⟨0x6C, "VIOTA", false, 0x00FF#16, false, 0x01#8⟩]

def opRows7 : List OpInfo := [
  ⟨0x70, "PASS", false, 0x0001#16, false, 0xFF#8⟩,
  ⟨0x71, "STEER", false, 0x0003#16, true, 0xFF#8⟩,
  ⟨0x72, "SEL", true, 0x0000#16, true, 0x07#8⟩,
  ⟨0x73, "GATE", false, 0x0003#16, true, 0xFF#8⟩,
  ⟨0x74, "MERGE", true, 0x0000#16, false, 0xFF#8⟩,
  ⟨0x75, "RADD", true, 0x0000#16, false, 0x07#8⟩,
  ⟨0x76, "RMAX", true, 0x0000#16, false, 0x07#8⟩,
  ⟨0x77, "COUNT", false, 0x0003#16, false, 0xFF#8⟩,
  ⟨0x78, "EOSQ", false, 0x0001#16, false, 0xFF#8⟩,
  ⟨0x79, "EOSG", false, 0x0001#16, false, 0xFF#8⟩,
  ⟨0x7A, "TAGOF", false, 0x0001#16, false, 0xFF#8⟩,
  ⟨0x7B, "FREE", false, 0x0001#16, false, 0xFF#8⟩,
  ⟨0x7C, "SINK", false, 0x0001#16, false, 0xFF#8⟩,
  ⟨0x7D, "CONST", false, 0xFFFF#16, false, 0xFF#8⟩]

def opRows8 : List OpInfo := [
  ⟨0x80, "LDL", false, 0xFFFF#16, false, 0x01#8⟩,
  ⟨0x81, "STL", false, 0x0001#16, true, 0xFF#8⟩,
  ⟨0x82, "LDC", false, 0xFFFF#16, false, 0x01#8⟩,
  ⟨0x83, "STC", false, 0x0001#16, true, 0xFF#8⟩,
  ⟨0x84, "LDG", true, 0x0000#16, false, 0x01#8⟩,
  ⟨0x85, "STG", true, 0x0000#16, true, 0xFF#8⟩,
  ⟨0x86, "ATADD", true, 0x0000#16, true, 0x03#8⟩,
  ⟨0x87, "ATMIN", true, 0x0000#16, true, 0x03#8⟩,
  ⟨0x88, "ATMAX", true, 0x0000#16, true, 0x03#8⟩,
  ⟨0x89, "ATAND", true, 0x0000#16, true, 0x03#8⟩,
  ⟨0x8A, "ATOR", true, 0x0000#16, true, 0x03#8⟩,
  ⟨0x8B, "ATXOR", true, 0x0000#16, true, 0x03#8⟩,
  ⟨0x8C, "ATXCH", true, 0x0000#16, true, 0x03#8⟩,
  ⟨0x8D, "ATCAS", true, 0x0000#16, true, 0x03#8⟩,
  ⟨0x8E, "TICKET", true, 0x0000#16, false, 0x01#8⟩,
  ⟨0x8F, "APPEND", true, 0x0000#16, true, 0xFF#8⟩]

def opRows9 : List OpInfo := [
  ⟨0x90, "PREFG", true, 0x0000#16, false, 0x01#8⟩]

def opRowsA : List OpInfo := [
  ⟨0xA0, "JOIN", false, 0x0001#16, false, 0xFF#8⟩,
  ⟨0xA1, "LEAVE", false, 0x0001#16, false, 0xFF#8⟩,
  ⟨0xA2, "ARRIVE", false, 0x0001#16, false, 0xFF#8⟩,
  ⟨0xA3, "FENCE", false, 0x000F#16, false, 0xFF#8⟩,
  ⟨0xA4, "ACQ", false, 0x000F#16, false, 0xFF#8⟩,
  ⟨0xA5, "REL", false, 0x000F#16, false, 0xFF#8⟩,
  ⟨0xA6, "TRAP", false, 0x0001#16, false, 0xFF#8⟩,
  ⟨0xA7, "EVT", false, 0xFFFF#16, false, 0xFF#8⟩,
  ⟨0xA8, "TIME", false, 0x0001#16, false, 0xFF#8⟩,
  ⟨0xA9, "MBXS", false, 0x0001#16, false, 0xFF#8⟩,
  ⟨0xAA, "QPUT", true, 0x0000#16, false, 0xFF#8⟩,
  ⟨0xAB, "YIELD", false, 0x0001#16, false, 0xFF#8⟩]

def opRowsB : List OpInfo := [
  ⟨0xB0, "CPARM", true, 0x0000#16, false, 0x01#8⟩,
  ⟨0xB1, "CPDIS", true, 0x0000#16, false, 0x01#8⟩,
  ⟨0xB2, "CPGO", true, 0x0000#16, false, 0x01#8⟩,
  ⟨0xB3, "GATHER", true, 0x0000#16, false, 0x01#8⟩,
  ⟨0xB4, "SCATTER", true, 0x0000#16, true, 0x07#8⟩,
  ⟨0xB5, "SCATADD", true, 0x0000#16, true, 0x07#8⟩,
  ⟨0xB6, "TILELD", true, 0x0000#16, false, 0x01#8⟩,
  ⟨0xB7, "TILEST", true, 0x0000#16, false, 0x01#8⟩,
  ⟨0xB8, "OOBRD", true, 0x0000#16, false, 0x01#8⟩]

def opRowsC : List OpInfo := [
  ⟨0xC0, "MXLW", true, 0x0000#16, false, 0x01#8⟩,
  ⟨0xC1, "MXSWAP", true, 0x0000#16, false, 0x01#8⟩,
  ⟨0xC2, "MXSTR", true, 0x0000#16, false, 0x01#8⟩,
  ⟨0xC3, "MXZERO", true, 0x0000#16, false, 0x01#8⟩,
  ⟨0xC4, "MXDRP", true, 0x0000#16, false, 0x01#8⟩,
  ⟨0xC5, "MXDRS", true, 0x0000#16, false, 0x01#8⟩,
  ⟨0xC6, "MXDRM", true, 0x0000#16, false, 0x01#8⟩,
  ⟨0xC7, "MXQP", true, 0x0000#16, false, 0x01#8⟩]

def opRowsD : List OpInfo := [
  ⟨0xD0, "TDCFG", true, 0x0000#16, false, 0x01#8⟩,
  ⟨0xD1, "TDSC", true, 0x0000#16, false, 0x01#8⟩,
  ⟨0xD2, "TDGRP", true, 0x0000#16, false, 0x01#8⟩,
  ⟨0xD3, "TDPTR", true, 0x0000#16, false, 0x01#8⟩,
  ⟨0xD4, "TDNODE", true, 0x0000#16, false, 0x01#8⟩,
  ⟨0xD8, "BRCFG", true, 0x0000#16, false, 0x01#8⟩,
  ⟨0xD9, "BRIN", true, 0x0000#16, false, 0x01#8⟩,
  ⟨0xDA, "BRRET", true, 0x0000#16, false, 0x01#8⟩,
  ⟨0xDB, "BRSTAT", true, 0x0000#16, false, 0x01#8⟩,
  ⟨0xDC, "BRPIN", true, 0x0000#16, false, 0x01#8⟩]

def opRowsE : List OpInfo := [
  ⟨0xE0, "SHIDX", true, 0x0000#16, false, 0x01#8⟩,
  ⟨0xE1, "PACKR", true, 0x0000#16, false, 0x01#8⟩,
  ⟨0xE2, "SEGID", true, 0x0000#16, false, 0x01#8⟩]

/-- Every opcode of R334. -/
def opTable : List OpInfo := opRows0 ++ opRows1 ++ opRows2 ++ opRows3 ++ opRows4 ++ opRows5 ++ opRows6 ++ opRows7 ++ opRows8 ++ opRows9 ++ opRowsA ++ opRowsB ++ opRowsC ++ opRowsD ++ opRowsE

/-- The entry of an opcode; none for VOID and the reserved cells of R334. -/
def opInfo (op : Nat) : Option OpInfo := opTable.find? fun r => r.op == op

/-- Engine commands (R332). -/
def isCommand (op : Nat) : Bool :=
  (0xB0 <= op && op <= 0xB8) || (0xC0 <= op && op <= 0xC7) || (0xD0 <= op && op <= 0xD4) ||
  (0xD8 <= op && op <= 0xDC) || (0xE0 <= op && op <= 0xE2)

/-- Memory opcodes that name a memory port in D1 (R392). -/
def isPortOp (op : Nat) : Bool := 0x82 <= op && op <= 0x90

/-- Set opcodes, which name a set in D1 (R403). -/
def isSetOp (op : Nat) : Bool := 0xA0 <= op && op <= 0xA2

/-- Whether an engine port (R245) accepts a command. -/
def portAccepts (port op : Nat) : Bool :=
  if port <= 5 then 0xC0 <= op && op <= 0xC7
  else if port == 6 then (0xB0 <= op && op <= 0xB2) || (0xB6 <= op && op <= 0xB8)
  else if port == 7 then 0xB3 <= op && op <= 0xB5
  else if port == 8 then 0xD0 <= op && op <= 0xD4
  else if port == 9 then 0xD8 <= op && op <= 0xDC
  else port == 10 && 0xE0 <= op && op <= 0xE2

end Sys2Proof.Machine
end

