-- ==== Sys2Proof/Syntax.lean ====
section
/-! DEFINITION. The operations and events of the GQF-720L: one constructor per row of spec/opcode_table.json.
An event's arguments name the agent it concerns (partition `n`, logical queue `q`, ring `i`, region `r`, cluster
`cl`, data ring `d`, graph handle `h`, element `el`, place `k` in a list of work in progress) and carry what comes
from outside the device. An event of a queue or a data ring that has no argument concerns the one in hand
(`State.hand`), as an opcode concerns the site in hand (`State.focus`). An opcode's arguments are the fields of its
instruction word (R325): `a` ASEL, `b` BSEL, `d` D0, `e` D1, `t` TACT, and where the table names them so `s` the
scope and `m` the modifier. Constructors with arguments stand first. -/

namespace Sys2Proof

/-- The three firmware bodies (R38, R42). -/
inductive Body where
  | engine | scheduler | controller
  deriving DecidableEq, Repr

/-- What VERIFY finds in a firmware image (R45, R102): facts of the image, which the device reads out of it. -/
structure ImageFacts where
  version      : BitVec 32
  security     : Nat
  schema       : Nat
  importLo     : Nat
  importHi     : Nat
  writes       : List Nat
  signatureOk  : Bool
  fgePeak      : Nat
  measurement  : BitVec 256
  deriving DecidableEq, Repr, Inhabited

/-- A signed configuration record in flash (R32), with its verification outcome. -/
inductive FlashItem where
  | powerCap (watts : Nat) | recoveryTimeout (secs : Nat) | t1Default (us : Nat) | t2Default (us : Nat)
  | minSecurity (body : Body) (version : Nat)
  deriving DecidableEq, Repr

/-- A flash record and whether its signature verifies (R32). -/
structure FlashRecord where
  item     : FlashItem
  verifies : Bool
  deriving DecidableEq, Repr

/-- A CXL Type 3 memory expander (R17): the base of the second-tier range that HDM decoding places it in, the bytes it
backs, how many expanders the range interleaves at 4 KiB, and its place among them. -/
structure Expander where
  base  : Nat
  bytes : Nat
  ways  : Nat := 1
  way   : Nat := 0
  /-- It and any switch on its path advertise 128 GT/s. -/
  fast  : Bool := false
  deriving DecidableEq, Repr

/-- How the host link trains (R13): in FLIT mode or not, and its rate in GT/s. -/
structure LinkRate where
  flit : Bool
  gts  : Nat
  deriving DecidableEq, Repr

/-- A partition's tables as the memory management complex of a die walks them (R7, R199). -/
structure WalkTables where
  die  : Nat
  part : Nat
  deriving DecidableEq, Repr

/-- A PLDM type 2 sensor (R19). -/
inductive Sensor where
  | temperature (which : Nat) | cardPower | powerCap | clock
  deriving DecidableEq, Repr

/-- The host's answer to an ATS translation request (R201). -/
inductive AtsAnswer where
  | present (pa : Nat) (rd wr : Bool) | notPresent | denied
  deriving DecidableEq, Repr

/-- One entry of an element's four tables in one version (R154). -/
inductive TableEntry where
  | slot (v : Bool) (n : Nat) | lit (v : Bool) (n : Nat) | route (v : Bool) (n : Nat) | attr (v : Bool) (n : Nat)
  deriving DecidableEq, Repr

/-- The operations and events of spec/opcode_table.json. -/
inductive Instr where
  /-- STAGE_S0_REACHED (R28). The management controller has booted and verified the flash records, so the sideband port, identity, attestation and wear reports are served. -/
  | stageS0Reached (flash : List FlashRecord)
  /-- STAGE_DEADLINE_MISSED (R31). A unit misses its stage deadline; the device stays at the previous stage, sets STALLED and FAILUNIT, and reports the failure over the sideband. -/
  | stageDeadlineMissed (unit : BitVec 8)
  /-- DRVFEAT_WRITE (R35). A driver write to DRVFEAT sets FEATACT to FEATACT OR (DEVFEAT AND DRVFEAT) and clears FEATPEND. -/
  | drvfeatWrite (v : BitVec 32)
  /-- VF_FLR (R21). Function-level reset of a VF resets the partition's engines, queues, regions, tags and trace ring within 2 ms. -/
  | vfFlr (n : Nat)
  /-- PCIE_LINK_TRAINED (R14). The host link trains and the device reports the trained speed and width in its link status registers and as a trace event. -/
  | pcieLinkTrained (rate : LinkRate) (width : Nat)
  /-- BAR2BASE_WRITE (R15). A write of BAR2BASE moves the PF BAR2 window, and is ignored when the base is not a multiple of the BAR2 size. -/
  | bar2baseWrite (v : BitVec 64)
  /-- HOST_BAR2_ACCESS (R15). A host read or write through BAR2 reaches physical address BAR2BASE + offset at SYS scope, or completes with all ones or is discarded and counted when nothing is mapped there. -/
  | hostBar2Access (off : Nat) (write : Bool) (data : List Byte)
  /-- HOST_VF_BAR_ACCESS_IN_FLR (R23). Host writes to a VF's BAR pages during that VF's FLR are discarded and reads complete with all ones. -/
  | hostVfBarAccessInFlr (n off : Nat) (write : Bool) (v : BitVec 64)
  /-- CXL_LINK_TRAINED (R17). The CXL port trains to the highest rate all parts support and reports it as a LINK event with code 0. -/
  | cxlLinkTrained (gts width : Nat) (expanders : List Expander)
  /-- EXPANDER_LOST (R18). An expander is removed or fails; its reads return poison, its writes are dropped and counted, and a device-wide event is raised. -/
  | expanderLost (k : Nat)
  /-- D2D_UNCORRECTABLE_FLIT (R8). An uncorrectable die-to-die flit poisons the affected data granules. -/
  | d2dUncorrectableFlit (granules : List (Bool × Nat))
  /-- TIME_OF_DAY_DELIVERY (R20). The tray's management controller delivers over the sideband the time of day that belongs to a PPS edge. -/
  | timeOfDayDelivery (secs : Nat)
  /-- D2D_TIME_CALIBRATION (R136). Every 100 µs the queenside counter is calibrated to the kingside counter over the die-to-die link. -/
  | d2dTimeCalibration (diff : BitVec 16)
  /-- POWER_CAP_SET (R12). A PLDM type 2 request sets the card power cap from 900 W to 1,800 W. -/
  | powerCapSet (watts : Nat)
  /-- CLOCK_STEP (R12). The management controller lowers or raises the arithmetic clock in a 25 MHz step to keep average power at the cap, and emits a POWER event. -/
  | clockStep (up : Bool)
  /-- PLDM_SENSOR_READ (R19). A PLDM type 2 request reads temperatures, card power, the power cap or the clock. -/
  | pldmSensorRead (sensor : Sensor)
  /-- WEAR_UPDATE (R41). Every 60 s the management controller recomputes the wear indicators and rewrites the wear page under its odd and even generation word. -/
  | wearUpdate (entries : List (BitVec 128))
  /-- ATTESTATION_REQUEST_SIDEBAND (R39). A vendor-defined MCTP attestation request with a nonce is answered with a signed report, or refused with KEY_EXHAUSTED. -/
  | attestationRequestSideband (nonce : BitVec 256)
  /-- PLDM_FW_UPDATE (R42). A castling image is delivered over PLDM type 5 on the sideband port and requests castling. -/
  | pldmFwUpdate (body : Body) (img : ImageFacts)
  /-- FWSCTL_OPEN (R43). Writing OPEN begins a new staged image of FWSSIZE bytes and discards any image not yet requested. -/
  | fwsctlOpen (body : BitVec 2)
  /-- FWSCTL_GO (R43). Writing GO hands a complete image to VERIFY, or sets FWSSTAT error 3 or 4. -/
  | fwsctlGo (img : ImageFacts)
  /-- ENGINE_STORE_SWAP (R47). One engine at a command or checkpoint boundary swaps to its new or old control store within 5 µs. -/
  | engineStoreSwap (e : Nat)
  /-- DOORBELL_WRITE (R57). A write to a ring's doorbell page sets its producer index if the value is in range, and is otherwise discarded, counted and traced. -/
  | doorbellWrite (n q i : Nat) (v : BitVec 32)
  /-- RING_FETCH (R58). The device fetches a published ring packet and checks its SEQ against its ring index. -/
  | ringFetch (n q i : Nat)
  /-- EVICT_DONE (R66). Every activation of the evicted graph has completed, the configuration is removed and OOBCNT and TICKET are written back. -/
  | evictDone (n h : Nat)
  /-- ACTIVATION_QUIESCENT (R72). An activation's live count reaches zero; the front end waits for SYS performance, frees its tags, writes the completion record, advances LASTSEQ and signals MSI-X. -/
  | activationQuiescent (n : Nat) (root : BitVec 16)
  /-- CPLHEAD_WRITE (R74). The consumer advances CPLHEAD, releasing held completions and any admission stalled on a full completion ring. -/
  | cplheadWrite (n q : Nat) (v : BitVec 32)
  /-- QCTL_ENABLE_SET (R55). Setting ENABLE on a valid idle queue resets ring indices, sequence, completion indices and LASTSEQ, and starts fetch. -/
  | qctlEnableSet (n q : Nat) (v : BitVec 64)
  /-- QCTL_ENABLE_CLEAR (R82). Clearing ENABLE stops fetch and admission at once; admitted activations complete and the queue becomes IDLE. -/
  | qctlEnableClear (n q : Nat)
  /-- QCTL_CMD_RESUME (R81). CMD resume returns a SAVED or RECOVERY queue to RUN from rung 2 with its merge state and activations. -/
  | qctlCmdResume (n q : Nat)
  /-- QCTL_CMD_RESET (R81). CMD reset takes the queue's activations through rung 3, discards unadmitted packets and leaves the queue IDLE with ENABLE 0. -/
  | qctlCmdReset (n q : Nat)
  /-- MBXHEAD_WRITE (R408). The host advances MBXHEAD, letting held firmware messages and held MBXS firings write into the freed slots. -/
  | mbxheadWrite (n : Nat) (v : BitVec 32)
  /-- MBXCTL_WRITE (R75). A write to MBXCTL configures the mailbox and clears FAULTED, after which the reserve is written out as the mailbox allows. -/
  | mbxctlWrite (n : Nat) (v : BitVec 64)
  /-- DATA_DOORBELL_WRITE (R83). A write to a data ring's doorbell sets its producer index when within 2^RLOG2 of DRPUB.P. -/
  | dataDoorbellWrite (n d : Nat) (v : BitVec 32)
  /-- DRCTL_ENABLE_SET (R85). Setting ENABLE on a valid idle data ring zeroes its indices and starts fetching and streaming. -/
  | drctlEnableSet (n d : Nat) (v : BitVec 64)
  /-- DRCTL_ENABLE_CLEAR (R85). Clearing ENABLE stops fetch and closes the open stream as a FLUSH would. -/
  | drctlEnableClear (n d : Nat)
  /-- DRCTL_CMD_RESUME (R85). CMD resume continues a saved data ring as QCTL resume does for a queue. -/
  | drctlCmdResume (n d : Nat)
  /-- DRCTL_CMD_RESET (R101). CMD reset loses the ring state, sets P per R90, frees the open stream's tag and leaves the ring IDLE with ENABLE 0. -/
  | drctlCmdReset (n d : Nat)
  /-- REGION_GRANT (R108). The FGE grants a region to a ready queue, taking it from a lower-priority victim through the ladder when none is free. -/
  | regionGrant (r n q : Nat)
  /-- QUANTUM_CHARGE (R119). Each microsecond a holder is charged region time; when its charge exceeds its deficit and a peer waits, its regions are reclaimed. -/
  | quantumCharge (us : Nat)
  /-- ENGINE_BOUNDARY_SAVE (R124). An engine command of the queue reaches its save boundary and its state goes to the partition's save area. -/
  | engineBoundarySave (k : Nat)
  /-- SHADOW_EXCHANGE (R125). The halted elements' ELM and input queues are exchanged with the shadow banks in 2 µs. -/
  | shadowExchange (r : Nat)
  /-- PARTCFG_HOLD_SET (R129). Setting HOLD takes every queue of the partition through the ladder from rung 2 and keeps it SAVED. -/
  | partcfgHoldSet (n : Nat)
  /-- PARTCFG_HOLD_CLEAR (R129). Clearing HOLD lets each saved queue wait for CMD resume. -/
  | partcfgHoldClear (n : Nat)
  /-- SPILL_WATCHDOG (R128). A partition with live tokens makes no progress for 10 ms of watched time and goes to rung 3 with SPILL_DEADLOCK. -/
  | spillWatchdog (n : Nat)
  /-- RM_LOAD (R105). A region manager reads and validates a GQX image and fills the region configuration cache, or fails the RESIDE with CONFIG_INVALID. -/
  | rmLoad (n h : Nat)
  /-- RM_PLACE (R111). The manager chooses an origin, binds ports and set units, writes hot entries and marks the rest absent. -/
  | rmPlace (n h : Nat)
  /-- RM_FETCH (R114). The manager supplies from device memory an absent entry that the configuration cache does not hold. -/
  | rmFetch (el : Nat) (entry : TableEntry)
  /-- CONFIG_ENTRY_FETCHED (R114). An absent table entry arrives in the element and the waiting token may proceed. -/
  | configEntryFetched (el : Nat) (entry : TableEntry)
  /-- STAGE_INPUT_IDLE (R117). A stage's input has been empty for 1 µs while a swapped-out stage's input holds an entry. -/
  | stageInputIdle (n h : Nat)
  /-- RM_STAGE_SWAP (R117). The manager spills the outgoing stage's parts, parks its tokens and writes the incoming stage into the version once its count is zero. -/
  | rmStageSwap (n out inn : Nat)
  /-- RM_RESOLVE (R200). The manager resolves a replayable translation fault with the memory management complex or PRI. -/
  | rmResolve (n page : Nat) (pte : Option (BitVec 64))
  /-- FAULT_REPLAY (R200). A parked access is replayed after resolution, or becomes PERM if it faults again. -/
  | faultReplay (n page : Nat)
  /-- TRCTL_EN_SET (R144). Setting trace ring EN zeroes TRHEAD and TRTAIL and starts writing events. -/
  | trctlEnSet (n : Nat) (v : BitVec 64)
  /-- TRACE_FILTER_WRITE (R144). A write that changes TRCLASS, SAMPK, LOSSLESS or a TRSRC entry takes effect and emits a TRACE event of code 3. -/
  | traceFilterWrite (n off : Nat) (v : BitVec 64)
  /-- TRHEAD_WRITE (R144). The reader advances TRHEAD, freeing slots for held emitters and lost reports. -/
  | trheadWrite (n : Nat) (v : BitVec 32)
  /-- TRACE_FORCED_LOSSY (R150). After 10 ms of trace stall within one ladder rung the ring is forced lossy. -/
  | traceForcedLossy (n : Nat)
  /-- ELCSEL_WRITE (R177). A write of ELCSEL samples and optionally clears one element counter into ELCVAL within 2 µs. -/
  | elcselWrite (n : Nat) (v : BitVec 64)
  /-- TOKEN_ENQUEUE (R166). A token reaching an element's input queue enters its frame part or waits for a part, a field or room. -/
  | tokenEnqueue (k : Nat)
  /-- FRAME_PART_RELOAD (R167). A spilled part returns and its parked tokens are released in parking order. -/
  | framePartReload (el : Nat) (tag : BitVec 16)
  /-- QUEUE_REFILL (R175). A queue with room is refilled from the spill ring in arrival order. -/
  | queueRefill (r : Nat)
  /-- TRANSLATION_WALK (R200). A walker finishes a page-table walk and either fills the TLBs or parks the access on a not-present entry. -/
  | translationWalk (tables : WalkTables) (page : Nat)
  /-- ATS_INVALIDATION (R201). A host ATS invalidation completes after every access using the old translation has performed. -/
  | atsInvalidation (pasid page : Nat)
  /-- TLBINV_WRITE (R201). A write of TLBINV invalidates translations of a CTX and page, with bit 63 reading 1 until old accesses have performed. -/
  | tlbinvWrite (v : BitVec 64)
  /-- HBM_FORCED_REFRESH (R197). With 8 refreshes postponed the controller refreshes every bank of the pseudo-channel at once and emits MEMCTL code 0. -/
  | hbmForcedRefresh (stack pc : Nat)
  /-- HBM_CORRECTED_ERROR (R197). A corrected memory error emits MEMCTL code 1. -/
  | hbmCorrectedError (stack pc count : Nat)
  /-- HBM_UNCORRECTABLE_ERROR (R197). An uncorrectable memory error poisons its granule and emits MEMCTL code 2. -/
  | hbmUncorrectableError (pa pc : Nat)
  /-- LATCTL_CLR (R198). Writing CLR clears a memory port's LATMAX and latency histogram. -/
  | latctlClr (r p : Nat)
  /-- COPY_TRIGGER (R259). A token reaching an armed hardware queue fires its template once with the trigger's coordinate offsets and tag. -/
  | copyTrigger (cl hq : Nat)
  /-- COPY_RETIRE (R261). A copy finishes its writes, posts its byte count to its channel binding and, for CPGO, emits its completion. -/
  | copyRetire (k : Nat)
  /-- ENGINE_FIFO_ISSUE (R257). A command waiting on WAITF issues when a token arrives in its sync FIFO. -/
  | engineFifoIssue (k : Nat)
  /-- ENGINE_RETIRE (R215). An engine command retires, performs its release if any, pushes SIGF and emits its completion token. -/
  | engineRetire (k : Nat)
  /-- MXDRP_ROW_ARRIVE (R254). A row sent by MXDRP is added into the target core's tile with one rounding per element. -/
  | mxdrpRowArrive (k : Nat)
  /-- ENGINE_NONCOMMAND_DROP (R422). A token reaching an engine port that is not a command or an awaited steering token is dropped and counted. -/
  | engineNoncommandDrop (k : Nat)
  /-- REGISTER_WRITE (R3). A write to a register field without behaviour of its own stores the value, subject to its field's access and ignore rules. -/
  | registerWrite (off : Nat) (v : BitVec 64)
  /-- IADD, OP 0x01 (R356). Lane-wise wrapping 32-bit add. -/
  | iadd (a b : BitVec 4) (d e : BitVec 6) (t : BitVec 4)
  /-- ISUB, OP 0x02 (R356). Lane-wise wrapping 32-bit subtract. -/
  | isub (a b : BitVec 4) (d e : BitVec 6) (t : BitVec 4)
  /-- IADDS, OP 0x03 (R356). Lane-wise signed saturating add. -/
  | iadds (a b : BitVec 4) (d e : BitVec 6) (t : BitVec 4)
  /-- IADDUS, OP 0x04 (R356). Lane-wise unsigned saturating add. -/
  | iaddus (a b : BitVec 4) (d e : BitVec 6) (t : BitVec 4)
  /-- ISUBS, OP 0x05 (R356). Lane-wise signed saturating subtract. -/
  | isubs (a b : BitVec 4) (d e : BitVec 6) (t : BitVec 4)
  /-- IMUL, OP 0x06 (R356). Low 32 bits of the lane-wise product. -/
  | imul (a b : BitVec 4) (d e : BitVec 6) (t : BitVec 4)
  /-- IMULH, OP 0x07 (R356). High 32 bits of the signed lane-wise product. -/
  | imulh (a b : BitVec 4) (d e : BitVec 6) (t : BitVec 4)
  /-- IMULHU, OP 0x08 (R356). High 32 bits of the unsigned lane-wise product. -/
  | imulhu (a b : BitVec 4) (d e : BitVec 6) (t : BitVec 4)
  /-- IMAD, OP 0x09 (R356). Lane-wise wrapping a × b + c with c from field P. -/
  | imad (a b : BitVec 4) (d e : BitVec 6) (t : BitVec 4)
  /-- IDIV, OP 0x0A (R357). Lane-wise signed division truncating toward zero on the shared divider. -/
  | idiv (a b : BitVec 4) (d e : BitVec 6) (t : BitVec 4)
  /-- IDIVU, OP 0x0B (R357). Lane-wise unsigned division on the shared divider. -/
  | idivu (a b : BitVec 4) (d e : BitVec 6) (t : BitVec 4)
  /-- IREM, OP 0x0C (R357). Lane-wise signed remainder with the dividend's sign. -/
  | irem (a b : BitVec 4) (d e : BitVec 6) (t : BitVec 4)
  /-- IREMU, OP 0x0D (R357). Lane-wise unsigned remainder. -/
  | iremu (a b : BitVec 4) (d e : BitVec 6) (t : BitVec 4)
  /-- IMIN, OP 0x0E (R356). Lane-wise signed minimum. -/
  | imin (a b : BitVec 4) (d e : BitVec 6) (t : BitVec 4)
  /-- IMAX, OP 0x0F (R356). Lane-wise signed maximum. -/
  | imax (a b : BitVec 4) (d e : BitVec 6) (t : BitVec 4)
  /-- IMINU, OP 0x10 (R356). Lane-wise unsigned minimum. -/
  | iminu (a b : BitVec 4) (d e : BitVec 6) (t : BitVec 4)
  /-- IMAXU, OP 0x11 (R356). Lane-wise unsigned maximum. -/
  | imaxu (a b : BitVec 4) (d e : BitVec 6) (t : BitVec 4)
  /-- IABS, OP 0x12 (R356). Lane-wise wrapping absolute value. -/
  | iabs (a : BitVec 4) (d e : BitVec 6) (t : BitVec 4)
  /-- INEG, OP 0x13 (R356). Lane-wise wrapping negation. -/
  | ineg (a : BitVec 4) (d e : BitVec 6) (t : BitVec 4)
  /-- AND, OP 0x14 (R356). Lane-wise bitwise AND. -/
  | and (a b : BitVec 4) (d e : BitVec 6) (t : BitVec 4)
  /-- OR, OP 0x15 (R356). Lane-wise bitwise OR. -/
  | or (a b : BitVec 4) (d e : BitVec 6) (t : BitVec 4)
  /-- XOR, OP 0x16 (R356). Lane-wise bitwise exclusive OR. -/
  | xor (a b : BitVec 4) (d e : BitVec 6) (t : BitVec 4)
  /-- ANDN, OP 0x17 (R356). Lane-wise a AND NOT b. -/
  | andn (a b : BitVec 4) (d e : BitVec 6) (t : BitVec 4)
  /-- NOT, OP 0x18 (R356). Lane-wise bitwise complement. -/
  | not (a : BitVec 4) (d e : BitVec 6) (t : BitVec 4)
  /-- SHL, OP 0x19 (R358). Lane-wise left shift by b[4:0]. -/
  | shl (a b : BitVec 4) (d e : BitVec 6) (t : BitVec 4)
  /-- SHR, OP 0x1A (R358). Lane-wise logical right shift by b[4:0]. -/
  | shr (a b : BitVec 4) (d e : BitVec 6) (t : BitVec 4)
  /-- SAR, OP 0x1B (R358). Lane-wise arithmetic right shift by b[4:0]. -/
  | sar (a b : BitVec 4) (d e : BitVec 6) (t : BitVec 4)
  /-- ROL, OP 0x1C (R358). Lane-wise left rotate by b[4:0]. -/
  | rol (a b : BitVec 4) (d e : BitVec 6) (t : BitVec 4)
  /-- CLZ, OP 0x1D (R356). Lane-wise count of leading zero bits. -/
  | clz (a : BitVec 4) (d e : BitVec 6) (t : BitVec 4)
  /-- POPC, OP 0x1E (R356). Lane-wise count of set bits. -/
  | popc (a : BitVec 4) (d e : BitVec 6) (t : BitVec 4)
  /-- BREV, OP 0x1F (R356). Lane-wise bit reversal. -/
  | brev (a : BitVec 4) (d e : BitVec 6) (t : BitVec 4)
  /-- BFX, OP 0x20 (R359). Lane-wise bit-field extract with optional sign extension. -/
  | bfx (a b : BitVec 4) (d e : BitVec 6) (t : BitVec 4)
  /-- BFI, OP 0x21 (R359). Lane-wise bit-field insert of c from field P. -/
  | bfi (a b : BitVec 4) (d e : BitVec 6) (t : BitVec 4)
  /-- ISEQ, OP 0x22 (R356). Lane-wise equality predicate. -/
  | iseq (a b : BitVec 4) (d e : BitVec 6) (t : BitVec 4)
  /-- ISNE, OP 0x23 (R356). Lane-wise inequality predicate. -/
  | isne (a b : BitVec 4) (d e : BitVec 6) (t : BitVec 4)
  /-- ISLT, OP 0x24 (R356). Lane-wise signed less-than predicate. -/
  | islt (a b : BitVec 4) (d e : BitVec 6) (t : BitVec 4)
  /-- ISLE, OP 0x25 (R356). Lane-wise signed less-or-equal predicate. -/
  | isle (a b : BitVec 4) (d e : BitVec 6) (t : BitVec 4)
  /-- ISLTU, OP 0x26 (R356). Lane-wise unsigned less-than predicate. -/
  | isltu (a b : BitVec 4) (d e : BitVec 6) (t : BitVec 4)
  /-- ISLEU, OP 0x27 (R356). Lane-wise unsigned less-or-equal predicate. -/
  | isleu (a b : BitVec 4) (d e : BitVec 6) (t : BitVec 4)
  /-- FADD, OP 0x30 (R365). Element-wise float add with one rounding. -/
  | fadd (a b : BitVec 4) (d e : BitVec 6) (t : BitVec 4)
  /-- FSUB, OP 0x31 (R365). Element-wise float subtract with one rounding. -/
  | fsub (a b : BitVec 4) (d e : BitVec 6) (t : BitVec 4)
  /-- FMUL, OP 0x32 (R365). Element-wise float multiply with one rounding. -/
  | fmul (a b : BitVec 4) (d e : BitVec 6) (t : BitVec 4)
  /-- FMA, OP 0x33 (R365). Element-wise fused multiply-add with c from field P and one rounding. -/
  | fma (a b : BitVec 4) (d e : BitVec 6) (t : BitVec 4)
  /-- FMIN, OP 0x34 (R365). Element-wise float minimum with −0 below +0. -/
  | fmin (a b : BitVec 4) (d e : BitVec 6) (t : BitVec 4)
  /-- FMAX, OP 0x35 (R365). Element-wise float maximum with +0 above −0. -/
  | fmax (a b : BitVec 4) (d e : BitVec 6) (t : BitVec 4)
  /-- FABS, OP 0x36 (R365). Element-wise float absolute value. -/
  | fabs (a : BitVec 4) (d e : BitVec 6) (t : BitVec 4)
  /-- FNEG, OP 0x37 (R365). Element-wise float sign inversion. -/
  | fneg (a : BitVec 4) (d e : BitVec 6) (t : BitVec 4)
  /-- FSEQ, OP 0x38 (R365). Element-wise float equality predicate. -/
  | fseq (a b : BitVec 4) (d e : BitVec 6) (t : BitVec 4)
  /-- FSLT, OP 0x39 (R365). Element-wise float less-than predicate. -/
  | fslt (a b : BitVec 4) (d e : BitVec 6) (t : BitVec 4)
  /-- FSLE, OP 0x3A (R365). Element-wise float less-or-equal predicate. -/
  | fsle (a b : BitVec 4) (d e : BitVec 6) (t : BitVec 4)
  /-- FSUN, OP 0x3B (R365). Element-wise unordered (NaN) predicate. -/
  | fsun (a b : BitVec 4) (d e : BitVec 6) (t : BitVec 4)
  /-- FSCALE, OP 0x3C (R365). Element-wise multiply by 2^k with one rounding. -/
  | fscale (a b : BitVec 4) (d e : BitVec 6) (t : BitVec 4)
  /-- FRND, OP 0x3D (R365). Element-wise rounding to an integral value in the selected mode. -/
  | frnd (a m : BitVec 4) (d e : BitVec 6) (t : BitVec 4)
  /-- RCPE, OP 0x3E (R367). Reciprocal rounded to 8 significant bits. -/
  | rcpe (a : BitVec 4) (d e : BitVec 6) (t : BitVec 4)
  /-- RSQE, OP 0x3F (R367). Reciprocal square root rounded to 8 significant bits. -/
  | rsqe (a : BitVec 4) (d e : BitVec 6) (t : BitVec 4)
  /-- EXP2, OP 0x40 (R367). Base-2 exponential within 2 ulp. -/
  | exp2 (a : BitVec 4) (d e : BitVec 6) (t : BitVec 4)
  /-- LOG2, OP 0x41 (R367). Base-2 logarithm within 2 ulp. -/
  | log2 (a : BitVec 4) (d e : BitVec 6) (t : BitVec 4)
  /-- TANH, OP 0x42 (R367). Hyperbolic tangent within 2 ulp. -/
  | tanh (a : BitVec 4) (d e : BitVec 6) (t : BitVec 4)
  /-- SIGM, OP 0x43 (R367). Logistic sigmoid within 2 ulp. -/
  | sigm (a : BitVec 4) (d e : BitVec 6) (t : BitVec 4)
  /-- CVTFI, OP 0x50 (R370). F32 to signed or unsigned integer with the selected rounding and saturation. -/
  | cvtfi (a m : BitVec 4) (d e : BitVec 6) (t : BitVec 4)
  /-- CVTIF, OP 0x51 (R370). Signed or unsigned integer to F32 with one rounding. -/
  | cvtif (a m : BitVec 4) (d e : BitVec 6) (t : BitVec 4)
  /-- CVTFB, OP 0x52 (R371). F32 to packed BF16 pairs. -/
  | cvtfb (a : BitVec 4) (d e : BitVec 6) (t : BitVec 4)
  /-- CVTBF, OP 0x53 (R371). BF16 pairs widened exactly to F32. -/
  | cvtbf (a : BitVec 4) (d e : BitVec 6) (t : BitVec 4)
  /-- CVTFH, OP 0x54 (R371). F32 to packed FP16 pairs. -/
  | cvtfh (a : BitVec 4) (d e : BitVec 6) (t : BitVec 4)
  /-- CVTHF, OP 0x55 (R371). FP16 pairs widened exactly to F32. -/
  | cvthf (a : BitVec 4) (d e : BitVec 6) (t : BitVec 4)
  /-- QE4, OP 0x56 (R372). Quantise F32 elements to E4M3 with one S10 block scale. -/
  | qe4 (a b : BitVec 4) (d e : BitVec 6) (t : BitVec 4)
  /-- QE5, OP 0x57 (R372). Quantise F32 elements to E5M2 with one S10 block scale. -/
  | qe5 (a b : BitVec 4) (d e : BitVec 6) (t : BitVec 4)
  /-- QE2, OP 0x58 (R372). Quantise F32 elements to E2M1 with one S10 block scale. -/
  | qe2 (a b : BitVec 4) (d e : BitVec 6) (t : BitVec 4)
  /-- QAI8, OP 0x59 (R373). Quantise F32 elements to AI8 with an FP16 scale and zero point. -/
  | qai8 (a b : BitVec 4) (d e : BitVec 6) (t : BitVec 4)
  /-- QAI4, OP 0x5A (R373). Quantise F32 elements to AI4 with an FP16 scale and zero point. -/
  | qai4 (a b : BitVec 4) (d e : BitVec 6) (t : BitVec 4)
  /-- DQF, OP 0x5B (R374). Dequantise an FMT 3–7 packet exactly to F32. -/
  | dqf (a : BitVec 4) (d e : BitVec 6) (t : BitVec 4)
  /-- SCALEOF, OP 0x5C (R375). Return the S10 scale value that quantises |a| without saturation. -/
  | scaleof (a m : BitVec 4) (d e : BitVec 6) (t : BitVec 4)
  /-- RETAG, OP 0x5D (R376). Relabel a packet's FMT without changing its lane words. -/
  | retag (a m : BitVec 4) (d e : BitVec 6) (t : BitVec 4)
  /-- VBCAST, OP 0x60 (R381). Broadcast lane 0 to n lanes. -/
  | vbcast (a m : BitVec 4) (d e : BitVec 6) (t : BitVec 4)
  /-- VLANE, OP 0x61 (R381). Extract lane k as a one-lane token. -/
  | vlane (a m : BitVec 4) (d e : BitVec 6) (t : BitVec 4)
  /-- VINS, OP 0x62 (R381). Insert b[0] into lane P[0][2:0] of A. -/
  | vins (a b : BitVec 4) (d e : BitVec 6) (t : BitVec 4)
  /-- VMERGE, OP 0x63 (R381). Concatenate A's and B's lanes up to 8 lanes. -/
  | vmerge (a b : BitVec 4) (d e : BitVec 6) (t : BitVec 4)
  /-- VSPLIT, OP 0x64 (R381). Split A at lane k between D0 and D1. -/
  | vsplit (a m : BitVec 4) (d e : BitVec 6) (t : BitVec 4)
  /-- VMASK, OP 0x65 (R381). AND A's mask with b[0][7:0] and zero cleared lanes. -/
  | vmask (a b : BitVec 4) (d e : BitVec 6) (t : BitVec 4)
  /-- VSUM, OP 0x66 (R382). Sum the unmasked lanes to one lane with one rounding. -/
  | vsum (a : BitVec 4) (d e : BitVec 6) (t : BitVec 4)
  /-- VMAX, OP 0x67 (R382). Largest unmasked lane. -/
  | vmax (a : BitVec 4) (d e : BitVec 6) (t : BitVec 4)
  /-- VMIN, OP 0x68 (R382). Smallest unmasked lane. -/
  | vmin (a : BitVec 4) (d e : BitVec 6) (t : BitVec 4)
  /-- VDOT, OP 0x69 (R382). Dot product of A and B with one rounding. -/
  | vdot (a b : BitVec 4) (d e : BitVec 6) (t : BitVec 4)
  /-- VLEN, OP 0x6A (R381). Return A's length, mask, FMT, PRED and AUXV in one lane. -/
  | vlen (a : BitVec 4) (d e : BitVec 6) (t : BitVec 4)
  /-- VNZ, OP 0x6B (R383). Count or map the nonzero elements of a packet. -/
  | vnz (a m : BitVec 4) (d e : BitVec 6) (t : BitVec 4)
  /-- VIOTA, OP 0x6C (R381). Produce n lanes a[0] + j. -/
  | viota (a m : BitVec 4) (d e : BitVec 6) (t : BitVec 4)
  /-- PASS, OP 0x70 (R384). Send A unchanged to D0 and D1. -/
  | pass (a : BitVec 4) (d e : BitVec 6) (t : BitVec 4)
  /-- STEER, OP 0x71 (R384). Send A to D0 on a true predicate and to D1 otherwise. -/
  | steer (a m : BitVec 4) (d e : BitVec 6) (t : BitVec 4)
  /-- SEL, OP 0x72 (R384). Lane-wise select between A and B by P. -/
  | sel (a b : BitVec 4) (d e : BitVec 6) (t : BitVec 4)
  /-- GATE, OP 0x73 (R384). Pass A on a true predicate, otherwise emit nothing or NULL. -/
  | gate (a m : BitVec 4) (d e : BitVec 6) (t : BitVec 4)
  /-- MERGE, OP 0x74 (R385). Pass one token from L or R per firing, alternating when both hold tokens. -/
  | merge (d e : BitVec 6) (t : BitVec 4)
  /-- RADD, OP 0x75 (R386). Add N terms of one tag in SEQ order and emit the sum. -/
  | radd (b : BitVec 4) (d e : BitVec 6) (t : BitVec 4)
  /-- RMAX, OP 0x76 (R386). Take the maximum of N terms of one tag in SEQ order. -/
  | rmax (b : BitVec 4) (d e : BitVec 6) (t : BitVec 4)
  /-- COUNT, OP 0x77 (R388). Count a stream's tokens or lanes and emit the count at EOS. -/
  | count (m : BitVec 4) (d e : BitVec 6) (t : BitVec 4)
  /-- EOSQ, OP 0x78 (R389). Pass a token and emit a predicate telling whether it is an EOS. -/
  | eosq (a : BitVec 4) (d e : BitVec 6) (t : BitVec 4)
  /-- EOSG, OP 0x79 (R389). Consume a token and emit an EOS. -/
  | eosg (a : BitVec 4) (d e : BitVec 6) (t : BitVec 4)
  /-- TAGOF, OP 0x7A (R390). Return the firing's TAG, SEQ, CTX, V, LINK and HEAD. -/
  | tagof (a : BitVec 4) (d e : BitVec 6) (t : BitVec 4)
  /-- FREE, OP 0x7B (R390). Free the tag named in lane 0 if it belongs to the activation and is not a root. -/
  | free (a : BitVec 4) (d e : BitVec 6) (t : BitVec 4)
  /-- SINK, OP 0x7C (R390). Consume one token of any kind without output. -/
  | sink (a t : BitVec 4)
  /-- CONST, OP 0x7D (R390). On a trigger, emit n lanes holding a non-token source word. -/
  | const (a m : BitVec 4) (d e : BitVec 6) (t : BitVec 4)
  /-- LDL, OP 0x80 (R397). Load n words from the element's local data area. -/
  | ldl (a m : BitVec 4) (d e : BitVec 6) (t : BitVec 4)
  /-- STL, OP 0x81 (R397). Store P's unmasked lanes to the element's local data area. -/
  | stl (a : BitVec 4) (d e : BitVec 6) (t : BitVec 4)
  /-- LDC, OP 0x82 (R397). Load from cluster scratch, or pop a FIFO bank entry. -/
  | ldc (a m : BitVec 4) (d e : BitVec 6) (t : BitVec 4)
  /-- STC, OP 0x83 (R397). Store to cluster scratch, append to a FIFO bank or write a bank control word. -/
  | stc (a : BitVec 4) (d e : BitVec 6) (t : BitVec 4)
  /-- LDG, OP 0x84 (R398). Load W lanes from global memory through a buffer record. -/
  | ldg (a b : BitVec 4) (d e : BitVec 6) (t : BitVec 4)
  /-- STG, OP 0x85 (R398). Store P's lanes to global memory through a buffer record. -/
  | stg (a b : BitVec 4) (d e : BitVec 6) (t : BitVec 4)
  /-- ATADD, OP 0x86 (R399). Atomic add returning old values. -/
  | atadd (a b : BitVec 4) (d e : BitVec 6) (t : BitVec 4)
  /-- ATMIN, OP 0x87 (R399). Atomic minimum returning old values. -/
  | atmin (a b : BitVec 4) (d e : BitVec 6) (t : BitVec 4)
  /-- ATMAX, OP 0x88 (R399). Atomic maximum returning old values. -/
  | atmax (a b : BitVec 4) (d e : BitVec 6) (t : BitVec 4)
  /-- ATAND, OP 0x89 (R399). Atomic AND returning old values. -/
  | atand (a b : BitVec 4) (d e : BitVec 6) (t : BitVec 4)
  /-- ATOR, OP 0x8A (R399). Atomic OR returning old values. -/
  | ator (a b : BitVec 4) (d e : BitVec 6) (t : BitVec 4)
  /-- ATXOR, OP 0x8B (R399). Atomic exclusive OR returning old values. -/
  | atxor (a b : BitVec 4) (d e : BitVec 6) (t : BitVec 4)
  /-- ATXCH, OP 0x8C (R399). Atomic exchange returning old values. -/
  | atxch (a b : BitVec 4) (d e : BitVec 6) (t : BitVec 4)
  /-- ATCAS, OP 0x8D (R400). Atomic compare-and-swap on pairs of P lanes returning old values. -/
  | atcas (a b : BitVec 4) (d e : BitVec 6) (t : BitVec 4)
  /-- TICKET, OP 0x8E (R401). Add to a record's ticket counter and return its old value. -/
  | ticket (a b : BitVec 4) (d e : BitVec 6) (t : BitVec 4)
  /-- APPEND, OP 0x8F (R401). Take a ticket and store P as that row of the record. -/
  | append (a b : BitVec 4) (d e : BitVec 6) (t : BitVec 4)
  /-- PREFG, OP 0x90 (R402). Declare a stream-cache window over a record range. -/
  | prefg (a b : BitVec 4) (d e : BitVec 6) (t : BitVec 4)
  /-- JOIN, OP 0xA0 (R403). Add the firing's tag to a membership set. -/
  | join (a : BitVec 4) (d e : BitVec 6) (t : BitVec 4)
  /-- LEAVE, OP 0xA1 (R403). Remove the firing's tag from a set, possibly completing the episode. -/
  | leave (a : BitVec 4) (d e : BitVec 6) (t : BitVec 4)
  /-- ARRIVE, OP 0xA2 (R403). Release and record an arrival, completing the episode when every member has arrived. -/
  | arrive (a : BitVec 4) (d e : BitVec 6) (t : BitVec 4)
  /-- FENCE, OP 0xA3 (R212). Release then acquire at the given scope before passing A. -/
  | fence (a : BitVec 4) (s : BitVec 2) (d e : BitVec 6) (t : BitVec 4)
  /-- ACQ, OP 0xA4 (R212). Acquire at the given scope before passing A. -/
  | acq (a : BitVec 4) (s : BitVec 2) (d e : BitVec 6) (t : BitVec 4)
  /-- REL, OP 0xA5 (R212). Release at the given scope every access already answered to the region, then pass A. -/
  | rel (a : BitVec 4) (s : BitVec 2) (d e : BitVec 6) (t : BitVec 4)
  /-- TRAP, OP 0xA6 (R406). Fault TRAP, taking the owning queue to rung 3 with lane 0 as DETAIL. -/
  | trap (a t : BitVec 4)
  /-- EVT, OP 0xA7 (R406). Emit a GRAPH trace event with the modifier as code and lane 0 as payload. -/
  | evt (a m : BitVec 4) (d e : BitVec 6) (t : BitVec 4)
  /-- TIME, OP 0xA8 (R407). Return trace time, at least the causal floor, as two lanes. -/
  | time (a : BitVec 4) (d e : BitVec 6) (t : BitVec 4)
  /-- MBXS, OP 0xA9 (R408). Release at SYS and write a graph message to the partition's outbound mailbox. -/
  | mbxs (a : BitVec 4) (d e : BitVec 6) (t : BitVec 4)
  /-- QPUT, OP 0xAA (R409). Release at SYS and publish a command packet into one of the partition's rings. -/
  | qput (a b : BitVec 4) (d e : BitVec 6) (t : BitVec 4)
  /-- YIELD, OP 0xAB (R410). Pass A and let a stage's input be treated as empty for swapping. -/
  | yield (a : BitVec 4) (d e : BitVec 6) (t : BitVec 4)
  /-- CPARM, OP 0xB0 (R417). Arm a copy template on a hardware queue. -/
  | cparm (a b : BitVec 4) (d e : BitVec 6) (t : BitVec 4)
  /-- CPDIS, OP 0xB1 (R417). Disarm a hardware queue's template after its triggered copies retire. -/
  | cpdis (a b : BitVec 4) (d e : BitVec 6) (t : BitVec 4)
  /-- CPGO, OP 0xB2 (R418). Run a copy template once with coordinate offsets and return a completion. -/
  | cpgo (a b : BitVec 4) (d e : BitVec 6) (t : BitVec 4)
  /-- GATHER, OP 0xB3 (R419). Read one element per index lane from a record. -/
  | gather (a b : BitVec 4) (d e : BitVec 6) (t : BitVec 4)
  /-- SCATTER, OP 0xB4 (R419). Write one element per index lane into a record. -/
  | scatter (a b : BitVec 4) (d e : BitVec 6) (t : BitVec 4)
  /-- SCATADD, OP 0xB5 (R419). Atomically add one element per index lane into a record. -/
  | scatadd (a b : BitVec 4) (d e : BitVec 6) (t : BitVec 4)
  /-- TILELD, OP 0xB6 (R418). Copy a record tile into consecutive scratch words. -/
  | tileld (a b : BitVec 4) (d e : BitVec 6) (t : BitVec 4)
  /-- TILEST, OP 0xB7 (R418). Copy consecutive scratch words into a record tile. -/
  | tilest (a b : BitVec 4) (d e : BitVec 6) (t : BitVec 4)
  /-- OOBRD, OP 0xB8 (R418). Read a record's OOBCNT and TICKET, optionally clearing OOBCNT. -/
  | oobrd (a b : BitVec 4) (d e : BitVec 6) (t : BitVec 4)
  /-- MXLW, OP 0xC0 (R251). Load the matrix core's shadow weight plane. -/
  | mxlw (a b : BitVec 4) (d e : BitVec 6) (t : BitVec 4)
  /-- MXSWAP, OP 0xC1 (R251). Exchange the active and shadow weight planes. -/
  | mxswap (a b : BitVec 4) (d e : BitVec 6) (t : BitVec 4)
  /-- MXSTR, OP 0xC2 (R252). Stream activation rows into the accumulator tile. -/
  | mxstr (a b : BitVec 4) (d e : BitVec 6) (t : BitVec 4)
  /-- MXZERO, OP 0xC3 (R251). Set tile rows to +0. -/
  | mxzero (a b : BitVec 4) (d e : BitVec 6) (t : BitVec 4)
  /-- MXDRP, OP 0xC4 (R254). Add tile rows into a peer matrix core's tile. -/
  | mxdrp (a b : BitVec 4) (d e : BitVec 6) (t : BitVec 4)
  /-- MXDRS, OP 0xC5 (R255). Drain tile rows as F32 tokens to a steered slot. -/
  | mxdrs (a b : BitVec 4) (d e : BitVec 6) (t : BitVec 4)
  /-- MXDRM, OP 0xC6 (R251). Write tile rows to a record as F32 or BF16x2. -/
  | mxdrm (a b : BitVec 4) (d e : BitVec 6) (t : BitVec 4)
  /-- MXQP, OP 0xC7 (R256). Write tile rows to a record quantised by block with S10 scales. -/
  | mxqp (a b : BitVec 4) (d e : BitVec 6) (t : BitVec 4)
  /-- TDCFG, OP 0xD0 (R267). Configure a tree slot with weights, biases, depth and width. -/
  | tdcfg (a b : BitVec 4) (d e : BitVec 6) (t : BitVec 4)
  /-- TDSC, OP 0xD1 (R269). Descend a batch of inputs through a tree level by level into path registers. -/
  | tdsc (a b : BitVec 4) (d e : BitVec 6) (t : BitVec 4)
  /-- TDGRP, OP 0xD2 (R273). Regroup input rows by leaf and emit group tokens. -/
  | tdgrp (a b : BitVec 4) (d e : BitVec 6) (t : BitVec 4)
  /-- TDPTR, OP 0xD3 (R271). Read one page of a path register. -/
  | tdptr (a b : BitVec 4) (d e : BitVec 6) (t : BitVec 4)
  /-- TDNODE, OP 0xD4 (R272). Apply a tree index function to each lane. -/
  | tdnode (a b : BitVec 4) (d e : BitVec 6) (t : BitVec 4)
  /-- BRCFG, OP 0xD8 (R277). Configure or free a broker query slot from a descriptor. -/
  | brcfg (a b : BitVec 4) (d e : BitVec 6) (t : BitVec 4)
  /-- BRIN, OP 0xD9 (R280). Admit a record to a query, insert it into join tables and route it. -/
  | brin (a b : BitVec 4) (d e : BitVec 6) (t : BitVec 4)
  /-- BRRET, OP 0xDA (R280). Return a record from a filter with a pass or drop verdict. -/
  | brret (a b : BitVec 4) (d e : BitVec 6) (t : BitVec 4)
  /-- BRSTAT, OP 0xDB (R283). Return an operator's broker statistics. -/
  | brstat (a b : BitVec 4) (d e : BitVec 6) (t : BitVec 4)
  /-- BRPIN, OP 0xDC (R282). Fix or clear a query's operator order. -/
  | brpin (a b : BitVec 4) (d e : BitVec 6) (t : BitVec 4)
  /-- SHIDX, OP 0xE0 (R425). Compute the shuffle or load a key set in the ingress unit. -/
  | shidx (a b : BitVec 4) (d e : BitVec 6) (t : BitVec 4)
  /-- PACKR, OP 0xE1 (R426). Pack a sample into rows for one tag, or flush the packer. -/
  | packr (a b : BitVec 4) (d e : BitVec 6) (t : BitVec 4)
  /-- SEGID, OP 0xE2 (R427). Turn mark words into attention segment ids. -/
  | segid (a b : BitVec 4) (d e : BitVec 6) (t : BitVec 4)
  /-- MEMORY_RESPONSE (R395). A memory request completes at its port, performs, and its response or acknowledgement is emitted to D0 with the request's tag. -/
  | memoryResponse (k : Nat)
  /-- PRI_PAGE_RESPONSE (R200). The host answers a PRI page request, resolving a parked access for replay or turning it into PERM on failure. -/
  | priPageResponse (n page : Nat) (ok : Bool)
  /-- ATS_TRANSLATION_RESPONSE (R201). The host answers an ATS translation request, and the answer is cached and the SPACE 1 access issued, parked or faulted PERM. -/
  | atsTranslationResponse (pasid page : Nat) (answer : AtsAnswer)
  /-- POWER_AUX_3V3_ON (R28). The 3.3 V auxiliary rail comes up and the management controller starts booting toward stage S0. -/
  | powerAux3v3On
  /-- PERST_DEASSERT (R28). PERST# deasserts and the stage deadlines for S1 to S3 start counting. -/
  | perstDeassert
  /-- STAGE_S1_REACHED (R29). The host link has trained and the device offers configuration space, BAR0, the mailbox and the reduced S1 service on regions 0 and 12. -/
  | stageS1Reached
  /-- STAGE_S2_REACHED (R30). All HBM4E stacks and clusters have trained; the remaining regions join the free pool and regions 0 and 12 rise to 1.2 GHz. -/
  | stageS2Reached
  /-- STAGE_S3_REACHED (R31). The CXL tier is mapped and trace time is locked to PTP, so the second tier and disciplined trace time are offered. -/
  | stageS3Reached
  /-- AUX_54V_ARRIVES (R11). The 54 V auxiliary input arrives and the device continues from S1 to S2 without a reset. -/
  | aux54vArrives
  /-- PF_FLR (R22). Function-level reset of the PF resets every partition, returns the scheduler to its post-S2 state and ends any uncommitted castling in fall-back within 10 ms. -/
  | pfFlr
  /-- HOST_LINK_LOST (R24). The host link drops out of L0 without an orderly power-down; host-bound traffic is discarded, fetch stops and active queues head for rung 2. -/
  | hostLinkLost
  /-- LINKLOST_SAVE_COMPLETE (R24). A queue taken towards rung 2 by link loss finishes its save and shows STATE LINKLOST, RUNG 2, FAULT 0x40. -/
  | linklostSaveComplete
  /-- HOST_LINK_RETRAINED (R26). The host link trains again; queues at LINKLOST rung 2 enter RECOVERY and those at rung 0 return to IDLE and fetch. -/
  | hostLinkRetrained
  /-- RECOVERY_TIMEOUT (R26). A queue left in RECOVERY with no resume or reset command for the recovery timeout is reset as by CMD reset. -/
  | recoveryTimeout
  /-- D2D_CORRECTABLE_RETRY (R8). A correctable die-to-die flit error is retried within the link and counted. -/
  | d2dCorrectableRetry
  /-- PPS_EDGE (R135). A PPS rising edge arrives and steps, slews, locks or is rejected against trace time. -/
  | ppsEdge
  /-- PPS_HOLDOVER (R135). No edge arrives for 1.5 s; PTPLOCK clears, holdover begins and a time-sync event is emitted. -/
  | ppsHoldover
  /-- TT_ERA_WRAP (R135). TT wraps modulo 2^64, ERA increments and a time-sync event with code 4 is emitted. -/
  | ttEraWrap
  /-- SKEW_ALARM (R136). Calibration fails for 1 ms or the measured difference exceeds ±1.5 ns, and a time-sync event with code 3 goes to every ring. -/
  | skewAlarm
  /-- FWSPUSH (R43). Writing PUSH starts copying the chunk in the data window to image offset FWSOFF. -/
  | fwspush
  /-- FWS_CHUNK_COPIED (R43). The chunk copy finishes, RECEIVED advances and PUSH reads 0 again. -/
  | fwsChunkCopied
  /-- CASTLE_VERIFY (R45). The image's signature, security version and schema compatibility are checked, and it is refused or passed to STAGED. -/
  | castleVerify
  /-- CASTLE_STAGED (R46). The new image has been loaded beside the old one in its body's standby place. -/
  | castleStaged
  /-- CASTLE_POINT (R47). The body reaches its castle point and the old image writes its state record. -/
  | castlePoint
  /-- CASTLE_IMPORT_DONE (R47). The new image completes its import of the state record and probation begins. -/
  | castleImportDone
  /-- CASTLE_HEARTBEAT (R50). The new image raises a heartbeat and writes a checkpoint in the old image's schema. -/
  | castleHeartbeat
  /-- HEARTBEAT_DEADLINE (R51). A heartbeat deadline passes and the castling falls back to the old image, which imports the latest checkpoint. -/
  | heartbeatDeadline
  /-- CASTLE_COMMIT (R50). Heartbeats have continued for 1 s after the import; the castling commits, the flash marker and minimum version update, and the old image is released. -/
  | castleCommit
  /-- MERGE_ROUND (R59). The merge unit visits the rings in ascending order and numbers one packet or bundle run from each unparked ring with a fetched packet. -/
  | mergeRound
  /-- INJECT (R70). An admitted INJECT performs a SYS acquire, takes a frame tag and sends its launch tokens. -/
  | inject
  /-- RESIDE (R66). A RESIDE makes the handle live and starts the load, validation and placeability check of a GQX image. -/
  | reside
  /-- EVICT (R66). An EVICT ends the handle's admissibility and waits for its activations before removing the configuration. -/
  | evict
  /-- IB (R67). An indirect buffer packet inserts its packets into the merge as one run, one nesting level deeper, or faults IB_DEPTH. -/
  | ib
  /-- WAITV (R68). A WAITV holds admission until the 64-bit value at ADDR satisfies its comparison, then performs a SYS acquire. -/
  | waitv
  /-- WAITV_REREAD (R68). The device re-reads a waiting WAITV's address on a device WRITEV to it or at least every 1 µs. -/
  | waitvReread
  /-- WRITEV (R68). Once earlier packets have completed, a WRITEV performs a SYS release and stores or atomically adds VALUE. -/
  | writev
  /-- MBOX_ATTEST_REQUEST (R76). An MBOX packet of type 0x0002 requests an attestation report, written at the given address with a reply message. -/
  | mboxAttestRequest
  /-- MBOX_ECHO (R76). An MBOX packet of type 0x0004 is echoed back as a 0x0005 reply message. -/
  | mboxEcho
  /-- QBAR (R63). A QBAR is admitted and completes only when every earlier packet of its queue has completed. -/
  | qbar
  /-- TRACECTL (R147). A TRACECTL packet sets the partition's class mask, sampling, lossless mode and source filters as one change. -/
  | tracectl
  /-- NOPK (R63). A NOPK packet does nothing and completes at admission. -/
  | nopk
  /-- TAG_STALL_WATCHDOG (R70). Tag allocation stalls 10 ms without any tag of the partition being freed, and the queue or data ring faults TAG_STALL. -/
  | tagStallWatchdog
  /-- SPAN (R87). A SPAN packet delivers table entries SHIDX(i) for i from FIRST to FIRST + COUNT − 1 to the packer. -/
  | span
  /-- SAMPLE (R88). A SAMPLE packet delivers one inline sample to the packer. -/
  | sample
  /-- FLUSH (R96). A FLUSH closes any partial row and sends EOS to the data target and, with MARKS, to the mark target. -/
  | flush
  /-- DATA_PACKET_CONSUMED (R90). A data packet's reads are complete and P is published when the PUBK or PUB condition holds. -/
  | dataPacketConsumed
  /-- STREAM_OPEN (R92). At a stream's beginning the ingress unit acquires, takes a tag and presents an opening CTRL token to its port. -/
  | streamOpen
  /-- STREAM_BIND (R92). The placed configuration binds the ingress port to launch entries DENT and MENT and absorbs the opening token. -/
  | streamBind
  /-- STREAM_COMPLETE (R99). The stream's tag is quiescent after its EOS; the unit waits for SYS performance, frees the tag, counts the stream and signals. -/
  | streamComplete
  /-- DRAIN_COMPLETE (R121). The drained queue's activations have all completed; its regions are released with STATE RUN and RUNG 1. -/
  | drainComplete
  /-- T1_DEADLINE (R121). The drain deadline T1 passes and the queue moves to rung 2. -/
  | t1Deadline
  /-- T2_DEADLINE (R127). The save deadline T2 passes and the queue goes to rung 3, its INJECTs completing with DETAIL 0xFFFF_FFFF. -/
  | t2Deadline
  /-- QUEUE_RESTORE (R126). A saved queue regains regions and its context is restored by shadow exchange or from the save area. -/
  | queueRestore
  /-- FAULT_TOKEN (R130). A fault reaches the FGE as a token and the FGE applies the code's action to the owning queue or partition. -/
  | faultToken
  /-- TRACE_EVENT_WRITE (R148). The ring writer places an accepted event in the ring and advances TRTAIL, or drops and counts it. -/
  | traceEventWrite
  /-- PERST_ASSERT (R35). PERST# is asserted, which clears FEATACT and resets the device's host-facing state. -/
  | perstAssert
  /-- POWER_LOSS (R53). Power to the card is lost, and the next power-on starts the image named by the flash marker. -/
  | powerLoss
  /-- ORDERLY_POWER_DOWN_MESSAGE (R24). The host sends an orderly power-down message before the link leaves L0, so the loss that follows is not treated as surprise link loss. -/
  | orderlyPowerDownMessage
  deriving DecidableEq, Repr

end Sys2Proof
end

