-- ==== Sys2Proof/WellFormed.lean ====
section
/-! DEFINITION. Well-formed instructions: the opcodes whose fields the loader accepts (R326, R327, R335 and the
moulds of the instruction chapters), and the events whose agent exists (R7, R54, R55, R84, R66). -/

namespace Sys2Proof

/-- A source select (R326): code 7 is rejected. -/
def okSel (x : BitVec 4) : Bool := x != 7

/-- A source select of an opcode that reads field P unnamed: 2 is rejected too. -/
def okSelNoP (x : BitVec 4) : Bool := x != 7 && x != 2

/-- A select that must name a token field (R374). -/
def okField (x : BitVec 4) : Bool := x.toNat < 3

/-- A select that must name no token field (R390). -/
def okConst (x : BitVec 4) : Bool := 3 <= x.toNat && x != 7

/-- The term count of RADD and RMAX (R386): neither L nor P. -/
def okCount (x : BitVec 4) : Bool := x != 0 && x != 2 && x != 7

/-- A tag action of an opcode that may not name TAGB (R164). -/
def okAct (x : BitVec 4) : Bool := x.toNat <= 10 && x != 9

/-- A tag action of an opcode that reads B (R164). -/
def okActB (x : BitVec 4) : Bool := x.toNat <= 10

/-- A partition number (R7). -/
def okPart (n : Nat) : Bool := 1 <= n && n <= 24

/-- Well-formed instructions. -/
def Instr.wellFormed : Instr → Bool
  | .powerAux3v3On => true
  | .stageS0Reached _ => true
  | .perstDeassert => true
  | .stageS1Reached => true
  | .stageS2Reached => true
  | .stageS3Reached => true
  | .stageDeadlineMissed _ => true
  | .aux54vArrives => true
  | .drvfeatWrite _ => true
  | .vfFlr n => okPart n
  | .pfFlr => true
  | .pcieLinkTrained _ _ => true
  | .hostLinkLost => true
  | .linklostSaveComplete => true
  | .hostLinkRetrained => true
  | .recoveryTimeout => true
  | .bar2baseWrite _ => true
  | .hostBar2Access _ _ _ => true
  | .hostVfBarAccessInFlr n _ _ _ => okPart n
  | .cxlLinkTrained _ _ _ => true
  | .expanderLost _ => true
  | .d2dCorrectableRetry => true
  | .d2dUncorrectableFlit _ => true
  | .ppsEdge => true
  | .timeOfDayDelivery _ => true
  | .ppsHoldover => true
  | .ttEraWrap => true
  | .d2dTimeCalibration _ => true
  | .skewAlarm => true
  | .powerCapSet _ => true
  | .clockStep _ => true
  | .pldmSensorRead _ => true
  | .wearUpdate _ => true
  | .attestationRequestSideband _ => true
  | .pldmFwUpdate _ _ => true
  | .fwsctlOpen _ => true
  | .fwspush => true
  | .fwsChunkCopied => true
  | .fwsctlGo _ => true
  | .castleVerify => true
  | .castleStaged => true
  | .castlePoint => true
  | .engineStoreSwap _ => true
  | .castleImportDone => true
  | .castleHeartbeat => true
  | .heartbeatDeadline => true
  | .castleCommit => true
  | .doorbellWrite n q i _ => okPart n && q < 4 && i < 64
  | .ringFetch n q i => okPart n && q < 4 && i < 64
  | .mergeRound => true
  | .inject => true
  | .reside => true
  | .evict => true
  | .evictDone n h => okPart n && h < 256
  | .ib => true
  | .waitv => true
  | .waitvReread => true
  | .writev => true
  | .mboxAttestRequest => true
  | .mboxEcho => true
  | .qbar => true
  | .tracectl => true
  | .nopk => true
  | .activationQuiescent n _ => okPart n
  | .cplheadWrite n q _ => okPart n && q < 4
  | .tagStallWatchdog => true
  | .qctlEnableSet n q _ => okPart n && q < 4
  | .qctlEnableClear n q => okPart n && q < 4
  | .qctlCmdResume n q => okPart n && q < 4
  | .qctlCmdReset n q => okPart n && q < 4
  | .mbxheadWrite n _ => okPart n
  | .mbxctlWrite n _ => okPart n
  | .dataDoorbellWrite n d _ => okPart n && d < 64
  | .drctlEnableSet n d _ => okPart n && d < 64
  | .drctlEnableClear n d => okPart n && d < 64
  | .drctlCmdResume n d => okPart n && d < 64
  | .drctlCmdReset n d => okPart n && d < 64
  | .span => true
  | .sample => true
  | .flush => true
  | .dataPacketConsumed => true
  | .streamOpen => true
  | .streamBind => true
  | .streamComplete => true
  | .regionGrant r n q => r < 24 && n <= 24 && q < 4
  | .quantumCharge _ => true
  | .drainComplete => true
  | .t1Deadline => true
  | .engineBoundarySave _ => true
  | .shadowExchange r => r < 24
  | .t2Deadline => true
  | .queueRestore => true
  | .partcfgHoldSet n => okPart n
  | .partcfgHoldClear n => okPart n
  | .spillWatchdog n => okPart n
  | .faultToken => true
  | .rmLoad n h => okPart n && h < 256
  | .rmPlace n h => okPart n && h < 256
  | .rmFetch el _ => el < 3072
  | .configEntryFetched el _ => el < 3072
  | .stageInputIdle n h => okPart n && h < 256
  | .rmStageSwap n _ _ => okPart n
  | .rmResolve n _ _ => okPart n
  | .faultReplay n _ => okPart n
  | .trctlEnSet n _ => okPart n
  | .traceFilterWrite n _ _ => okPart n
  | .trheadWrite n _ => okPart n
  | .traceEventWrite => true
  | .traceForcedLossy n => okPart n
  | .elcselWrite n _ => okPart n
  | .tokenEnqueue _ => true
  | .framePartReload el _ => el < 3072
  | .queueRefill r => r < 24
  | .translationWalk t _ => okPart t.part
  | .atsInvalidation _ _ => true
  | .tlbinvWrite _ => true
  | .hbmForcedRefresh _ _ => true
  | .hbmCorrectedError _ _ _ => true
  | .hbmUncorrectableError _ _ => true
  | .latctlClr r _ => r < 24
  | .copyTrigger cl hq => cl < 6 && hq < 64
  | .copyRetire _ => true
  | .engineFifoIssue _ => true
  | .engineRetire _ => true
  | .mxdrpRowArrive _ => true
  | .engineNoncommandDrop _ => true
  | .registerWrite _ _ => true
  | .iadd a b _ _ t => okSel a && okSel b && okActB t
  | .isub a b _ _ t => okSel a && okSel b && okActB t
  | .iadds a b _ _ t => okSel a && okSel b && okActB t
  | .iaddus a b _ _ t => okSel a && okSel b && okActB t
  | .isubs a b _ _ t => okSel a && okSel b && okActB t
  | .imul a b _ _ t => okSel a && okSel b && okActB t
  | .imulh a b _ _ t => okSel a && okSel b && okActB t
  | .imulhu a b _ _ t => okSel a && okSel b && okActB t
  | .imad a b _ _ t => okSelNoP a && okSelNoP b && okActB t
  | .idiv a b _ _ t => okSel a && okSel b && okActB t
  | .idivu a b _ _ t => okSel a && okSel b && okActB t
  | .irem a b _ _ t => okSel a && okSel b && okActB t
  | .iremu a b _ _ t => okSel a && okSel b && okActB t
  | .imin a b _ _ t => okSel a && okSel b && okActB t
  | .imax a b _ _ t => okSel a && okSel b && okActB t
  | .iminu a b _ _ t => okSel a && okSel b && okActB t
  | .imaxu a b _ _ t => okSel a && okSel b && okActB t
  | .iabs a _ _ t => okSel a && okAct t
  | .ineg a _ _ t => okSel a && okAct t
  | .and a b _ _ t => okSel a && okSel b && okActB t
  | .or a b _ _ t => okSel a && okSel b && okActB t
  | .xor a b _ _ t => okSel a && okSel b && okActB t
  | .andn a b _ _ t => okSel a && okSel b && okActB t
  | .not a _ _ t => okSel a && okAct t
  | .shl a b _ _ t => okSel a && okSel b && okActB t
  | .shr a b _ _ t => okSel a && okSel b && okActB t
  | .sar a b _ _ t => okSel a && okSel b && okActB t
  | .rol a b _ _ t => okSel a && okSel b && okActB t
  | .clz a _ _ t => okSel a && okAct t
  | .popc a _ _ t => okSel a && okAct t
  | .brev a _ _ t => okSel a && okAct t
  | .bfx a b _ _ t => okSel a && okSel b && okActB t
  | .bfi a b _ _ t => okSelNoP a && okSelNoP b && okActB t
  | .iseq a b _ _ t => okSel a && okSel b && okActB t
  | .isne a b _ _ t => okSel a && okSel b && okActB t
  | .islt a b _ _ t => okSel a && okSel b && okActB t
  | .isle a b _ _ t => okSel a && okSel b && okActB t
  | .isltu a b _ _ t => okSel a && okSel b && okActB t
  | .isleu a b _ _ t => okSel a && okSel b && okActB t
  | .fadd a b _ _ t => okSel a && okSel b && okActB t
  | .fsub a b _ _ t => okSel a && okSel b && okActB t
  | .fmul a b _ _ t => okSel a && okSel b && okActB t
  | .fma a b _ _ t => okSelNoP a && okSelNoP b && okActB t
  | .fmin a b _ _ t => okSel a && okSel b && okActB t
  | .fmax a b _ _ t => okSel a && okSel b && okActB t
  | .fabs a _ _ t => okSel a && okAct t
  | .fneg a _ _ t => okSel a && okAct t
  | .fseq a b _ _ t => okSel a && okSel b && okActB t
  | .fslt a b _ _ t => okSel a && okSel b && okActB t
  | .fsle a b _ _ t => okSel a && okSel b && okActB t
  | .fsun a b _ _ t => okSel a && okSel b && okActB t
  | .fscale a b _ _ t => okSel a && okSel b && okActB t
  | .frnd a m _ _ t => okSel a && m.toNat < 4 && okAct t
  | .rcpe a _ _ t => okSel a && okAct t
  | .rsqe a _ _ t => okSel a && okAct t
  | .exp2 a _ _ t => okSel a && okAct t
  | .log2 a _ _ t => okSel a && okAct t
  | .tanh a _ _ t => okSel a && okAct t
  | .sigm a _ _ t => okSel a && okAct t
  | .cvtfi a m _ _ t => okSel a && m.toNat < 8 && okAct t
  | .cvtif a m _ _ t => okSel a && (m == 0 || m == 4) && okAct t
  | .cvtfb a _ _ t => okSel a && okAct t
  | .cvtbf a _ _ t => okSel a && okAct t
  | .cvtfh a _ _ t => okSel a && okAct t
  | .cvthf a _ _ t => okSel a && okAct t
  | .qe4 a b _ _ t => okSel a && okSel b && okActB t
  | .qe5 a b _ _ t => okSel a && okSel b && okActB t
  | .qe2 a b _ _ t => okSel a && okSel b && okActB t
  | .qai8 a b _ _ t => okSel a && okSel b && okActB t
  | .qai4 a b _ _ t => okSel a && okSel b && okActB t
  | .dqf a _ _ t => okField a && okAct t
  | .scaleof a m _ _ t => okSel a && m.toNat < 3 && okAct t
  | .retag a m _ _ t => okSel a && m.toNat < 8 && okAct t
  | .vbcast a m _ _ t => okSel a && m.toNat < 8 && okAct t
  | .vlane a m _ _ t => okSel a && m.toNat < 8 && okAct t
  | .vins a b _ _ t => okSelNoP a && okSelNoP b && okActB t
  | .vmerge a b _ _ t => okSel a && okSel b && okActB t
  | .vsplit a m _ _ t => okSel a && 1 <= m.toNat && m.toNat < 8 && okAct t
  | .vmask a b _ _ t => okSel a && okSel b && okActB t
  | .vsum a _ _ t => okSel a && okAct t
  | .vmax a _ _ t => okSel a && okAct t
  | .vmin a _ _ t => okSel a && okAct t
  | .vdot a b _ _ t => okSel a && okSel b && okActB t
  | .vlen a _ _ t => okSel a && okAct t
  | .vnz a m _ _ t => okSel a && m.toNat < 2 && okAct t
  | .viota a m _ _ t => okSel a && m.toNat < 8 && okAct t
  | .pass a _ _ t => okSel a && okAct t
  | .steer a m _ _ t => okSelNoP a && m.toNat < 2 && okAct t
  | .sel a b _ _ t => okSelNoP a && okSelNoP b && okActB t
  | .gate a m _ _ t => okSelNoP a && m.toNat < 2 && okAct t
  | .merge _ _ t => okActB t
  | .radd b _ _ t => okCount b && okActB t
  | .rmax b _ _ t => okCount b && okActB t
  | .count m _ _ t => m.toNat < 2 && okAct t
  | .eosq a _ _ t => okSel a && okAct t
  | .eosg a _ _ t => okSel a && okAct t
  | .tagof a _ _ t => okSel a && okAct t
  | .free a _ _ t => okSel a && okAct t
  | .sink a t => okSel a && okAct t
  | .const a _ _ _ t => okConst a && okAct t
  | .ldl a _ _ _ t => okSel a && okAct t
  | .stl a _ _ t => okSelNoP a && okAct t
  | .ldc a _ _ _ t => okSel a && okAct t
  | .stc a _ _ t => okSelNoP a && okAct t
  | .ldg a b _ _ t => okSel a && okSel b && okActB t
  | .stg a b _ _ t => okSelNoP a && okSelNoP b && okActB t
  | .atadd a b _ _ t => okSelNoP a && okSelNoP b && okActB t
  | .atmin a b _ _ t => okSelNoP a && okSelNoP b && okActB t
  | .atmax a b _ _ t => okSelNoP a && okSelNoP b && okActB t
  | .atand a b _ _ t => okSelNoP a && okSelNoP b && okActB t
  | .ator a b _ _ t => okSelNoP a && okSelNoP b && okActB t
  | .atxor a b _ _ t => okSelNoP a && okSelNoP b && okActB t
  | .atxch a b _ _ t => okSelNoP a && okSelNoP b && okActB t
  | .atcas a b _ _ t => okSelNoP a && okSelNoP b && okActB t
  | .ticket a b _ _ t => okSel a && okSel b && okActB t
  | .append a b _ _ t => okSelNoP a && okSelNoP b && okActB t
  | .prefg a b _ _ t => okSel a && okSel b && okActB t
  | .join a _ _ t => okSel a && okAct t
  | .leave a _ _ t => okSel a && okAct t
  | .arrive a _ _ t => okSel a && okAct t
  | .fence a _ _ _ t => okSel a && okAct t
  | .acq a _ _ _ t => okSel a && okAct t
  | .rel a _ _ _ t => okSel a && okAct t
  | .trap a t => okSel a && okAct t
  | .evt a _ _ _ t => okSel a && okAct t
  | .time a _ _ t => okSel a && okAct t
  | .mbxs a _ _ t => okSel a && okAct t
  | .qput a b _ _ t => okSel a && okSel b && okAct t
  | .yield a _ _ t => okSel a && okAct t
  | .cparm a b _ _ t => okSel a && okSel b && okAct t
  | .cpdis a b _ _ t => okSel a && okSel b && okAct t
  | .cpgo a b _ _ t => okSel a && okSel b && okAct t
  | .gather a b _ _ t => okSel a && okSel b && okAct t
  | .scatter a b _ _ t => okSelNoP a && okSel b && okAct t
  | .scatadd a b _ _ t => okSelNoP a && okSel b && okAct t
  | .tileld a b _ _ t => okSel a && okSel b && okAct t
  | .tilest a b _ _ t => okSel a && okSel b && okAct t
  | .oobrd a b _ _ t => okSel a && okSel b && okAct t
  | .mxlw a b _ _ t => okSel a && okSel b && okAct t
  | .mxswap a b _ _ t => okSel a && okSel b && okAct t
  | .mxstr a b _ _ t => okSel a && okSel b && okAct t
  | .mxzero a b _ _ t => okSel a && okSel b && okAct t
  | .mxdrp a b _ _ t => okSel a && okSel b && okAct t
  | .mxdrs a b _ _ t => okSel a && okSel b && okAct t
  | .mxdrm a b _ _ t => okSel a && okSel b && okAct t
  | .mxqp a b _ _ t => okSel a && okSel b && okAct t
  | .tdcfg a b _ _ t => okSel a && okSel b && okAct t
  | .tdsc a b _ _ t => okSel a && okSel b && okAct t
  | .tdgrp a b _ _ t => okSel a && okSel b && okAct t
  | .tdptr a b _ _ t => okSel a && okSel b && okAct t
  | .tdnode a b _ _ t => okSel a && okSel b && okAct t
  | .brcfg a b _ _ t => okSel a && okSel b && okAct t
  | .brin a b _ _ t => okSel a && okSel b && okAct t
  | .brret a b _ _ t => okSel a && okSel b && okAct t
  | .brstat a b _ _ t => okSel a && okSel b && okAct t
  | .brpin a b _ _ t => okSel a && okSel b && okAct t
  | .shidx a b _ _ t => okSel a && okSel b && okAct t
  | .packr a b _ _ t => okSel a && okSel b && okAct t
  | .segid a b _ _ t => okSel a && okSel b && okAct t
  | .perstAssert => true
  | .powerLoss => true
  | .memoryResponse _ => true
  | .priPageResponse n _ _ => okPart n
  | .atsTranslationResponse _ _ _ => true
  | .orderlyPowerDownMessage => true

end Sys2Proof
end

