-- ==== Sys2Proof/Decode.lean ====
section
/-! DEFINITION. The instruction word (R325): the decoder, total on every word and refusing by name what R335 rejects,
and the encoder. Events have no word. -/

namespace Sys2Proof

/-- The fields of an instruction word (R325): `b` is BSEL, a source or a modifier. -/
structure Fields where
  op : BitVec 8
  a  : BitVec 4
  b  : BitVec 4
  d  : BitVec 6
  e  : BitVec 6
  t  : BitVec 4
  deriving DecidableEq, Repr

/-- Why a word is no instruction (R335). -/
inductive DecodeError where
  /-- The word is zero: an empty slot. -/
  | void
  /-- Opcode 0x00 with another bit set, or a reserved cell of R334. -/
  | reservedOp
  /-- ASEL or BSEL names a source the opcode does not allow (R326, R350, R362, R378, R385, R386, R388, R390). -/
  | select
  /-- A modifier the opcode does not define (R327). -/
  | modifier
  /-- TACT 11 to 15, or TAGB where the opcode allows none (R164). -/
  | tagAction
  /-- SINK or TRAP with a destination (R390, R405). -/
  | destination
  /-- Fewer bytes than a word. -/
  | short
  deriving DecidableEq, Repr

/-- The fields of a word (R325). -/
def fieldsOfWord (w : Word) : Fields :=
  ⟨w.extractLsb' 24 8, w.extractLsb' 20 4, w.extractLsb' 16 4, w.extractLsb' 10 6, w.extractLsb' 4 6, w.extractLsb' 0 4⟩

/-- The word of the fields (R325). -/
def wordOfFields (f : Fields) : Word := f.op ++ f.a ++ f.b ++ f.d ++ f.e ++ f.t

/-- The opcodes on which TAGB stands for operand B (R164): those that read B, but for QPUT (R405) and the engine
commands (R412). -/
def allowsTagb (r : Machine.OpInfo) : Bool := r.readsB && r.op != 0xAA && !Machine.isCommand r.op

/-- Whether ASEL and BSEL name sources the opcode allows. -/
def selectsOk (r : Machine.OpInfo) (f : Fields) : Bool :=
  f.a != 7 && !(r.readsB && f.b == 7) &&
  !(r.readsP && (f.a == 2 || (r.readsB && !Machine.isCommand r.op && f.b == 2))) &&
  (match r.op with
   | 0x5B => f.a.toNat <= 2
   | 0x74 => f.a == 0 && f.b == 1
   | 0x75 => f.a == 0 && f.b != 0 && f.b != 2
   | 0x76 => f.a == 0 && f.b != 0 && f.b != 2
   | 0x77 => f.a == 0
   | 0x7D => 3 <= f.a.toNat
   | _ => true)

/-- What R335 finds wrong with the fields of a word whose opcode is not VOID, in the order select, modifier, tag
action, destination; none when the fields are a valid instruction. -/
def fieldError (f : Fields) : Option DecodeError :=
  match Machine.opInfo f.op.toNat with
  | none => some .reservedOp
  | some r =>
    if !selectsOk r f then some .select
    else if !r.readsB && !r.mods.getLsbD f.b.toNat then some .modifier
    else if 10 < f.t.toNat || (f.t == 9 && !allowsTagb r) then some .tagAction
    else if (r.op == 0x7C || r.op == 0xA6) && (f.d != 0 || f.e != 0) then some .destination
    else none

/-- The instruction of an opcode and its fields. -/
def instrOfFields (f : Fields) : Option Instr :=
  match f.op.toNat with
  | 0x01 => some (.iadd f.a f.b f.d f.e f.t)
  | 0x02 => some (.isub f.a f.b f.d f.e f.t)
  | 0x03 => some (.iadds f.a f.b f.d f.e f.t)
  | 0x04 => some (.iaddus f.a f.b f.d f.e f.t)
  | 0x05 => some (.isubs f.a f.b f.d f.e f.t)
  | 0x06 => some (.imul f.a f.b f.d f.e f.t)
  | 0x07 => some (.imulh f.a f.b f.d f.e f.t)
  | 0x08 => some (.imulhu f.a f.b f.d f.e f.t)
  | 0x09 => some (.imad f.a f.b f.d f.e f.t)
  | 0x0A => some (.idiv f.a f.b f.d f.e f.t)
  | 0x0B => some (.idivu f.a f.b f.d f.e f.t)
  | 0x0C => some (.irem f.a f.b f.d f.e f.t)
  | 0x0D => some (.iremu f.a f.b f.d f.e f.t)
  | 0x0E => some (.imin f.a f.b f.d f.e f.t)
  | 0x0F => some (.imax f.a f.b f.d f.e f.t)
  | 0x10 => some (.iminu f.a f.b f.d f.e f.t)
  | 0x11 => some (.imaxu f.a f.b f.d f.e f.t)
  | 0x12 => some (.iabs f.a f.d f.e f.t)
  | 0x13 => some (.ineg f.a f.d f.e f.t)
  | 0x14 => some (.and f.a f.b f.d f.e f.t)
  | 0x15 => some (.or f.a f.b f.d f.e f.t)
  | 0x16 => some (.xor f.a f.b f.d f.e f.t)
  | 0x17 => some (.andn f.a f.b f.d f.e f.t)
  | 0x18 => some (.not f.a f.d f.e f.t)
  | 0x19 => some (.shl f.a f.b f.d f.e f.t)
  | 0x1A => some (.shr f.a f.b f.d f.e f.t)
  | 0x1B => some (.sar f.a f.b f.d f.e f.t)
  | 0x1C => some (.rol f.a f.b f.d f.e f.t)
  | 0x1D => some (.clz f.a f.d f.e f.t)
  | 0x1E => some (.popc f.a f.d f.e f.t)
  | 0x1F => some (.brev f.a f.d f.e f.t)
  | 0x20 => some (.bfx f.a f.b f.d f.e f.t)
  | 0x21 => some (.bfi f.a f.b f.d f.e f.t)
  | 0x22 => some (.iseq f.a f.b f.d f.e f.t)
  | 0x23 => some (.isne f.a f.b f.d f.e f.t)
  | 0x24 => some (.islt f.a f.b f.d f.e f.t)
  | 0x25 => some (.isle f.a f.b f.d f.e f.t)
  | 0x26 => some (.isltu f.a f.b f.d f.e f.t)
  | 0x27 => some (.isleu f.a f.b f.d f.e f.t)
  | 0x30 => some (.fadd f.a f.b f.d f.e f.t)
  | 0x31 => some (.fsub f.a f.b f.d f.e f.t)
  | 0x32 => some (.fmul f.a f.b f.d f.e f.t)
  | 0x33 => some (.fma f.a f.b f.d f.e f.t)
  | 0x34 => some (.fmin f.a f.b f.d f.e f.t)
  | 0x35 => some (.fmax f.a f.b f.d f.e f.t)
  | 0x36 => some (.fabs f.a f.d f.e f.t)
  | 0x37 => some (.fneg f.a f.d f.e f.t)
  | 0x38 => some (.fseq f.a f.b f.d f.e f.t)
  | 0x39 => some (.fslt f.a f.b f.d f.e f.t)
  | 0x3A => some (.fsle f.a f.b f.d f.e f.t)
  | 0x3B => some (.fsun f.a f.b f.d f.e f.t)
  | 0x3C => some (.fscale f.a f.b f.d f.e f.t)
  | 0x3D => some (.frnd f.a f.b f.d f.e f.t)
  | 0x3E => some (.rcpe f.a f.d f.e f.t)
  | 0x3F => some (.rsqe f.a f.d f.e f.t)
  | 0x40 => some (.exp2 f.a f.d f.e f.t)
  | 0x41 => some (.log2 f.a f.d f.e f.t)
  | 0x42 => some (.tanh f.a f.d f.e f.t)
  | 0x43 => some (.sigm f.a f.d f.e f.t)
  | 0x50 => some (.cvtfi f.a f.b f.d f.e f.t)
  | 0x51 => some (.cvtif f.a f.b f.d f.e f.t)
  | 0x52 => some (.cvtfb f.a f.d f.e f.t)
  | 0x53 => some (.cvtbf f.a f.d f.e f.t)
  | 0x54 => some (.cvtfh f.a f.d f.e f.t)
  | 0x55 => some (.cvthf f.a f.d f.e f.t)
  | 0x56 => some (.qe4 f.a f.b f.d f.e f.t)
  | 0x57 => some (.qe5 f.a f.b f.d f.e f.t)
  | 0x58 => some (.qe2 f.a f.b f.d f.e f.t)
  | 0x59 => some (.qai8 f.a f.b f.d f.e f.t)
  | 0x5A => some (.qai4 f.a f.b f.d f.e f.t)
  | 0x5B => some (.dqf f.a f.d f.e f.t)
  | 0x5C => some (.scaleof f.a f.b f.d f.e f.t)
  | 0x5D => some (.retag f.a f.b f.d f.e f.t)
  | 0x60 => some (.vbcast f.a f.b f.d f.e f.t)
  | 0x61 => some (.vlane f.a f.b f.d f.e f.t)
  | 0x62 => some (.vins f.a f.b f.d f.e f.t)
  | 0x63 => some (.vmerge f.a f.b f.d f.e f.t)
  | 0x64 => some (.vsplit f.a f.b f.d f.e f.t)
  | 0x65 => some (.vmask f.a f.b f.d f.e f.t)
  | 0x66 => some (.vsum f.a f.d f.e f.t)
  | 0x67 => some (.vmax f.a f.d f.e f.t)
  | 0x68 => some (.vmin f.a f.d f.e f.t)
  | 0x69 => some (.vdot f.a f.b f.d f.e f.t)
  | 0x6A => some (.vlen f.a f.d f.e f.t)
  | 0x6B => some (.vnz f.a f.b f.d f.e f.t)
  | 0x6C => some (.viota f.a f.b f.d f.e f.t)
  | 0x70 => some (.pass f.a f.d f.e f.t)
  | 0x71 => some (.steer f.a f.b f.d f.e f.t)
  | 0x72 => some (.sel f.a f.b f.d f.e f.t)
  | 0x73 => some (.gate f.a f.b f.d f.e f.t)
  | 0x74 => some (.merge f.d f.e f.t)
  | 0x75 => some (.radd f.b f.d f.e f.t)
  | 0x76 => some (.rmax f.b f.d f.e f.t)
  | 0x77 => some (.count f.b f.d f.e f.t)
  | 0x78 => some (.eosq f.a f.d f.e f.t)
  | 0x79 => some (.eosg f.a f.d f.e f.t)
  | 0x7A => some (.tagof f.a f.d f.e f.t)
  | 0x7B => some (.free f.a f.d f.e f.t)
  | 0x7C => some (.sink f.a f.t)
  | 0x7D => some (.const f.a f.b f.d f.e f.t)
  | 0x80 => some (.ldl f.a f.b f.d f.e f.t)
  | 0x81 => some (.stl f.a f.d f.e f.t)
  | 0x82 => some (.ldc f.a f.b f.d f.e f.t)
  | 0x83 => some (.stc f.a f.d f.e f.t)
  | 0x84 => some (.ldg f.a f.b f.d f.e f.t)
  | 0x85 => some (.stg f.a f.b f.d f.e f.t)
  | 0x86 => some (.atadd f.a f.b f.d f.e f.t)
  | 0x87 => some (.atmin f.a f.b f.d f.e f.t)
  | 0x88 => some (.atmax f.a f.b f.d f.e f.t)
  | 0x89 => some (.atand f.a f.b f.d f.e f.t)
  | 0x8A => some (.ator f.a f.b f.d f.e f.t)
  | 0x8B => some (.atxor f.a f.b f.d f.e f.t)
  | 0x8C => some (.atxch f.a f.b f.d f.e f.t)
  | 0x8D => some (.atcas f.a f.b f.d f.e f.t)
  | 0x8E => some (.ticket f.a f.b f.d f.e f.t)
  | 0x8F => some (.append f.a f.b f.d f.e f.t)
  | 0x90 => some (.prefg f.a f.b f.d f.e f.t)
  | 0xA0 => some (.join f.a f.d f.e f.t)
  | 0xA1 => some (.leave f.a f.d f.e f.t)
  | 0xA2 => some (.arrive f.a f.d f.e f.t)
  | 0xA3 => some (.fence f.a (f.b.setWidth 2) f.d f.e f.t)
  | 0xA4 => some (.acq f.a (f.b.setWidth 2) f.d f.e f.t)
  | 0xA5 => some (.rel f.a (f.b.setWidth 2) f.d f.e f.t)
  | 0xA6 => some (.trap f.a f.t)
  | 0xA7 => some (.evt f.a f.b f.d f.e f.t)
  | 0xA8 => some (.time f.a f.d f.e f.t)
  | 0xA9 => some (.mbxs f.a f.d f.e f.t)
  | 0xAA => some (.qput f.a f.b f.d f.e f.t)
  | 0xAB => some (.yield f.a f.d f.e f.t)
  | 0xB0 => some (.cparm f.a f.b f.d f.e f.t)
  | 0xB1 => some (.cpdis f.a f.b f.d f.e f.t)
  | 0xB2 => some (.cpgo f.a f.b f.d f.e f.t)
  | 0xB3 => some (.gather f.a f.b f.d f.e f.t)
  | 0xB4 => some (.scatter f.a f.b f.d f.e f.t)
  | 0xB5 => some (.scatadd f.a f.b f.d f.e f.t)
  | 0xB6 => some (.tileld f.a f.b f.d f.e f.t)
  | 0xB7 => some (.tilest f.a f.b f.d f.e f.t)
  | 0xB8 => some (.oobrd f.a f.b f.d f.e f.t)
  | 0xC0 => some (.mxlw f.a f.b f.d f.e f.t)
  | 0xC1 => some (.mxswap f.a f.b f.d f.e f.t)
  | 0xC2 => some (.mxstr f.a f.b f.d f.e f.t)
  | 0xC3 => some (.mxzero f.a f.b f.d f.e f.t)
  | 0xC4 => some (.mxdrp f.a f.b f.d f.e f.t)
  | 0xC5 => some (.mxdrs f.a f.b f.d f.e f.t)
  | 0xC6 => some (.mxdrm f.a f.b f.d f.e f.t)
  | 0xC7 => some (.mxqp f.a f.b f.d f.e f.t)
  | 0xD0 => some (.tdcfg f.a f.b f.d f.e f.t)
  | 0xD1 => some (.tdsc f.a f.b f.d f.e f.t)
  | 0xD2 => some (.tdgrp f.a f.b f.d f.e f.t)
  | 0xD3 => some (.tdptr f.a f.b f.d f.e f.t)
  | 0xD4 => some (.tdnode f.a f.b f.d f.e f.t)
  | 0xD8 => some (.brcfg f.a f.b f.d f.e f.t)
  | 0xD9 => some (.brin f.a f.b f.d f.e f.t)
  | 0xDA => some (.brret f.a f.b f.d f.e f.t)
  | 0xDB => some (.brstat f.a f.b f.d f.e f.t)
  | 0xDC => some (.brpin f.a f.b f.d f.e f.t)
  | 0xE0 => some (.shidx f.a f.b f.d f.e f.t)
  | 0xE1 => some (.packr f.a f.b f.d f.e f.t)
  | 0xE2 => some (.segid f.a f.b f.d f.e f.t)
  | _ => none

/-- The fields of an instruction; an event has none. -/
def fieldsOfInstr : Instr → Option Fields
  | .iadd a b d e t => some ⟨0x01#8, a, b, d, e, t⟩
  | .isub a b d e t => some ⟨0x02#8, a, b, d, e, t⟩
  | .iadds a b d e t => some ⟨0x03#8, a, b, d, e, t⟩
  | .iaddus a b d e t => some ⟨0x04#8, a, b, d, e, t⟩
  | .isubs a b d e t => some ⟨0x05#8, a, b, d, e, t⟩
  | .imul a b d e t => some ⟨0x06#8, a, b, d, e, t⟩
  | .imulh a b d e t => some ⟨0x07#8, a, b, d, e, t⟩
  | .imulhu a b d e t => some ⟨0x08#8, a, b, d, e, t⟩
  | .imad a b d e t => some ⟨0x09#8, a, b, d, e, t⟩
  | .idiv a b d e t => some ⟨0x0A#8, a, b, d, e, t⟩
  | .idivu a b d e t => some ⟨0x0B#8, a, b, d, e, t⟩
  | .irem a b d e t => some ⟨0x0C#8, a, b, d, e, t⟩
  | .iremu a b d e t => some ⟨0x0D#8, a, b, d, e, t⟩
  | .imin a b d e t => some ⟨0x0E#8, a, b, d, e, t⟩
  | .imax a b d e t => some ⟨0x0F#8, a, b, d, e, t⟩
  | .iminu a b d e t => some ⟨0x10#8, a, b, d, e, t⟩
  | .imaxu a b d e t => some ⟨0x11#8, a, b, d, e, t⟩
  | .iabs a d e t => some ⟨0x12#8, a, 0#4, d, e, t⟩
  | .ineg a d e t => some ⟨0x13#8, a, 0#4, d, e, t⟩
  | .and a b d e t => some ⟨0x14#8, a, b, d, e, t⟩
  | .or a b d e t => some ⟨0x15#8, a, b, d, e, t⟩
  | .xor a b d e t => some ⟨0x16#8, a, b, d, e, t⟩
  | .andn a b d e t => some ⟨0x17#8, a, b, d, e, t⟩
  | .not a d e t => some ⟨0x18#8, a, 0#4, d, e, t⟩
  | .shl a b d e t => some ⟨0x19#8, a, b, d, e, t⟩
  | .shr a b d e t => some ⟨0x1A#8, a, b, d, e, t⟩
  | .sar a b d e t => some ⟨0x1B#8, a, b, d, e, t⟩
  | .rol a b d e t => some ⟨0x1C#8, a, b, d, e, t⟩
  | .clz a d e t => some ⟨0x1D#8, a, 0#4, d, e, t⟩
  | .popc a d e t => some ⟨0x1E#8, a, 0#4, d, e, t⟩
  | .brev a d e t => some ⟨0x1F#8, a, 0#4, d, e, t⟩
  | .bfx a b d e t => some ⟨0x20#8, a, b, d, e, t⟩
  | .bfi a b d e t => some ⟨0x21#8, a, b, d, e, t⟩
  | .iseq a b d e t => some ⟨0x22#8, a, b, d, e, t⟩
  | .isne a b d e t => some ⟨0x23#8, a, b, d, e, t⟩
  | .islt a b d e t => some ⟨0x24#8, a, b, d, e, t⟩
  | .isle a b d e t => some ⟨0x25#8, a, b, d, e, t⟩
  | .isltu a b d e t => some ⟨0x26#8, a, b, d, e, t⟩
  | .isleu a b d e t => some ⟨0x27#8, a, b, d, e, t⟩
  | .fadd a b d e t => some ⟨0x30#8, a, b, d, e, t⟩
  | .fsub a b d e t => some ⟨0x31#8, a, b, d, e, t⟩
  | .fmul a b d e t => some ⟨0x32#8, a, b, d, e, t⟩
  | .fma a b d e t => some ⟨0x33#8, a, b, d, e, t⟩
  | .fmin a b d e t => some ⟨0x34#8, a, b, d, e, t⟩
  | .fmax a b d e t => some ⟨0x35#8, a, b, d, e, t⟩
  | .fabs a d e t => some ⟨0x36#8, a, 0#4, d, e, t⟩
  | .fneg a d e t => some ⟨0x37#8, a, 0#4, d, e, t⟩
  | .fseq a b d e t => some ⟨0x38#8, a, b, d, e, t⟩
  | .fslt a b d e t => some ⟨0x39#8, a, b, d, e, t⟩
  | .fsle a b d e t => some ⟨0x3A#8, a, b, d, e, t⟩
  | .fsun a b d e t => some ⟨0x3B#8, a, b, d, e, t⟩
  | .fscale a b d e t => some ⟨0x3C#8, a, b, d, e, t⟩
  | .frnd a m d e t => some ⟨0x3D#8, a, m, d, e, t⟩
  | .rcpe a d e t => some ⟨0x3E#8, a, 0#4, d, e, t⟩
  | .rsqe a d e t => some ⟨0x3F#8, a, 0#4, d, e, t⟩
  | .exp2 a d e t => some ⟨0x40#8, a, 0#4, d, e, t⟩
  | .log2 a d e t => some ⟨0x41#8, a, 0#4, d, e, t⟩
  | .tanh a d e t => some ⟨0x42#8, a, 0#4, d, e, t⟩
  | .sigm a d e t => some ⟨0x43#8, a, 0#4, d, e, t⟩
  | .cvtfi a m d e t => some ⟨0x50#8, a, m, d, e, t⟩
  | .cvtif a m d e t => some ⟨0x51#8, a, m, d, e, t⟩
  | .cvtfb a d e t => some ⟨0x52#8, a, 0#4, d, e, t⟩
  | .cvtbf a d e t => some ⟨0x53#8, a, 0#4, d, e, t⟩
  | .cvtfh a d e t => some ⟨0x54#8, a, 0#4, d, e, t⟩
  | .cvthf a d e t => some ⟨0x55#8, a, 0#4, d, e, t⟩
  | .qe4 a b d e t => some ⟨0x56#8, a, b, d, e, t⟩
  | .qe5 a b d e t => some ⟨0x57#8, a, b, d, e, t⟩
  | .qe2 a b d e t => some ⟨0x58#8, a, b, d, e, t⟩
  | .qai8 a b d e t => some ⟨0x59#8, a, b, d, e, t⟩
  | .qai4 a b d e t => some ⟨0x5A#8, a, b, d, e, t⟩
  | .dqf a d e t => some ⟨0x5B#8, a, 0#4, d, e, t⟩
  | .scaleof a m d e t => some ⟨0x5C#8, a, m, d, e, t⟩
  | .retag a m d e t => some ⟨0x5D#8, a, m, d, e, t⟩
  | .vbcast a m d e t => some ⟨0x60#8, a, m, d, e, t⟩
  | .vlane a m d e t => some ⟨0x61#8, a, m, d, e, t⟩
  | .vins a b d e t => some ⟨0x62#8, a, b, d, e, t⟩
  | .vmerge a b d e t => some ⟨0x63#8, a, b, d, e, t⟩
  | .vsplit a m d e t => some ⟨0x64#8, a, m, d, e, t⟩
  | .vmask a b d e t => some ⟨0x65#8, a, b, d, e, t⟩
  | .vsum a d e t => some ⟨0x66#8, a, 0#4, d, e, t⟩
  | .vmax a d e t => some ⟨0x67#8, a, 0#4, d, e, t⟩
  | .vmin a d e t => some ⟨0x68#8, a, 0#4, d, e, t⟩
  | .vdot a b d e t => some ⟨0x69#8, a, b, d, e, t⟩
  | .vlen a d e t => some ⟨0x6A#8, a, 0#4, d, e, t⟩
  | .vnz a m d e t => some ⟨0x6B#8, a, m, d, e, t⟩
  | .viota a m d e t => some ⟨0x6C#8, a, m, d, e, t⟩
  | .pass a d e t => some ⟨0x70#8, a, 0#4, d, e, t⟩
  | .steer a m d e t => some ⟨0x71#8, a, m, d, e, t⟩
  | .sel a b d e t => some ⟨0x72#8, a, b, d, e, t⟩
  | .gate a m d e t => some ⟨0x73#8, a, m, d, e, t⟩
  | .merge d e t => some ⟨0x74#8, 0#4, 1#4, d, e, t⟩
  | .radd b d e t => some ⟨0x75#8, 0#4, b, d, e, t⟩
  | .rmax b d e t => some ⟨0x76#8, 0#4, b, d, e, t⟩
  | .count m d e t => some ⟨0x77#8, 0#4, m, d, e, t⟩
  | .eosq a d e t => some ⟨0x78#8, a, 0#4, d, e, t⟩
  | .eosg a d e t => some ⟨0x79#8, a, 0#4, d, e, t⟩
  | .tagof a d e t => some ⟨0x7A#8, a, 0#4, d, e, t⟩
  | .free a d e t => some ⟨0x7B#8, a, 0#4, d, e, t⟩
  | .sink a t => some ⟨0x7C#8, a, 0#4, 0#6, 0#6, t⟩
  | .const a m d e t => some ⟨0x7D#8, a, m, d, e, t⟩
  | .ldl a m d e t => some ⟨0x80#8, a, m, d, e, t⟩
  | .stl a d e t => some ⟨0x81#8, a, 0#4, d, e, t⟩
  | .ldc a m d e t => some ⟨0x82#8, a, m, d, e, t⟩
  | .stc a d e t => some ⟨0x83#8, a, 0#4, d, e, t⟩
  | .ldg a b d e t => some ⟨0x84#8, a, b, d, e, t⟩
  | .stg a b d e t => some ⟨0x85#8, a, b, d, e, t⟩
  | .atadd a b d e t => some ⟨0x86#8, a, b, d, e, t⟩
  | .atmin a b d e t => some ⟨0x87#8, a, b, d, e, t⟩
  | .atmax a b d e t => some ⟨0x88#8, a, b, d, e, t⟩
  | .atand a b d e t => some ⟨0x89#8, a, b, d, e, t⟩
  | .ator a b d e t => some ⟨0x8A#8, a, b, d, e, t⟩
  | .atxor a b d e t => some ⟨0x8B#8, a, b, d, e, t⟩
  | .atxch a b d e t => some ⟨0x8C#8, a, b, d, e, t⟩
  | .atcas a b d e t => some ⟨0x8D#8, a, b, d, e, t⟩
  | .ticket a b d e t => some ⟨0x8E#8, a, b, d, e, t⟩
  | .append a b d e t => some ⟨0x8F#8, a, b, d, e, t⟩
  | .prefg a b d e t => some ⟨0x90#8, a, b, d, e, t⟩
  | .join a d e t => some ⟨0xA0#8, a, 0#4, d, e, t⟩
  | .leave a d e t => some ⟨0xA1#8, a, 0#4, d, e, t⟩
  | .arrive a d e t => some ⟨0xA2#8, a, 0#4, d, e, t⟩
  | .fence a s d e t => some ⟨0xA3#8, a, (s.setWidth 4), d, e, t⟩
  | .acq a s d e t => some ⟨0xA4#8, a, (s.setWidth 4), d, e, t⟩
  | .rel a s d e t => some ⟨0xA5#8, a, (s.setWidth 4), d, e, t⟩
  | .trap a t => some ⟨0xA6#8, a, 0#4, 0#6, 0#6, t⟩
  | .evt a m d e t => some ⟨0xA7#8, a, m, d, e, t⟩
  | .time a d e t => some ⟨0xA8#8, a, 0#4, d, e, t⟩
  | .mbxs a d e t => some ⟨0xA9#8, a, 0#4, d, e, t⟩
  | .qput a b d e t => some ⟨0xAA#8, a, b, d, e, t⟩
  | .yield a d e t => some ⟨0xAB#8, a, 0#4, d, e, t⟩
  | .cparm a b d e t => some ⟨0xB0#8, a, b, d, e, t⟩
  | .cpdis a b d e t => some ⟨0xB1#8, a, b, d, e, t⟩
  | .cpgo a b d e t => some ⟨0xB2#8, a, b, d, e, t⟩
  | .gather a b d e t => some ⟨0xB3#8, a, b, d, e, t⟩
  | .scatter a b d e t => some ⟨0xB4#8, a, b, d, e, t⟩
  | .scatadd a b d e t => some ⟨0xB5#8, a, b, d, e, t⟩
  | .tileld a b d e t => some ⟨0xB6#8, a, b, d, e, t⟩
  | .tilest a b d e t => some ⟨0xB7#8, a, b, d, e, t⟩
  | .oobrd a b d e t => some ⟨0xB8#8, a, b, d, e, t⟩
  | .mxlw a b d e t => some ⟨0xC0#8, a, b, d, e, t⟩
  | .mxswap a b d e t => some ⟨0xC1#8, a, b, d, e, t⟩
  | .mxstr a b d e t => some ⟨0xC2#8, a, b, d, e, t⟩
  | .mxzero a b d e t => some ⟨0xC3#8, a, b, d, e, t⟩
  | .mxdrp a b d e t => some ⟨0xC4#8, a, b, d, e, t⟩
  | .mxdrs a b d e t => some ⟨0xC5#8, a, b, d, e, t⟩
  | .mxdrm a b d e t => some ⟨0xC6#8, a, b, d, e, t⟩
  | .mxqp a b d e t => some ⟨0xC7#8, a, b, d, e, t⟩
  | .tdcfg a b d e t => some ⟨0xD0#8, a, b, d, e, t⟩
  | .tdsc a b d e t => some ⟨0xD1#8, a, b, d, e, t⟩
  | .tdgrp a b d e t => some ⟨0xD2#8, a, b, d, e, t⟩
  | .tdptr a b d e t => some ⟨0xD3#8, a, b, d, e, t⟩
  | .tdnode a b d e t => some ⟨0xD4#8, a, b, d, e, t⟩
  | .brcfg a b d e t => some ⟨0xD8#8, a, b, d, e, t⟩
  | .brin a b d e t => some ⟨0xD9#8, a, b, d, e, t⟩
  | .brret a b d e t => some ⟨0xDA#8, a, b, d, e, t⟩
  | .brstat a b d e t => some ⟨0xDB#8, a, b, d, e, t⟩
  | .brpin a b d e t => some ⟨0xDC#8, a, b, d, e, t⟩
  | .shidx a b d e t => some ⟨0xE0#8, a, b, d, e, t⟩
  | .packr a b d e t => some ⟨0xE1#8, a, b, d, e, t⟩
  | .segid a b d e t => some ⟨0xE2#8, a, b, d, e, t⟩
  | .powerAux3v3On => none
  | .stageS0Reached _ => none
  | .perstDeassert => none
  | .stageS1Reached => none
  | .stageS2Reached => none
  | .stageS3Reached => none
  | .stageDeadlineMissed _ => none
  | .aux54vArrives => none
  | .drvfeatWrite _ => none
  | .vfFlr _ => none
  | .pfFlr => none
  | .pcieLinkTrained _ _ => none
  | .hostLinkLost => none
  | .linklostSaveComplete => none
  | .hostLinkRetrained => none
  | .recoveryTimeout => none
  | .bar2baseWrite _ => none
  | .hostBar2Access _ _ _ => none
  | .hostVfBarAccessInFlr _ _ _ _ => none
  | .cxlLinkTrained _ _ _ => none
  | .expanderLost _ => none
  | .d2dCorrectableRetry => none
  | .d2dUncorrectableFlit _ => none
  | .ppsEdge => none
  | .timeOfDayDelivery _ => none
  | .ppsHoldover => none
  | .ttEraWrap => none
  | .d2dTimeCalibration _ => none
  | .skewAlarm => none
  | .powerCapSet _ => none
  | .clockStep _ => none
  | .pldmSensorRead _ => none
  | .wearUpdate _ => none
  | .attestationRequestSideband _ => none
  | .pldmFwUpdate _ _ => none
  | .fwsctlOpen _ => none
  | .fwspush => none
  | .fwsChunkCopied => none
  | .fwsctlGo _ => none
  | .castleVerify => none
  | .castleStaged => none
  | .castlePoint => none
  | .engineStoreSwap _ => none
  | .castleImportDone => none
  | .castleHeartbeat => none
  | .heartbeatDeadline => none
  | .castleCommit => none
  | .doorbellWrite _ _ _ _ => none
  | .ringFetch _ _ _ => none
  | .mergeRound => none
  | .inject => none
  | .reside => none
  | .evict => none
  | .evictDone _ _ => none
  | .ib => none
  | .waitv => none
  | .waitvReread => none
  | .writev => none
  | .mboxAttestRequest => none
  | .mboxEcho => none
  | .qbar => none
  | .tracectl => none
  | .nopk => none
  | .activationQuiescent _ _ => none
  | .cplheadWrite _ _ _ => none
  | .tagStallWatchdog => none
  | .qctlEnableSet _ _ _ => none
  | .qctlEnableClear _ _ => none
  | .qctlCmdResume _ _ => none
  | .qctlCmdReset _ _ => none
  | .mbxheadWrite _ _ => none
  | .mbxctlWrite _ _ => none
  | .dataDoorbellWrite _ _ _ => none
  | .drctlEnableSet _ _ _ => none
  | .drctlEnableClear _ _ => none
  | .drctlCmdResume _ _ => none
  | .drctlCmdReset _ _ => none
  | .span => none
  | .sample => none
  | .flush => none
  | .dataPacketConsumed => none
  | .streamOpen => none
  | .streamBind => none
  | .streamComplete => none
  | .regionGrant _ _ _ => none
  | .quantumCharge _ => none
  | .drainComplete => none
  | .t1Deadline => none
  | .engineBoundarySave _ => none
  | .shadowExchange _ => none
  | .t2Deadline => none
  | .queueRestore => none
  | .partcfgHoldSet _ => none
  | .partcfgHoldClear _ => none
  | .spillWatchdog _ => none
  | .faultToken => none
  | .rmLoad _ _ => none
  | .rmPlace _ _ => none
  | .rmFetch _ _ => none
  | .configEntryFetched _ _ => none
  | .stageInputIdle _ _ => none
  | .rmStageSwap _ _ _ => none
  | .rmResolve _ _ _ => none
  | .faultReplay _ _ => none
  | .trctlEnSet _ _ => none
  | .traceFilterWrite _ _ _ => none
  | .trheadWrite _ _ => none
  | .traceEventWrite => none
  | .traceForcedLossy _ => none
  | .elcselWrite _ _ => none
  | .tokenEnqueue _ => none
  | .framePartReload _ _ => none
  | .queueRefill _ => none
  | .translationWalk _ _ => none
  | .atsInvalidation _ _ => none
  | .tlbinvWrite _ => none
  | .hbmForcedRefresh _ _ => none
  | .hbmCorrectedError _ _ _ => none
  | .hbmUncorrectableError _ _ => none
  | .latctlClr _ _ => none
  | .copyTrigger _ _ => none
  | .copyRetire _ => none
  | .engineFifoIssue _ => none
  | .engineRetire _ => none
  | .mxdrpRowArrive _ => none
  | .engineNoncommandDrop _ => none
  | .registerWrite _ _ => none
  | .perstAssert => none
  | .powerLoss => none
  | .memoryResponse _ => none
  | .priPageResponse _ _ _ => none
  | .atsTranslationResponse _ _ _ => none
  | .orderlyPowerDownMessage => none

/-- The instruction a word holds, or why it holds none. -/
def decode (w : Word) : Except DecodeError Instr :=
  if w == 0 then .error .void
  else match fieldError (fieldsOfWord w) with
    | some e => .error e
    | none => match instrOfFields (fieldsOfWord w) with
      | some i => .ok i
      | none => .error .reservedOp

/-- The word of an instruction; an event has none. -/
def encode (i : Instr) : Option Word := (fieldsOfInstr i).map wordOfFields

/-- A word from its four bytes in memory order (R3: little-endian). -/
def wordOfBytes : List Byte → Option Word
  | b0 :: b1 :: b2 :: b3 :: _ => some (b3 ++ b2 ++ b1 ++ b0)
  | _ => none

/-- The instruction that bytes hold: a word is four bytes. -/
def decodeBytes (bs : List Byte) : Except DecodeError Instr :=
  match wordOfBytes bs with
  | some w => decode w
  | none => .error .short

/-- The four bytes of a number, as the hardware stores a word. -/
def bytesOfNat (w : Nat) : List Byte :=
  [BitVec.ofNat 8 w, BitVec.ofNat 8 (w / 2 ^ 8), BitVec.ofNat 8 (w / 2 ^ 16), BitVec.ofNat 8 (w / 2 ^ 24)]

/-- The instruction the decoder reads from the bits of an opcode-table row: bit 0 is bit 0 of the word, and every bit
from `nbits` up is 0. -/
def decodeTableWord (nbits w : Nat) : Option Instr :=
  match decodeBytes (bytesOfNat (w % 2 ^ nbits)) with
  | .ok i => some i
  | .error _ => none

end Sys2Proof
end

