-- ==== Sys2Proof/Machine/Bits.lean ====
section
/-! DEFINITION. Bit fields and byte order (R3): bit 0 is the least significant, memory is little-endian. -/

namespace Sys2Proof.Machine

/-- Bits [hi:lo] of a number. -/
def bits (v hi lo : Nat) : Nat := v / 2 ^ lo % 2 ^ (hi + 1 - lo)

/-- Bit `i` of a number. -/
def bit (v i : Nat) : Bool := v / 2 ^ i % 2 == 1

/-- A Bool as 0 or 1. -/
def ofBit (b : Bool) : Nat := if b then 1 else 0

/-- `v` read as a two's-complement number of `w` bits. -/
def signed (w v : Nat) : Int := if v % 2 ^ w < 2 ^ (w - 1) then (v % 2 ^ w : Nat) else (v % 2 ^ w : Nat) - (2 ^ w : Nat)

/-- A number from its bytes, least significant first. -/
def leNat : List Byte → Nat
  | [] => 0
  | b :: bs => b.toNat + 256 * leNat bs

/-- `n` bytes of a number, least significant first. -/
def leBytes : Nat → Nat → List Byte
  | 0, _ => []
  | n + 1, v => BitVec.ofNat 8 v :: leBytes n (v / 256)

/-- The first `k` runs of `n` entries of a list. -/
def chunks {α : Type} (n : Nat) : Nat → List α → List (List α)
  | 0, _ => []
  | k + 1, xs => xs.take n :: chunks n k (xs.drop n)

/-- Floor of the base-2 logarithm; 0 for 0. -/
def log2 (v : Nat) : Nat := Nat.log2 v

/-- Smallest multiple of `m` at or above `v`. -/
def roundUp (v m : Nat) : Nat := (v + m - 1) / m * m

/-- Whether a number is a power of two. -/
def isPow2 (v : Nat) : Bool := v != 0 && 2 ^ log2 v == v

/-- Ones in the low `w` bits of a number. -/
def popCount : Nat → Nat → Nat
  | 0, _ => 0
  | w + 1, v => v % 2 + popCount w (v / 2)

/-- The low `w` bits of a number in reversed order. -/
def reverseBits : Nat → Nat → Nat
  | 0, _ => 0
  | w + 1, v => (v % 2) * 2 ^ w + reverseBits w (v / 2)

/-- A count raised by `n`, saturating at 32 bits (R176). -/
def satAdd (c : Word) (n : Nat) : Word := if c.toNat + n < 2 ^ 32 then BitVec.ofNat 32 (c.toNat + n) else 0xFFFFFFFF#32

end Sys2Proof.Machine
end

