-- ==== Sys2Proof/Machine/Sparse.lean ====
section
/-! DEFINITION. Sparse tables: lists of (key, value) with rising keys, read with a default. One reading and one
writing operation serve every table of the state. -/

namespace Sys2Proof.Machine

/-- The value at key `k`, or `d` when the table does not list it. -/
def lookup {α : Type} (d : α) : Sparse α → Nat → α
  | [], _ => d
  | (k', v) :: m, k => if k' = k then v else lookup d m k

/-- The table with `v` at key `k`. -/
def store {α : Type} : Sparse α → Nat → α → Sparse α
  | [], k, v => [(k, v)]
  | (k', v') :: m, k, v =>
    if k' = k then (k, v) :: m else if k < k' then (k, v) :: (k', v') :: m else (k', v') :: store m k v

/-- The table without key `k`. -/
def erase {α : Type} : Sparse α → Nat → Sparse α
  | [], _ => []
  | (k', v) :: m, k => if k' = k then m else (k', v) :: erase m k

/-- Keys rise strictly. -/
def rising {α : Type} : Sparse α → Bool
  | [] => true
  | [_] => true
  | (k, _) :: (k', v') :: m => decide (k < k') && rising ((k', v') :: m)

/-- The entries with the keys of the list removed. -/
def eraseAll {α : Type} (m : Sparse α) (ks : List Nat) : Sparse α := m.filter fun e => !ks.contains e.1

/-- The table with every value changed. -/
def mapVals {α β : Type} (f : Nat → α → β) (m : Sparse α) : Sparse β := m.map fun e => (e.1, f e.1 e.2)

/-- Place `k` of a list changed, if it is there. -/
def modifyAt {α : Type} (f : α → α) : List α → Nat → List α
  | [], _ => []
  | x :: xs, 0 => f x :: xs
  | x :: xs, k + 1 => x :: modifyAt f xs k

/-- Place `k` of a list taken out. -/
def dropAt {α : Type} : List α → Nat → List α
  | [], _ => []
  | _ :: xs, 0 => xs
  | x :: xs, k + 1 => x :: dropAt xs k

/-- The place of the first entry that satisfies a test. -/
def findPlace {α : Type} (p : α → Bool) : List α → Option Nat
  | [] => none
  | x :: xs => if p x then some 0 else (findPlace p xs).map (· + 1)

end Sys2Proof.Machine
end

