-- ==== Sys2Proof/Config.lean ====
section
/-! DEFINITION. What one GQF-720L fixes, and the free values: constants with no body, for what the manual leaves
open. Nothing can evaluate a free value, so a claim about one holds whatever it is (notes/assumptions/4). -/

namespace Sys2Proof.Config

/-- What parts the F32 results of a special function (0 EXP2, 1 LOG2, 2 TANH, 3 SIGM) among its inputs, where R366 leaves the
bits open within 2 ulp: by four times the bits left below, plus the function, and by the bits of the input above. -/
opaque specialBits : Nat → Word → Word

/-- Byte `k` of the XMSS signature with one-time index `idx` (R37, R39). -/
opaque signatureByte : Nat → Nat → Byte

/-- A sensor reading (R19): sensor number and the moment of reading. -/
opaque sensorValue : Nat → Nat → Word

/-- Cycles of a broker visit in MEASURED mode (R281), by the moment the visit returns. -/
opaque visitCycles : Nat → Word

/-- Latency in ns of a memory request (R198), by the moment of its response. -/
opaque latencyNs : Nat → Word

/-- Stack and pseudo-channel that a "latency maximum raised" event names (R142, R198), by the moment of the response. -/
opaque latencyPlace : Nat → BitVec 8

/-- Operand B's lane 0 for TAGB on a MERGE that takes field L (R164, R385), by the moment of the firing. -/
opaque mergeTag : Nat → Word

/-- CODE of the LINK event that counts a BAR2 access to nothing (R15): R142 lists none for it. -/
opaque bar2Code : BitVec 4

/-- GT/s that a LINK event of the die-to-die link shows (R142). -/
opaque d2dGts : BitVec 8

/-- What VERIFY reads out of an image assembled in the staging window (R43, R45), by the moment of the request. -/
opaque imageFacts : Nat → ImageFacts

/-- The place, among all that may happen next when nothing is on the agenda, of what does: the manual fixes no order
between the device's own doings (notes/assumptions/8). -/
opaque choice : Nat → Nat

/-- How many steps one of the device's doings waits at most while others go (R180: it eventually goes). -/
opaque patience : Nat

/-- The indicators that the management controller computes (R40), by the moment. -/
opaque wearValues : Nat → List (BitVec 128)

/-- Whether a read of an entry while the wear page is updated finds the new one (R41), by the moment and the entry. -/
opaque wearTorn : Nat → Nat → Bool

/-- Which of its core's CACHE banks takes a line (R187), by the moment. -/
opaque way : Nat → Nat

/-- The matching store of the FGE after a firing of the scheduler graph (R102), by the moment: slot, tag and word of each entry. -/
opaque fgeStore : Nat → List (Nat × Nat × DWord)

/-- The page a walker of the device's own accord walks next (R200), by the moment. -/
opaque walkPage : Nat → Nat

/-- Default card power cap and its range in watts (R12). -/
def powerCapMin : Nat := 900
def powerCapMax : Nat := 1800

/-- The arithmetic clock, its floor and its step in MHz (R12, R29). -/
def clockMax : Nat := 1200
def clockMin : Nat := 600
def clockStep : Nat := 25

/-- Default recovery timeout in seconds and its range (R26). -/
def recoveryDefault : Nat := 60

/-- Default ladder deadlines in microseconds (R122). -/
def t1Default : Nat := 500
def t2Default : Nat := 100

/-- The deficit round-robin quantum in microseconds (R119). -/
def quantum : Nat := 2000

/-- Counts the manual gives. -/
def partitions : Nat := 24
def regions : Nat := 24
def clusters : Nat := 6
def queuesPerPartition : Nat := 4
def ringsPerQueue : Nat := 64
def framePartsPerElement : Nat := 56
def frameSpillParts : Nat := 16384
def spillRingTokens : Nat := 5461
def fifoBankEntries : Nat := 2730
def setMembers : Nat := 4096
def heldCompletions : Nat := 256
def faultFifoEntries : Nat := 256
def measurementLogEntries : Nat := 4096
def signatures : Nat := 1048576
def brokerRecords : Nat := 1024

end Sys2Proof.Config
end

