-- ==== Sys2Proof/Machine/State.lean ====
section
/-! DEFINITION. The state of the GQF-720L: everything the manual gives the device, as plain data. A field's default
is its reset value, so `State.reset` is the machine with every field at its default; where the manual gives no
reset value, notes/assumptions/2 names the one taken. Tables are sparse: an entry not listed is the default. -/

namespace Sys2Proof.Machine

/-! ### Tokens (R160, R161) -/

/-- KIND of a token (R160). -/
inductive Kind where
  | data | eos | null | ctrl
  deriving DecidableEq, Repr

/-- The packet formats (R6), FMT codes 0 to 7 in order. -/
inductive Fmt where
  | i32 | f32 | bf16 | e4m3 | e5m2 | e2m1 | ai8 | ai4
  deriving DecidableEq, Repr

/-- A token: header fields, AUX word, lanes (LEN + 1 of them; none for an EOS), the poison mark that travels
outside the header (R202), and the causal floor of R140 (the highest send time it depends on, plus one; 0 none). -/
structure Token where
  kind   : Kind := .data
  v      : Bool := false
  fmt    : Fmt := .i32
  lanes  : List Word := []
  mask   : BitVec 8 := 0
  tag    : Tag := 0
  seq    : BitVec 12 := 0
  ctx    : Nat := 0
  aux    : Option Word := none
  pred   : Bool := false
  poison : Bool := false
  floor  : DWord := 0
  deriving DecidableEq, Repr

/-- VSEL of a route entry (R328). -/
inductive VSel where
  | keep | force0 | force1
  deriving DecidableEq, Repr

/-- Where a token goes: a route entry resolved at the element that sends it (R173, R329). -/
inductive Dest where
  /-- KIND 0: slot and field of an element; `port` is true for what an edge port delivers, which enters Q3. -/
  | slot (el slot field : Nat) (vsel : VSel) (port : Bool)
  /-- KIND 1: engine port of a region. -/
  | engine (region port : Nat) (vsel : VSel)
  /-- KIND 3: egress port of a region. -/
  | egress (region port : Nat) (vsel : VSel)
  /-- KIND 5: drop and count at the sending element. -/
  | drop (el : Nat)
  deriving DecidableEq, Repr

/-- A tree slot (R267). -/
structure TreeSlot where
  cfg  : Nat
  wrec : Nat
  brec : Nat
  depth : Nat
  n : Nat
  deriving DecidableEq, Repr

/-- A path register (R270): PATH, DEPTH, VALID, POISON, NANB, LEAF, INPUT, SLOT, TAG and DOT0 to DOT15; and the queue whose
TDSC wrote it, with which it is saved (R124). -/
structure PathReg where
  queue : Nat := 0
  path : BitVec 16 := 0
  depth : BitVec 5 := 0
  valid : Bool := false
  poison : Bool := false
  nanb : BitVec 16 := 0
  leaf : BitVec 16 := 0
  input : BitVec 6 := 0
  slot : BitVec 2 := 0
  tag : Tag := 0
  dots : Sparse Word := []
  deriving DecidableEq, Repr

/-- An input of a TDSC on its way down (R269): its place in the batch, its row once read, its level and node, its register so far,
and the page its own access waits for (R275). -/
structure Walker where
  j      : Nat
  row    : Option (List (Option Word)) := none
  level  : Nat := 0
  node   : Nat := 0
  reg    : PathReg := {}
  parked : Option Nat := none
  /-- It has reached its leaf, or a poisoned read has stopped it. -/
  ended  : Bool := false
  deriving DecidableEq, Repr

/-- A TDSC under way (R269, R274): the tree it descends, as the slot stood when it began, its inputs, NaN scores and node
fetches. -/
structure Descent where
  tree    : TreeSlot
  walkers : List Walker
  nans    : Nat := 0
  fetches : Nat := 0
  deriving DecidableEq, Repr

/-- An engine command on its way or in an engine (R332, R333): the command word, the parameter packet with the header
of the answers, SCATTER's data packet, where it comes from and where its answers go. -/
structure Cmd where
  op       : BitVec 8 := 0
  hdr      : BitVec 24 := 0
  a        : Token := {}
  p        : Option Token := none
  el       : Nat := 0
  v        : Bool := false
  slot     : Nat := 0
  cfg      : Nat := 0
  region   : Nat := 0
  port     : Nat := 0
  queue    : Nat := 0
  d0       : List Dest := []
  d1       : List Dest := []
  /-- Issued: WAITF popped and the acquire done. -/
  issued   : Bool := false
  /-- Its work has found it ILLEGAL (R277). -/
  illegal  : Bool := false
  /-- All its work is done: the answers wait for retirement. -/
  finished : Bool := false
  /-- Its state has gone to the save area at a boundary (R124). -/
  saved    : Bool := false
  /-- Rows done, or another measure of progress. -/
  row      : Nat := 0
  /-- FIFO entries taken for the row in hand. -/
  got      : List Token := []
  /-- A TDSC's inputs, once it has begun. -/
  descent  : Option Descent := none
  /-- Poisoned granules read (R262, R430). -/
  granules : List (Bool × Nat) := []
  answers  : List Token := []
  /-- The completion token's lanes, once known. -/
  done     : Option (List Word) := none
  donePoison : Bool := false
  /-- Page its access waits for (R200, R201). -/
  parked   : Option Nat := none
  ident    : Nat := 0
  deriving DecidableEq, Repr

/-- The store that an acknowledgement answers (R206, R212): the region it was made through, the number of its request, by which its
writes on their way are known, and the lines of that region's CACHE banks that it stored to. -/
structure Ack where
  region : Nat
  owner  : Nat
  lines  : List Nat
  deriving DecidableEq, Repr

/-- What travels in the network: a token for a destination, or a command for an engine port (`cmd`). -/
structure Flight where
  tok   : Token := {}
  dest  : Dest
  /-- Element the token comes from, for drops and counts. -/
  src   : Nat := 0
  cmd   : Option Cmd := none
  /-- Its place among the records that have reached a broker and hold there for the trace (R152). -/
  reached : Option Nat := none
  /-- It acknowledges a store. -/
  ack : Option Ack := none
  /-- The slot whose firing has it as a result, by 16 × V + n: the results of other slots are not in order with it (R159). -/
  slot : Option Nat := none
  deriving DecidableEq, Repr

/-! ### The element (R154 to R158) -/

/-- What an operand field holds: a token; the running value of RADD or RMAX with the next expected SEQ and whether
any term was DATA (R386); or the running count of COUNT (R388). -/
inductive FieldVal where
  | tok (t : Token) | acc (value : Token) (next : BitVec 12) (data : Bool) | count (c : Word)
  deriving DecidableEq, Repr

/-- A 64 B granule (R202): whether it is the host's, and its number. -/
abbrev Granule := Bool × Nat

/-- A frame part (R156): its fields by 3 × slot + field, and its SEQ counter. `touch` orders parts by use (R166),
`fresh` marks a reloaded part that has not yet fired once (R167). -/
structure FramePart where
  cfg    : Nat
  tag    : Tag
  fields : Sparse (Option FieldVal) := []
  seq    : BitVec 12 := 0
  touch  : Nat := 0
  fresh  : Bool := false
  deriving DecidableEq, Repr

/-- A token in an input queue, with the slot and field its route entry named. -/
structure QTok where
  tok   : Token
  slot  : Nat
  field : Nat
  deriving DecidableEq, Repr

/-- A fabric element (R154). Tables are keyed by 16 × V + n (64 × V + n for routes); `absent` lists table entries
marked absent (R114); `owner` gives the configuration that uses a slot. -/
structure Element where
  instr   : Sparse Word := []
  lits    : Sparse Word := []
  routes  : Sparse Word := []
  attrs   : Sparse (BitVec 16) := []
  absent  : List TableEntry := []
  owner   : Sparse Nat := []
  parts   : List FramePart := []
  spilled : List FramePart := []
  parked  : List QTok := []
  queues  : Sparse (List QTok) := []
  localMem : Sparse Word := []
  /-- Poisoned 64 B granules of the local data, by word / 16 (R202). -/
  localPoison : List Nat := []
  /-- NANCNT, OVFCNT, LENDROP, EOSMIS, DROPCNT, FREEDISC, SCRMISS by the codes of ELCSEL.CNT (R176, R177). -/
  counters : Sparse Word := []
  lastSlot : Nat := 15
  /-- Firings of the partition's tokens (R145). -/
  fires   : Nat := 0
  /-- MERGE slots that last took field L, by 16 × V + n: they take R next when both hold (R385). -/
  mergeL  : List Nat := []
  /-- Early RADD and RMAX terms (R387). -/
  reorder : List QTok := []
  /-- The tag a stream-mode slot serves (R171), by 16 × V + n. -/
  streamTag : Sparse (Option Tag) := []
  /-- Copy-channel sums by 65536 × slot + tag: bytes counted and, by their place among these, those that came from poisoned
  granules (R261, R262). -/
  sums    : Sparse (Nat × List (Nat × Granule)) := []
  /-- Tick of the last touch of a part (R166). -/
  clock   : Nat := 0
  /-- The firing that keeps the integer divider busy: its configuration and tag (R157, R355). -/
  divider : Option (Nat × Tag) := none
  /-- MBXS and QPUT firings that hold for room, by 16 × V + n and tag: they are in flight (R411). -/
  holding : List (Nat × Tag) := []
  deriving DecidableEq, Repr

/-! ### Graphs (R191, R338 to R346) -/

/-- A buffer record (R191) with its resolved BASE and the counters the device writes. -/
structure Rec where
  base   : Nat := 0
  fmt    : Fmt := .i32
  w      : Nat := 1
  rights : BitVec 8 := 0
  ndim   : Nat := 1
  space  : Nat := 0
  pasid  : Nat := 0
  ext    : List Nat := []
  str    : List Nat := []
  tile   : List Nat := []
  srec   : Nat := 0
  oobcnt : Word := 0
  ticket : Word := 0
  deriving DecidableEq, Repr

/-- A copy template (R344). -/
structure Template where
  skind : Nat := 0
  dkind : Nat := 0
  flags : BitVec 8 := 0
  src   : Nat := 0
  drec  : Nat := 0
  sc    : List Nat := []
  dc    : List Nat := []
  tile  : List Nat := []
  chX   : Nat := 0
  chY   : Nat := 0
  chSlot : Nat := 0
  cnt   : Nat := 0
  dsX   : Nat := 0
  dsY   : Nat := 0
  dsSlot : Nat := 0
  dsField : Nat := 0
  dsW   : Nat := 1
  deriving DecidableEq, Repr

/-- A launch entry (R346). -/
structure Launch where
  x     : Nat
  y     : Nat
  slot  : Nat
  field : Nat
  fmt   : Nat
  len   : Nat
  arg   : Nat
  deriving DecidableEq, Repr

/-- One element's tables in an image (R340, R341). -/
structure ElemTab where
  x : Nat
  y : Nat
  slots  : Sparse Word := []
  lits   : Sparse Word := []
  routes : Sparse Word := []
  attrs  : Sparse (BitVec 16) := []
  hotSlots  : BitVec 16 := 0
  hotLits   : BitVec 16 := 0
  hotRoutes : BitVec 64 := 0
  hotAttrs  : BitVec 16 := 0
  deriving DecidableEq, Repr

/-- A loaded configuration: what the manager keeps of the image (R348). -/
structure GraphConfig where
  w : Nat := 1
  h : Nat := 1
  quota : Nat := 56
  bound : Nat := 4
  scopes : List Nat := []
  featReq : BitVec 32 := 0
  elems : List ElemTab := []
  recs : Sparse Rec := []
  tmpls : List Template := []
  launch : List Launch := []
  stage : Bool := false
  stCore : Nat := 0
  stBank : Nat := 0
  dataOff : Nat := 0
  recOff : Nat := 0
  deriving DecidableEq, Repr

/-- Where a configuration is placed (R110, R111, R113): its origin, version, queue and the set units bound to it. A set
unit is named by (die, region or die number, index). -/
structure Placement where
  cluster : Nat
  x0 : Nat
  y0 : Nat
  v  : Bool
  queue : Nat := 0
  sets : List (Bool × Nat × Nat) := []
  /-- A stage that is swapped out keeps its footprint (R116). -/
  swapped : Bool := false
  deriving DecidableEq, Repr

/-- Life of a graph handle (R66). -/
inductive Life where
  | free | loading | loaded | evicting
  deriving DecidableEq, Repr

/-- A graph handle of a partition (R66): the queue and sequence of the RESIDE or EVICT in hand, the image, the
configuration and its placements (R109, R110: each lies in the regions of one queue). -/
structure Graph where
  life   : Life := .free
  queue  : Nat := 0
  qseq   : BitVec 32 := 0
  /-- That packet waits for the task's end; a reset of its queue forgets it (R81). -/
  owed   : Bool := false
  addr   : Nat := 0
  size   : Nat := 0
  /-- Bytes of the image that a Load which waits for a page has read, by offset: each is read once (R348). -/
  kept   : Sparse Byte := []
  config : GraphConfig := {}
  places : List Placement := []
  /-- The manager's task for the handle waits for a fault to be resolved (R200, R348). -/
  parkedPage : Option Nat := none
  /-- Tokens of a swapped-out stage (the parked-token ring of R117). -/
  parkedTokens : List Flight := []
  /-- Stream bindings (R171) of a swapped-out stage: element, slot, tag. -/
  parkedStreams : List (Nat × Nat × Tag) := []
  /-- YIELD has fired: the stage's input may be treated as empty (R410). -/
  yielded : Bool := false
  /-- The stage's input has been empty for 1 µs (R117). -/
  idle : Bool := false
  deriving DecidableEq, Repr

/-! ### Tags and activations (R70, R71, R163) -/

/-- The allocator's record of a tag (R163): allocated, LINK, SUCC, HEAD and the owning activation's root tag. -/
structure TagInfo where
  alloc : Bool := false
  link  : Tag := 0
  succ  : Option Tag := none
  head  : Tag := 0
  root  : Option Tag := none
  deriving DecidableEq, Repr

/-- An activation (R71): the packet it came from, and what its completion record will carry (R73). -/
structure Activation where
  root    : Tag
  queue   : Nat
  qseq    : BitVec 32
  hdrSeq  : BitVec 32
  ring    : Nat
  irq     : Bool
  handle  : Nat
  discard : Word := 0
  deriving DecidableEq, Repr

/-! ### Queues (R54 to R82) -/

/-- A command packet that has been fetched (R61): its place in the queue's order and its bytes. -/
structure Packet where
  qseq   : BitVec 32 := 0
  hdrSeq : BitVec 32 := 0
  ring   : Nat := 0
  /-- Nesting level: 0 for a ring packet, k for one inside k indirect buffers (R67). -/
  level  : Nat := 0
  /-- Last contained packet of an indirect buffer: that IB's sequence completes when it is admitted (R63, R67). -/
  closes : Option (BitVec 32) := none
  /-- The ring's SEQ check failed (R58). -/
  badSeq : Bool := false
  bytes  : List Byte := []
  deriving DecidableEq, Repr

/-- An indirect buffer being fetched (R67): its nesting level, address of the next packet, packets left, index, and the
sequence of its IB packet, which completes when its last packet is admitted. -/
structure IbFrame where
  level  : Nat
  next   : Nat
  left   : Nat
  index  : Nat
  ib     : BitVec 32
  deriving DecidableEq, Repr

/-- RSTAT of a ring (R56). -/
inductive RStat where
  | active | parked | faulted
  deriving DecidableEq, Repr

/-- A command ring (R55, R56). -/
structure Ring where
  base  : Nat := 0
  rlog2 : Nat := 0
  pasid : Nat := 0
  host  : Bool := false
  rstat : RStat := .active
  rhead : BitVec 32 := 0
  prod  : BitVec 32 := 0
  doorbellErrors : Word := 0
  fetched : List Packet := []
  /-- Indirect buffers being read, innermost first (R67, R77). -/
  ibs    : List IbFrame := []
  /-- Page the ring is parked on (R77). -/
  parkedPage : Option Nat := none
  deriving DecidableEq, Repr

/-- A completion record before it is written (R73). -/
structure CplRec where
  qseq    : BitVec 32
  hdrSeq  : BitVec 32
  ring    : Nat
  type    : Byte
  fault   : Byte
  root    : Tag
  tt      : DWord
  discard : Word
  detail  : Word
  irq     : Bool
  deriving DecidableEq, Repr

/-- STATE of a queue (R80). -/
inductive QState where
  | idle | run | draining | saving | saved | resetting | error | parkedFault | linkLost | recovery
  deriving DecidableEq, Repr

/-- A logical queue (R78 to R81, R118, R119, R122). -/
structure Queue where
  enable : Bool := false
  prio   : BitVec 3 := 0
  nrings : Nat := 0
  state  : QState := .idle
  rung   : Nat := 0
  fault  : Byte := 0
  /-- DETAIL of the fault that took it to ERROR (R73, R79), and a fault that is shown as ERROR once its ladder ends. -/
  detail : Word := 0
  errorDue : Bool := false
  lastSeq : BitVec 32 := 0xFFFFFFFF#32
  cplBase : Nat := 0
  cplLog2 : Nat := 0
  cplPasid : Nat := 0
  cplHost : Bool := false
  cplVector : Nat := 0
  cplHead : BitVec 32 := 0
  cplTail : BitVec 32 := 0
  t1us   : Nat := 500
  t2us   : Nat := 100
  /-- The deadlines of the ladder it has entered (R122). -/
  t1lim  : Nat := 500
  t2lim  : Nat := 100
  noDrain : Bool := false
  rings  : Sparse Ring := []
  /-- The merge position (R59, R60, R81): the ring the round is at, the tied packets already taken of the run in hand
  there, and the runs broken so far. -/
  mergeAt : Nat := 0
  run    : Option Nat := none
  bundleBreaks : Nat := 0
  /-- Next queue sequence number (R59). -/
  nextSeq : BitVec 32 := 0
  /-- Packets in queue order, numbered and not yet admitted (R59). -/
  merged : List Packet := []
  /-- Admitted packets that have not completed, in order. -/
  inFlight : List Packet := []
  /-- Completions that wait to be written (R74, R79). -/
  held   : List CplRec := []
  /-- Sequence numbers of packets that ended without completing: LASTSEQ stays below them (R72, R82). -/
  failed : List (BitVec 32) := []
  /-- Deficit round-robin (R119): credit and charge, in µs. -/
  deficit : Nat := 0
  charge  : Nat := 0
  /-- Page the head packet's WAITV or WRITEV, and the completion ring, are parked on (R68, R79). -/
  vPage   : Option Nat := none
  cplPage : Option Nat := none
  /-- A completion write has failed for good (R79). -/
  cplFailed : Bool := false
  /-- Start of the running ladder rung and of RECOVERY, of the tag stall of the head packet (R70) and of a firing (R182), in
  trace time. -/
  rungAt  : DWord := 0
  stallAt : Option DWord := none
  fireStallAt : Option DWord := none
  /-- The element position, as DETAIL has it (R132), of the firing that stalls. -/
  fireStallPos : Word := 0
  /-- A context is saved at rung 2 (R124, R125), and whether the save waits for the link (R24) or a HOLD (R129). -/
  savedCtx : Bool := false
  holdSaved : Bool := false
  deriving DecidableEq, Repr

/-! ### Data rings and streams (R83 to R101) -/

/-- An element of a row (R96, R97): value, mask bit, mark, and whether it comes from a poisoned granule (R100). -/
structure PackElt where
  word : Word
  valid : Bool
  mark : Word
  poison : Bool := false
  deriving DecidableEq, Repr

/-- The packer's state (R96, R101, R426): row length, segments begun in the open row, its elements, and rows sent. The
fill is the number of elements; `fmt` is the format of the last sample. -/
structure Packer where
  rowLen : Nat
  fmt    : Fmt := .i32
  seg    : Nat := 0
  row    : List PackElt := []
  rows   : Nat := 0
  deriving DecidableEq, Repr

/-- A publication on its way to the location DRPUBADDR named (R90): the value, the address, and the space it lies in. -/
structure Publication where
  value : BitVec 32
  addr  : Nat
  host  : Bool
  pasid : Nat
  die   : Nat
  deriving DecidableEq, Repr

/-- A data ring (R84) with its open stream (R92). -/
structure DataRing where
  enable : Bool := false
  unit   : Nat := 0
  pubk   : Nat := 0
  rlog2  : Nat := 0
  host   : Bool := false
  pasid  : Nat := 0
  f32    : Bool := false
  marks  : Bool := false
  base   : Nat := 0
  rowLen : Nat := 0
  graph  : Nat := 0
  dent   : Nat := 0
  ment   : Nat := 0
  pubAddr : Nat := 0
  p      : BitVec 32 := 0
  state  : QState := .idle
  rung   : Nat := 0
  fault  : Byte := 0
  /-- DETAIL of the fault that took it to ERROR (R93). -/
  detail : Word := 0
  streams : Word := 0
  vector : Nat := 0
  irqEn  : Bool := false
  skip   : Word := 0
  prod   : BitVec 32 := 0
  fetch  : BitVec 32 := 0
  /-- Packets consumed, not yet published (R90). -/
  consumed : BitVec 32 := 0
  /-- Publications not yet written, oldest first, and the page that one waits for (R200). -/
  pubs   : List Publication := []
  pubPage : Option Nat := none
  /-- Doorbell writes that wait while the ingress unit holds for trace room (R150). -/
  bells  : List (BitVec 32) := []
  doorbellErrors : Word := 0
  /-- The packet at the fetch index once it is fetched, and whether it has delivered its samples and waits to be consumed. -/
  packet : Option (List Byte) := none
  delivered : Bool := false
  /-- Position inside a SPAN (R101). -/
  spanPos : Nat := 0
  /-- Elements taken of the sample in hand, and whether its packing has begun (R100). -/
  samplePos : Nat := 0
  tag    : Option Tag := none
  /-- The tag stall of its stream's opening, in trace time (R92). -/
  stallAt : Option DWord := none
  /-- The opening token waits for placement (R92). -/
  opening : Bool := false
  bound  : Option (Dest × Dest) := none
  packer : Option Packer := none
  /-- The tags of streams whose EOS has been sent: each completes when its tag is quiescent (R99). -/
  closings : List Tag := []
  /-- The open stream is to be closed once it is bound (R85). -/
  closeNext : Bool := false
  parkedPage : Option Nat := none
  /-- Saved until its own CMD resume (R24, R129). -/
  held   : Bool := false
  deriving DecidableEq, Repr

/-! ### Mailbox and trace ring (R75, R144) -/

/-- A message waiting in the mailbox reserve (R75): its 64 bytes, and whether it is a REMEASURE. -/
structure Message where
  bytes : List Byte
  remeasure : Bool
  /-- A reply completes this MBOX packet (queue, sequence) when written (R76). -/
  completes : Option (Nat × BitVec 32) := none
  deriving DecidableEq, Repr

/-- The outbound mailbox (R75). -/
structure Mailbox where
  base : Nat := 0
  log2 : Nat := 0
  pasid : Nat := 0
  host : Bool := false
  faulted : Bool := false
  vector : Nat := 0
  head : BitVec 32 := 0
  tail : BitVec 32 := 0
  lost : Word := 0
  parked : Option Nat := none
  reserve : List Message := []
  deriving DecidableEq, Repr

/-- A trace event (R138): stamp, context, die, clamp, lock, class, code, source and payload. -/
structure Event where
  tt     : DWord
  ctx    : Nat
  die    : Nat
  clamp  : Bool
  lock   : Bool
  cls    : Nat
  code   : Nat
  source : Nat
  payload : Word
  deriving DecidableEq, Repr

/-- A source filter entry TRSRCi (R144). -/
structure TrSrc where
  base : Nat := 0
  limit : Nat := 0
  die : Nat := 0
  anyDie : Bool := false
  en : Bool := false
  deriving DecidableEq, Repr

/-- A trace ring (R144, R149). -/
structure TraceRing where
  base : Nat := 0
  en   : Bool := false
  log2 : Nat := 0
  lossless : Bool := false
  sampk : Nat := 0
  faulted : Bool := false
  /-- What has forced it lossy (R150): the queues 0 to 3 of the partition whose ladder or stall did, and 4 the loss of the link. -/
  forcedBy : List Nat := []
  head : BitVec 32 := 0
  tail : BitVec 32 := 0
  cls  : BitVec 32 := 0x000F0000#32
  lost : Word := 0
  /-- Units of trace time the partition was trace-stalled (R144), and of these, by queue, in the ladder rung in hand (R150). -/
  stallUnits : Nat := 0
  rungStall : Sparse Nat := []
  src  : Sparse TrSrc := []
  /-- Events dropped since the last lost report (R148). -/
  unreported : Nat := 0
  stalled : Bool := false
  /-- The emitters that hold for room (R150), by 4096 × die + SOURCE, and the slots that the least of them needs. -/
  holders : List Nat := []
  need : Nat := 0
  deriving DecidableEq, Repr

/-! ### Engines -/

/-- Mode of a core-store bank (R187). -/
inductive BankMode where
  | cache | scratch | fifo
  deriving DecidableEq, Repr

/-- A 128 KiB bank of a core store (R187 to R190): its words, and its packets in FIFO mode. -/
structure Bank where
  mode : BankMode := .scratch
  words : Sparse Word := []
  entries : List Token := []
  /-- When its last entry was taken, in units since 3.3 V (R117). -/
  emptyAt : Nat := 0
  /-- Poisoned 64 B granules of the bank, by word index / 16 (R202). -/
  poison : List Nat := []
  deriving DecidableEq, Repr

/-- A weight plane (R248): its format (none while never loaded), its packets by 64 × column + packet, and poison. -/
structure Plane where
  fmt : Option Fmt := none
  packets : Sparse (Option Token) := []
  poison : Bool := false
  deriving DecidableEq, Repr

/-- A matrix core (R248): banks, planes, the tile by 128 × row + column, poisoned rows, and steering tokens. -/
structure Core where
  banks : Sparse Bank := []
  active : Plane := {}
  shadow : Plane := {}
  tile : Sparse Word := []
  poisonRows : List Nat := []
  /-- Steering tokens that wait for an MXDRS (R255). -/
  steer : List Token := []
  deriving DecidableEq, Repr

/-- An operator of a broker query (R277, R278). -/
structure BrOp where
  join : Bool := false
  pre : BitVec 8 := 0
  cost : Nat := 0
  target : Word := 0
  keyA : Nat := 0
  keyB : Nat := 0
  window : Nat := 0
  v : Word := 0
  d : Word := 0
  cm : Word := 0
  warm : Nat := 0
  deriving DecidableEq, Repr

/-- An entry of a join table (R284). -/
structure BrEntry where
  op : Nat
  sideB : Bool
  key : Word
  lanes : List Word
  mask : BitVec 8
  n : Nat
  seq : BitVec 24
  done : BitVec 8
  deriving DecidableEq, Repr

/-- A record outstanding at the broker (R276, R280): its token, admission number, arrival sequence, the BRIN it
derives from, the side and keys it was admitted with, and the operator it visits (none while it waits). -/
structure BrRec where
  tok : Token
  n : Nat
  seq : BitVec 24
  brin : Nat
  sideB : Bool
  keys : List Word
  done : BitVec 8 := 0
  visit : Option Nat := none
  output : Bool := false
  /-- A join output that waits at the limit of outstanding records (R284). -/
  waiting : Bool := false
  deriving DecidableEq, Repr

/-- A BRIN in progress (R280): exits, arrival sequence, fate of the record. -/
structure BrIn where
  cmd : Nat
  seq : BitVec 24
  exits : Nat := 0
  fate : Option Nat := none
  n : Nat := 0
  deriving DecidableEq, Repr

/-- A query slot of a broker (R276 to R284). -/
structure BrSlot where
  part : Nat
  cfg : Nat
  region : Nat
  req : BitVec 8
  measured : Bool
  e : Nat
  hlog2 : Nat
  exit : Word
  ops : List BrOp
  n : Nat := 0
  seq : BitVec 24 := 0
  exits : Word := 0
  drops : Word := 0
  pin : List Nat := []
  table : List BrEntry := []
  recs : List BrRec := []
  brins : List BrIn := []
  deriving DecidableEq, Repr

/-- An endpoint of a copy (R258, R260, R418): a record with coordinates, a run of scratch words, an egress stream input
of the region, or a slot that tokens of `w` lanes are sent to. -/
inductive CopyEnd where
  | record (idx : Nat) (c : List Nat) | scratch (word : Nat) | input (port : Nat) | stream (dest : Dest) (w : Nat)
  deriving DecidableEq, Repr

/-- A lane taken from a source stream: word, mask bit, format, AUX word, poison. -/
structure StreamLane where
  word : Word
  valid : Bool
  fmt : Fmt
  aux : Option Word
  poison : Bool
  deriving DecidableEq, Repr

/-- A place an access goes to: device physical memory or the host bus. -/
structure Place where
  host : Bool
  addr : Nat
  deriving DecidableEq, Repr

/-- A copy in progress (R258 to R262, R418): `ident` tells its writes apart, `tok` gives the tag, `left` the pieces still to be copied with the page each
waits for, `pos` the elements taken from a source stream, `buf` its lanes not yet sent, `sent` the packets sent. -/
structure Copy where
  ident : Nat := 0
  part : Nat
  queue : Nat
  cfg : Nat
  region : Nat
  /-- The region in which the command stood that named its template: its configuration's placement there gives positions. -/
  home : Nat
  src : CopyEnd
  dst : CopyEnd
  shape : List Nat
  tok : Token
  chan : Option (Nat × Nat × Nat × Nat) := none
  eos : Bool := false
  cmd : Option Nat := none
  hq : Option Nat := none
  left : List (Nat × Option Nat) := []
  pos : Nat := 0
  buf : List StreamLane := []
  sent : Nat := 0
  ended : Bool := false
  /-- Elements of the tile taken from poisoned granules, with the granule; a poisoned token of a source stream counts as one
  (R262). -/
  tainted : List (Nat × Granule) := []
  /-- Tokens taken from the source stream. -/
  taken : Nat := 0
  bytes : Nat := 0
  deriving DecidableEq, Repr

/-- A copy hardware queue (R258, R259): the armed template with its configuration and logical queue, the region of the CPARM that
armed it, whose placement gives the template's positions (R260, R261), and the triggers that wait. -/
structure HwQueue where
  armed : Option (Nat × Nat × Template) := none
  home  : Nat := 0
  triggers : List Token := []
  deriving DecidableEq, Repr

/-- A row on its way from MXDRP to its target tile (R254). -/
structure DrpRow where
  cmd : Nat
  core : Nat
  row : Nat
  vals : List Word
  poison : Bool
  deriving DecidableEq, Repr

/-- The engines of a cluster: tree slots and path registers by 64 × partition + number, sync FIFOs by
16 × partition + number (each token with the queue whose command pushed it), broker slots, hardware queues, TDU and copy
state. -/
structure Cluster where
  trees : Sparse (Option TreeSlot) := []
  paths : Sparse PathReg := []
  fifos : Sparse (List (Nat × Token)) := []
  broker : Sparse (Option BrSlot) := []
  hwq : Sparse HwQueue := []
  deriving DecidableEq, Repr

/-- A key set of the shuffle (R425): n and the four round keys. -/
structure KeySet where
  n : Nat
  k : List Word
  deriving DecidableEq, Repr

/-- The ingress unit of a die: key sets by 4 × partition + set, packers and SEGID counters by
65536 × partition + tag (R425 to R427). -/
structure Ingress where
  keys : Sparse (Option KeySet) := []
  packers : Sparse (Option Packer) := []
  segids : Sparse (Option Word) := []
  deriving DecidableEq, Repr

/-! ### Sets, requests, regions -/

/-- A pending arrival at a set (R179): the arriver's tag and where its completion goes. -/
structure Arrival where
  tag : Tag
  tok : Token
  d0 : List Dest
  deriving DecidableEq, Repr

/-- A membership-set unit (R178): members, arrivals of this episode, arrivals held for the next, and JOINs that
wait because it is full. -/
structure SetUnit where
  members : List Tag := []
  arrived : List Arrival := []
  heldNext : List Arrival := []
  joins : List Arrival := []
  deriving DecidableEq, Repr

/-- A line of a region's CACHE banks (R187): its 16 words, those that are dirty, those that an acquire has invalidated in it
(R212), its poison (R202), and the core and bank that hold it. -/
structure Line where
  words : List Word
  dirty : List Nat := []
  lost : List Nat := []
  poison : Bool := false
  core : Nat
  bank : Nat
  deriving DecidableEq, Repr

/-- Where a write on its way goes: memory, or a word of a cluster's scratch. -/
inductive Target where
  | mem (p : Place) | scratch (cluster core bank idx : Nat)
  deriving DecidableEq, Repr

/-- Writes on their way (R206, R214, R222): of an engine command or copy, or, from a `port`, of a store that the host port has
accepted. `whole` names a word of each granule that they cover whole, `poison` writes them poisoned (R202), `near` is the
region whose caches see them perform (R216), `released` that a release at CLU or DEV has made them performed there (R212),
`pages` the partition's pages whose translations they use, and `stale` that one of these has been invalidated (R201). -/
structure Posted where
  owner : Nat
  port : Bool := false
  part : Nat
  queue : Nat := 0
  region : Nat
  writes : List (Target × Word)
  whole : List Target := []
  poison : Bool := false
  near : Option Nat := none
  released : Bool := false
  pages : List Nat := []
  stale : Bool := false
  deriving DecidableEq, Repr

/-- A REL, ACQ or FENCE that waits on its action (R212): its scope, the owners of the host writes it waits for and the loads
that began before it, and its results; and the firing: its element, its slot by 16 × V + n, its configuration and its tag. -/
structure Order where
  rel : Bool
  acq : Bool
  scope : Nat
  part : Nat
  region : Nat
  writes : List Nat
  loads : List Nat
  results : List Flight
  el : Nat := 0
  slot : Nat := 0
  cfg : Nat := 0
  tag : Tag := 0
  deriving DecidableEq, Repr

/-- A memory request at a port (R392 to R395). `parked` names the page of a replayable fault, and `replay` one that it was
parked on (R200); `begun` holds the places of its lanes and of its scale once a lane has performed, and `early` what those
lanes read (R221); `stale` as for a write on its way. -/
structure MemReq where
  op : Nat
  el : Nat
  v : Bool := false
  slot : Nat := 0
  cfg : Nat
  region : Nat
  port : Nat
  a : Token
  bsel : Word
  p : Option Token := none
  hdr : Token
  d0 : List Dest := []
  ident : Nat := 0
  parked : Option Nat := none
  replay : Option Nat := none
  begun : Option (List (Nat × Option Place) × Option Place) := none
  early : Sparse (Word × Bool) := []
  stale : Bool := false
  deriving DecidableEq, Repr

/-- A stream-cache window (R196): its die, the partition and the range it covers, the bytes left of a PREFG's length, and
the hardware queue, by 64 × cluster + number, of the template that declared it. -/
structure Window where
  die : Nat
  part : Nat
  base : Nat
  bytes : Nat
  left : Nat
  hq : Option Nat := none
  deriving DecidableEq, Repr

/-- Latency registers of a memory port (R198). -/
structure LatBlock where
  max : Word := 0
  hist : Sparse Word := []
  deriving DecidableEq, Repr

/-- STATE of a region (R107). -/
inductive RegState where
  | free | loading | run | draining | saving | restoring | clearing
  deriving DecidableEq, Repr

/-- A context taken out of a region (R123 to R125): what its elements hold besides their tables, the spill ring, streams,
matrix cores, hardware queues, memory requests, orders that wait and tokens on their way; the placements that begin there, each with its
handle and the contents of its set units; and, with the last region of a cluster, the queue's sync FIFO tokens and path
registers there. -/
structure SavedRegion where
  part : Nat
  queue : Nat
  region : Nat
  elems : Sparse Element := []
  cores : Sparse Core := []
  spill : List (Nat × QTok) := []
  streams : Sparse (List Token) := []
  hwq : Sparse HwQueue := []
  net : List Flight := []
  reqs : List MemReq := []
  orders : List Order := []
  places : List (Nat × Placement × List SetUnit) := []
  fifos : Sparse (List (Nat × Token)) := []
  paths : Sparse PathReg := []
  /-- The region has been handed over since: the banks of the cores are what it held then (R109, R203). -/
  cleared : Bool := false
  deriving DecidableEq, Repr

/-- A task of a region's manager that takes more than one step (R105): a stage swap, which takes out one stage of a set and
brings in another, and the load of a graph that waits for a page. -/
inductive ManagerTask where
  | swap (n outgoing incoming : Nat)
  | load (n h : Nat)
  deriving DecidableEq, Repr

/-- A region (R107): its holder, its set units, spill ring (4 × element + queue, token), copy stream inputs,
port latencies, and the lines of its CACHE banks by 2 × granule + 1 for host memory (R187).
`shadow` is the context in its shadow banks, `loaded` one that has come back from them in the exchange that saved another
(R126) and waits for its queue's restore. -/
structure Region where
  avail : Bool := false
  owner : Nat := 0
  queue : Nat := 0
  /-- The partition whose contents it holds: its holder, or the last one (R109). -/
  last : Nat := 0
  state : RegState := .free
  time : Word := 0
  shadow : Option SavedRegion := none
  loaded : Option SavedRegion := none
  /-- The task its manager has begun and not ended (R105). -/
  task  : Option ManagerTask := none
  spill : List (Nat × QTok) := []
  streams : Sparse (List Token) := []
  lat : Sparse LatBlock := []
  lines : Sparse Line := []
  sets : Sparse SetUnit := []
  /-- Stores whose acknowledgements have been delivered to its elements and that no release has covered since (R212). -/
  acked : List Ack := []
  deriving DecidableEq, Repr

/-! ### Partitions -/

/-- A partition (R54, R70, R75, R106, R144, R177, R199). -/
structure Part where
  en : Bool := false
  rmax : Nat := 0
  dies : BitVec 2 := 3
  hold : Bool := false
  ptEn : Bool := false
  ptRoot : Nat := 0
  tagNext : Tag := 1
  tags : Sparse TagInfo := []
  /-- When a tag was last freed (R70), and when the partition last made progress (R128), in trace time. -/
  freedAt : DWord := 0
  progressAt : DWord := 0
  acts : List Activation := []
  graphs : Sparse Graph := []
  queues : Sparse Queue := []
  rings : Sparse DataRing := []
  mbx : Mailbox := {}
  trace : TraceRing := {}
  elcsel : DWord := 0
  elcval : DWord := 0
  saveArea : List SavedRegion := []
  /-- Core-store banks written to the save area at a hand-over with no saved context of the region (R109), by core. -/
  bankArea : Sparse (Sparse Bank) := []
  deriving DecidableEq, Repr

/-! ### What moves next -/

/-- Where a firing happens: an element, a version, a slot and a tag (R158). -/
structure Site where
  el : Nat
  v : Bool
  slot : Nat
  tag : Tag
  deriving DecidableEq, Repr

/-- What the outside world does to the device beside the rows of the opcode table: the host sets a BAR2's size (log2 of
its bytes, R13) and reaches memory through a VF's BAR2 or a register through its BAR0 (R13, R36, R54); a peer answers
with an error (R16), and the driver names the window of a peer's BAR2 (R16); expanders are cabled to the card or not (R31); an
expander returns data marked as poisoned (R18); an SRAM, an element's local data or a spill ring loses a word (R175,
R202); a stack or a cluster of FAILUNIT's table (R33) has been trained and runs at its rate (R28); and the card meets its
thermal limit at a clock (R142). Granules are numbered by address / 64. -/
inductive Outside where
  | resizeBar2 (fn log2 : Nat)
  | vfBar2 (n off : Nat) (write : Bool) (data : List Byte)
  | vfBar0 (n off : Nat) (write : Bool) (v : BitVec 64)
  | peerError (granules : List Nat) (failing : Bool)
  | expanderPoison (granules : List Nat)
  | sramError (core bank granule : Nat)
  | localError (el granule : Nat)
  | peerWindow (base bytes : Nat)
  | cxlCabled (on : Bool)
  | spillError (region place : Nat)
  | unitTrained (unit : Nat)
  | thermalLimit (mhz : Nat)
  deriving DecidableEq, Repr

/-- What the device does by itself beside the rows of the opcode table: a line of a region's caches is written back or
dropped (R187, R205); a write on its way performs, or a word of it (R206, R214, R222); a lane of a request performs early
(R221), or a piece of a copy (R222); an ordering action is done (R212); a queue's or a data ring's reset ends (R81, R85); a data ring's publication
is tried again (R90) or a doorbell that waited is taken (R150); a region has been cleared (R107, R109); PARTCFG's limits are
enforced (R106, R108); and an instruction of the scheduler graph fires in the FGE (R102). -/
inductive Inner where
  | writeBack (region granule : Nat)
  | dropLine (region granule : Nat)
  | posted (k : Nat)
  | postedWord (k j : Nat)
  | lane (k j : Nat)
  | piece (k p : Nat)
  | ordered (k : Nat)
  | resetDone (n q : Nat)
  | ringResetDone (n d : Nat)
  | publish (n d : Nat)
  | bell (n d : Nat)
  | cleared (r : Nat)
  | enforce (n : Nat)
  | fgeFire
  | divided (el : Nat)
  deriving DecidableEq, Repr

/-- What moves next: an operation or event of the table, with the queue or data ring (partition and number) it has
in hand; a firing at a site; a doing of the outside world, or of the device itself, that has no row; or the passing of time in units of trace time. -/
inductive Item where
  | event (hand : Nat × Nat) (i : Instr) | fire (s : Site) | outside (o : Outside) | inner (i : Inner) | elapse (units : Nat)
  deriving DecidableEq, Repr

/-! ### Device -/

/-- Stage of the device (R28). -/
inductive Stage where
  | off | booting | s0 | s1 | s2 | s3
  deriving DecidableEq, Repr

/-- STATE of CASTLESTAT (R44). -/
inductive CastleState where
  | idle | verify | staged | castlePoint | probation | committed | fallback | refused
  deriving DecidableEq, Repr

/-- An entry of the measurement log (R38). -/
structure LogEntry where
  seq : Nat
  kind : Nat
  body : Body
  schema : Nat
  tt : DWord
  version : BitVec 32
  measurement : BitVec 256
  deriving DecidableEq, Repr

/-- A fault token on its way to the FGE (R103, R130, R132). -/
structure FaultTok where
  code : Byte
  part : Nat
  tag : Option Tag
  detail : Word := 0
  region : Nat := 0
  /-- Queue of a faulting packet or ring, for the packet faults. -/
  queue : Option Nat := none
  /-- Data ring that faults. -/
  ring : Option Nat := none
  /-- The causal floor of a token that crosses from the queenside (R140). -/
  floor : DWord := 0
  deriving DecidableEq, Repr

/-- A sideband reply or report (R19); `keyLow` is the event of R37. -/
inductive Reply where
  | sensor (s : Sensor) (v : Word) | failure (unit : Byte) | attest (report : List Byte) | keyExhausted
  | noAux54 | flashFailure (item : FlashItem) | keyLow | untrained (gts width : Nat) | castleRefused (reason : Nat)
  | wear (gen : DWord) (entries : Sparse (BitVec 128))
  deriving DecidableEq, Repr

/-- An entry of the FGE's matching store (R102). -/
structure FgeEntry where
  slot : Nat
  tag  : Nat
  word : DWord
  deriving DecidableEq, Repr

/-- A result of a region's manager that the FGE has not accepted yet (R103): a region saved or cleared, a load that has ended, well
or with the DETAIL of its failure, an EVICT's that is done. -/
inductive ManagerResult where
  | saved (r : Nat) | cleared (r : Nat) | loaded (n h : Nat) (c : GraphConfig) | failed (n h detail : Nat) | evicted (n h : Nat)
  deriving DecidableEq, Repr

/-- The firmware graph engine (R102, R103): its matching store of up to 512 entries, whose contents are the scheduler graph's own, the
quiescence FIFOs of the dies, each entry a die, a partition and a root tag, and the managers' results that it has not accepted. -/
structure Fge where
  store : List FgeEntry := []
  results : List ManagerResult := []
  quiet : List (Nat × Nat × Tag) := []
  deriving DecidableEq, Repr

/-- A timer of the FGE (R104): of a queue's T1, T2, quantum or tag stall, of a data ring's tag stall, or of a partition's spill
watchdog. -/
inductive Timer where
  | t1 (n q : Nat) | t2 (n q : Nat) | quantum (n q : Nat) | headStall (n q : Nat) | fireStall (n q : Nat)
  | ringStall (n d : Nat) | spill (n : Nat)
  deriving DecidableEq, Repr

/-- A state record or checkpoint of the scheduler (R47, R48, R50): the private state it holds, which is each queue's
deficit and charge and the queue each level's round last served; and what R47 has captured beside it, the FGE's matching
store, the time each timer has left and the queued faults, which the hardware keeps and no import overwrites. -/
structure FwRecord where
  credits : List (Nat × Nat × Nat × Nat) := []
  rounds : Sparse Nat := []
  store : List FgeEntry := []
  timers : List (Timer × Nat) := []
  faults : List FaultTok := []
  deriving DecidableEq, Repr

/-- Where STAGED puts a new image beside the old one (R46): the FGE's inactive configuration version, a region manager's
second code bank, an engine's standby control store, the second half of the controller's SRAM. -/
inductive FwStore where
  | fgeInactive | managerBank (r : Nat) | engineStandby (e : Nat) | controllerHalf
  deriving DecidableEq, Repr

/-- Castling (R42 to R51): status, the image in hand, the image in control of each body, the state record and the latest
checkpoint, engines that have swapped, and the flash marker and minimum versions. -/
structure Castle where
  state : CastleState := .idle
  body : Body := .engine
  reason : Nat := 0
  heartbeats : Nat := 0
  image : Option ImageFacts := none
  /-- VERIFY has passed the image (R45). -/
  verified : Bool := false
  /-- When the import was complete and when the last heartbeat came, in trace time (R50). -/
  importAt : DWord := 0
  beatAt : DWord := 0
  current : List (Body × ImageFacts) := []
  committed : List (Body × ImageFacts) := []
  /-- What stands beside the image in control (R46). -/
  stores : List (FwStore × ImageFacts) := []
  record : Option FwRecord := none
  checkpoint : Option FwRecord := none
  swapped : List Nat := []
  /-- Engines that still run the new image after a fall-back and swap back at their next boundary (R51). -/
  back : List Nat := []
  /-- The engine that stalls for its swap (R47). -/
  stall : Option Nat := none
  /-- When the pause began, in trace time (R47, R53). -/
  pauseAt : DWord := 0
  /-- What is latched until the pause ends, with the trace time it came at (R49), and replies that wait for it. -/
  latched : List (Item × DWord) := []
  replies : List Reply := []
  minSecurity : List (Body × Nat) := []
  deriving DecidableEq, Repr

/-- The firmware staging window (R43). -/
structure Staging where
  body : BitVec 2 := 0
  size : BitVec 32 := 0
  off : BitVec 32 := 0
  len : BitVec 24 := 0
  push : Bool := false
  state : Nat := 0
  err : Nat := 0
  received : BitVec 32 := 0
  /-- Bytes of the image in hand, from FWSSIZE at OPEN. -/
  total : BitVec 32 := 0
  /-- The image has been handed to VERIFY. -/
  requested : Bool := false
  window : Sparse Byte := []
  image : Sparse Byte := []
  deriving DecidableEq, Repr

/-- Trace time (R134 to R137). -/
structure Clock where
  tt : DWord := 0
  era : BitVec 8 := 0
  stepped : Bool := false
  lock : Bool := false
  holdover : Bool := false
  skew : BitVec 16 := 0
  ppsOfs : BitVec 32 := 0
  /-- Time of day delivered for the next edge (R20). -/
  tod : Option Nat := none
  /-- Edges in the band running (R135). -/
  inBand : Nat := 0
  /-- Rejected edges running: phase in ns and second (R135). -/
  rejects : List (Int × Nat) := []
  /-- When the last edge that was not rejected came (R20, R135); none before the first. -/
  lastEdge : Option DWord := none
  /-- When the edge in hand came, where it was latched (R49). -/
  edgeAt : Option DWord := none
  /-- Units TT is still to be slewed by, and units counted towards the next one (R135). -/
  owed : Int := 0
  slewAcc : Nat := 0
  deriving DecidableEq, Repr

/-- A page that parked accesses wait on (R200), by partition and page: the address of the not-present entry, whether
the fault has been resolved, and whether a replay has already been tried. A page of a host address is numbered
2^52 × (PASID + 1) + page, above every page of a partition. -/
structure PageFault where
  part : Nat
  page : Nat
  /-- Die of the memory management complex that met it (R7). -/
  die : Nat := 0
  pteAddr : Nat := 0
  /-- The entry lies in host memory (R199). -/
  pteHost : Bool := false
  resolved : Bool := false
  again : Bool := false
  deriving DecidableEq, Repr

/-- The device outside its partitions. -/
structure Device where
  aux33 : Bool := false
  aux54 : Bool := false
  perst : Bool := true
  stage : Stage := .off
  stalled : Bool := false
  featPend : Bool := true
  failUnit : Byte := 0
  /-- Time since 3.3 V came, in units of 1/16 ns, and what it was when PERST# was deasserted (R28). -/
  uptime : Nat := 0
  perstAt : Nat := 0
  /-- Units of FAILUNIT's table that are trained, that are being trained once more, and that have failed again (R28, R31). -/
  trained : List Nat := []
  retried : List Nat := []
  failed : List Nat := []
  devFeat : BitVec 32 := 0
  drvFeat : BitVec 32 := 0
  featAct : BitVec 32 := 0
  bar2base : DWord := 0
  bar2log2 : Nat := 39
  /-- Sizes of the VFs' BAR2s (R13), by partition. -/
  vfBar2 : Sparse Nat := []
  clockMHz : Nat := 600
  capW : Nat := 1800
  recoveryS : Nat := 60
  t1def : Nat := 500
  t2def : Nat := 100
  linkUp : Bool := false
  linkGts : Nat := 0
  linkWidth : Nat := 0
  orderlyDown : Bool := false
  /-- Expanders are attached to the CXL port (R17, R31). -/
  cxlCabled : Bool := false
  cxlGts : Nat := 0
  cxlWidth : Nat := 0
  cxlMapped : Bool := false
  expanders : List Expander := []
  lostRanges : List Expander := []
  /-- The BAR2 windows of peers, base and bytes by host bus address, that the driver has mapped (R16). -/
  peers : List (Nat × Nat) := []
  /-- Writes dropped to a lost expander (R18). -/
  tier2Drops : Nat := 0
  bar2Unmapped : Nat := 0
  d2dRetries : Nat := 0
  d2dFlits : Nat := 0
  wearGen : DWord := 0
  wear : Sparse (BitVec 128) := []
  /-- The page that an update in progress writes (R41), and when the last one began (R40). -/
  wearNext : Option (Sparse (BitVec 128)) := none
  wearAt : Option Nat := none
  xmssIndex : Nat := 0
  log : List LogEntry := []
  chain : BitVec 256 := 0
  castle : Castle := {}
  staging : Staging := {}
  clk : Clock := {}
  trace : TraceRing := {}
  /-- Previous stamp of each emitter (R139), by 4096 × die + SOURCE. -/
  stamps : Sparse DWord := []
  tlbinv : DWord := 0
  /-- The queue number g that each priority level's round last served (R119). -/
  rounds : Sparse Nat := []
  /-- Trace time up to which region time has been charged (R119). -/
  chargedAt : DWord := 0
  /-- Stream-cache windows (R196). -/
  windows : List Window := []
  /-- Declarations that ran uncached (R196). -/
  uncached : Nat := 0
  /-- MSI-X messages signalled, newest last: function (0 PF) and vector. -/
  msix : List (Nat × Nat) := []
  /-- MSI-X messages held while the link is lost (R25), with the queue each is for. -/
  msixHeld : List ((Nat × Nat) × Option (Nat × Nat)) := []
  sideband : List Reply := []
  /-- Data of the last host read (R15, R23). -/
  hostRead : List Byte := []
  deriving DecidableEq, Repr

/-! ### The machine -/

/-- The machine. -/
structure State where
  /-- What happens next, in order: the outside world's doings and any internal step named explicitly. -/
  agenda : List Item := []
  /-- The site of the firing in hand. -/
  focus : Option Site := none
  /-- The queue or data ring in hand: partition and number. -/
  hand  : Nat × Nat := (0, 0)
  dev : Device := {}
  parts : Sparse Part := []
  regions : Sparse Region := []
  elems : Sparse Element := []
  cores : Sparse Core := []
  clusters : Sparse Cluster := []
  ingress : Sparse Ingress := []
  /-- Set units of the dies, by 256 × die + index (R178). -/
  dieSets : Sparse SetUnit := []
  /-- Device memory, physical (R197): HBM4E and the second tier, byte by byte. -/
  mem : List Host.Cell := []
  /-- Host memory and peers, by host bus address (R16, R201). -/
  hostMem : List Host.Cell := []
  /-- Poisoned 64 B granules of device memory and of host memory, by address / 64 (R202). -/
  poison : List Nat := []
  hostPoison : List Nat := []
  /-- Cached translations of the two memory management complexes (R7, R200): 2^51 × die + 2^45 × partition + page to the
  entry's word and its level. -/
  tlb : Sparse (Option (DWord × Nat)) := []
  /-- The host link's translation cache (R201), by page. -/
  ats : Sparse (Option AtsAnswer) := []
  /-- ATS requests outstanding, by page. -/
  atsPending : List Nat := []
  pageFaults : List PageFault := []
  /-- Tokens and commands in the network. -/
  net : List Flight := []
  reqs : List MemReq := []
  cmds : List Cmd := []
  copies : List Copy := []
  drpRows : List DrpRow := []
  posted : List Posted := []
  orders : List Order := []
  nextIdent : Nat := 1
  fge : Fge := {}
  /-- Faults waiting for the FGE (R103). -/
  faults : List FaultTok := []
  /-- Trace events waiting for the ring writer (R148). -/
  traceOut : List Event := []
  /-- The MODEL's own counter for free values (notes/assumptions/4). -/
  moment : Nat := 0
  /-- The MODEL's own record of how long each of the device's doings has waited, in steps (notes/assumptions/22). -/
  ages : List (Item × Nat) := []
  deriving DecidableEq, Repr

/-- Why the machine stops with a fault. No meaning of this model stops the machine: every fault the manual
describes is taken as it says (R130). -/
inductive Fault where
  /-- Raised by `step` when the word at the site in hand is not a valid instruction: the loader lets no such word
  reach an element (R335). Safe: the hardware has no such state. -/
  | badWord
  deriving DecidableEq, Repr

/-- Why an instruction is refused. -/
inductive Refusal where
  /-- Raised by an arm of `exec` for an instruction that has no meaning yet. Safe. -/
  | notModelled (mnemonic : String)
  deriving DecidableEq, Repr

/-- The machine right after reset: unpowered, every register at the manual's reset value or, where it gives none,
at the value notes/assumptions/2 names; memory with nothing listed. -/
def State.reset : State := {}

end Sys2Proof.Machine
end

