-- ==== Sys2Proof/Machine/Access.lean ====
section
/-! DEFINITION. Reading and changing the parts of the state: partitions, queues, graphs, data rings, regions,
elements, cores and clusters, and the geometry that names them (R7, R112, R154). -/

namespace Sys2Proof.Machine

def partOf (s : State) (n : Nat) : Part := lookup {} s.parts n
def setPart (s : State) (n : Nat) (p : Part) : State := { s with parts := store s.parts n p }
def modPart (s : State) (n : Nat) (f : Part → Part) : State := setPart s n (f (partOf s n))

def queueOf (s : State) (n q : Nat) : Queue := lookup {} (partOf s n).queues q
def modQueue (s : State) (n q : Nat) (f : Queue → Queue) : State :=
  modPart s n fun p => { p with queues := store p.queues q (f (lookup {} p.queues q)) }

def ringOf (s : State) (n q i : Nat) : Ring := lookup {} (queueOf s n q).rings i
def modRing (s : State) (n q i : Nat) (f : Ring → Ring) : State :=
  modQueue s n q fun u => { u with rings := store u.rings i (f (lookup {} u.rings i)) }

def dringOf (s : State) (n d : Nat) : DataRing := lookup {} (partOf s n).rings d
def modDring (s : State) (n d : Nat) (f : DataRing → DataRing) : State :=
  modPart s n fun p => { p with rings := store p.rings d (f (lookup {} p.rings d)) }

def graphOf (s : State) (n h : Nat) : Graph := lookup {} (partOf s n).graphs h
def modGraph (s : State) (n h : Nat) (f : Graph → Graph) : State :=
  modPart s n fun p => { p with graphs := store p.graphs h (f (lookup {} p.graphs h)) }

/-- A configuration's number: partition and handle. -/
def cfgOf (n h : Nat) : Nat := n * 256 + h
def cfgPart (c : Nat) : Nat := c / 256
def cfgHandle (c : Nat) : Nat := c % 256
def graphAt (s : State) (c : Nat) : Graph := graphOf s (cfgPart c) (cfgHandle c)
def modGraphAt (s : State) (c : Nat) (f : Graph → Graph) : State := modGraph s (cfgPart c) (cfgHandle c) f

def regionOf (s : State) (r : Nat) : Region := lookup {} s.regions r
def modRegion (s : State) (r : Nat) (f : Region → Region) : State :=
  { s with regions := store s.regions r (f (regionOf s r)) }

def elemOf (s : State) (e : Nat) : Element := lookup {} s.elems e
def setElem (s : State) (e : Nat) (x : Element) : State := { s with elems := store s.elems e x }
def modElem (s : State) (e : Nat) (f : Element → Element) : State := setElem s e (f (elemOf s e))

def coreOf (s : State) (c : Nat) : Core := lookup {} s.cores c
def modCore (s : State) (c : Nat) (f : Core → Core) : State := { s with cores := store s.cores c (f (coreOf s c)) }

def clusterOf (s : State) (c : Nat) : Cluster := lookup {} s.clusters c
def modCluster (s : State) (c : Nat) (f : Cluster → Cluster) : State :=
  { s with clusters := store s.clusters c (f (clusterOf s c)) }

def ingressOf (s : State) (d : Nat) : Ingress := lookup {} s.ingress d
def modIngress (s : State) (d : Nat) (f : Ingress → Ingress) : State :=
  { s with ingress := store s.ingress d (f (ingressOf s d)) }

def modDev (s : State) (f : Device → Device) : State := { s with dev := f s.dev }

/-! ### Geometry -/

/-- The element at (x, y) of a cluster's grid (R154). -/
def elemAt (cl x y : Nat) : Nat := cl * 512 + y * 32 + x
def elemCluster (e : Nat) : Nat := e / 512
def elemY (e : Nat) : Nat := e % 512 / 32
def elemX (e : Nat) : Nat := e % 32

/-- The region that covers an element: region k mod 4 of a cluster covers 16 columns and 8 rows. -/
def elemRegion (e : Nat) : Nat := 4 * elemCluster e + elemY e / 8 * 2 + elemX e / 16

/-- The die of a cluster and of a region: clusters 0 to 2 are kingside (R7). -/
def clusterDie (cl : Nat) : Nat := cl / 3
def regionDie (r : Nat) : Nat := r / 12
def elemDie (e : Nat) : Nat := clusterDie (elemCluster e)

/-- The core behind port `p` of region `r` (R112, R184): its number within the cluster. -/
def portCore (r p : Nat) : Nat := 6 * (r % 4) + p

/-- A core's number in the device. -/
def coreId (cl c : Nat) : Nat := cl * 24 + c

/-- The region a core belongs to. -/
def coreRegion (cl c : Nat) : Nat := 4 * cl + c / 6

/-- The partition that holds a region; 0 when none does. -/
def holder (s : State) (r : Nat) : Nat := (regionOf s r).owner

/-- Regions of the device in ascending order. -/
def allRegions : List Nat := List.range 24

/-- The regions a queue holds. -/
def regionsOf (s : State) (n q : Nat) : List Nat :=
  allRegions.filter fun r => (regionOf s r).owner == n && (regionOf s r).queue == q && n != 0

/-- The regions a partition holds. -/
def heldBy (s : State) (n : Nat) : List Nat := allRegions.filter fun r => (regionOf s r).owner == n && n != 0

/-- Table key of slot, literal or attribute `n` of version `v`, and of a route entry (R154). -/
def key16 (v : Bool) (n : Nat) : Nat := (if v then 16 else 0) + n
def key64 (v : Bool) (n : Nat) : Nat := (if v then 64 else 0) + n

/-- The format of a code (R6). -/
def fmtOf : Nat → Fmt
  | 0 => .i32 | 1 => .f32 | 2 => .bf16 | 3 => .e4m3 | 4 => .e5m2 | 5 => .e2m1 | 6 => .ai8 | _ => .ai4

/-- The code of a format (R6). -/
def fmtCode : Fmt → Nat
  | .i32 => 0 | .f32 => 1 | .bf16 => 2 | .e4m3 => 3 | .e5m2 => 4 | .e2m1 => 5 | .ai8 => 6 | .ai4 => 7

/-! ### Placements (R110) -/

/-- Whether a placement of a configuration covers an element. -/
def coversElem (g : GraphConfig) (p : Placement) (el : Nat) : Bool :=
  elemCluster el == p.cluster && p.x0 ≤ elemX el && elemX el < p.x0 + g.w && p.y0 ≤ elemY el && elemY el < p.y0 + g.h

/-- The regions a footprint lies in. -/
def regionsUnder (g : GraphConfig) (p : Placement) : List Nat :=
  [0, 1, 2, 3].filterMap fun k =>
    let x := 16 * (k % 2)
    let y := 8 * (k / 2)
    if p.x0 < x + 16 && x < p.x0 + g.w && p.y0 < y + 8 && y < p.y0 + g.h then some (4 * p.cluster + k) else none

/-- The placement of a configuration that covers an element. -/
def placementAt (s : State) (c el : Nat) : Option Placement :=
  let g := graphAt s c
  g.places.find? fun p => coversElem g.config p el

/-- The placement of a configuration that lies in a region. -/
def placementIn (s : State) (c r : Nat) : Option Placement :=
  let g := graphAt s c
  g.places.find? fun p => (regionsUnder g.config p).contains r

/-- The scheduler is paused by its own castling (R47, R49). -/
def fgePaused (s : State) : Bool := s.dev.castle.state == .castlePoint && s.dev.castle.body == .scheduler

/-- The management controller is paused by its own castling (R47, R49). -/
def controllerPaused (s : State) : Bool := s.dev.castle.state == .castlePoint && s.dev.castle.body == .controller

/-- An engine by its number among the 170 that have a control store (R47): 144 matrix cores, the four engines of each
cluster that its ports 6 to 9 reach, and the two ingress units. -/
def engineNumber (region port : Nat) : Nat :=
  if port < 6 then 24 * (region / 4) + 6 * (region % 4) + port
  else if port < 10 then 144 + 4 * (region / 4) + (port - 6)
  else 168 + region / 12

/-- An engine stalls for the swap of its control store (R47). -/
def engineStalls (s : State) (region port : Nat) : Bool := s.dev.castle.stall == some (engineNumber region port)

/-- A FEATACT bit (R34). -/
def featOn (s : State) (k : Nat) : Bool := s.dev.featAct.getLsbD k

/-- A fresh number for commands in flight. -/
def fresh (s : State) : Nat × State := (s.nextIdent, { s with nextIdent := s.nextIdent + 1 })

/-- The next moment: what free values are taken at (notes/assumptions/4). -/
def nextMoment (s : State) : Nat × State := (s.moment, { s with moment := s.moment + 1 })

end Sys2Proof.Machine
end

