-- ==== Sys2Proof/Machine/Memory.lean ====
section
/-! DEFINITION. Device and host memory (R16, R197, R201, R202): bytes in canonical form, the physical map, poison by
64 B granule, and translation (R199 to R201). An unlisted byte reads as 0 (notes/assumptions/3). -/

namespace Sys2Proof.Machine

/-- What an unlisted byte of memory reads as. -/
def blankByte : Byte := 0

/-- The byte at an address. -/
def readByte (m : List Host.Cell) (a : Nat) : Byte := lookup blankByte m a

/-- The memory with a byte written, in canonical form. -/
def writeByte (m : List Host.Cell) (a : Nat) (b : Byte) : List Host.Cell :=
  if b = blankByte then erase m a else store m a b

/-- Canonical form: addresses rise strictly and no listed byte is what an unlisted one reads as. -/
def Memory.wf (m : List Host.Cell) : Bool := rising m && m.all fun c => c.2 != blankByte

/-- `n` bytes from address `a`. -/
def readBytes (m : List Host.Cell) (a : Nat) : Nat → List Byte
  | 0 => []
  | n + 1 => readByte m a :: readBytes m (a + 1) n

/-- Bytes written from address `a` up. -/
def writeBytes (m : List Host.Cell) (a : Nat) : List Byte → List Host.Cell
  | [] => m
  | b :: bs => writeBytes (writeByte m a b) (a + 1) bs

/-! ### Places and the physical map -/

/-- Whether an expander backs an address (R17): HDM decoding interleaves its range's expanders at 4 KiB. -/
def covers (x : Expander) (a : Nat) : Bool :=
  x.base ≤ a && a < x.base + x.bytes * x.ways && (a - x.base) / 4096 % x.ways == x.way

/-- The stack of an HBM4E address serves (R28, R29, R197): stacks 0 and 4 from the start, every stack from S2 on. -/
def stackServes (s : State) (a : Nat) : Bool :=
  a < 0x8000000000 && (a / 2 ^ 36 % 4 == 0 || s.dev.stage == .s2 || s.dev.stage == .s3)

/-- The second tier has memory at an address: an expander backs it, or backed it before it was lost (R17, R18). -/
def secondTier (s : State) (a : Nat) : Bool :=
  0x10000000000 ≤ a && a < 0x50000000000 &&
    ((s.dev.cxlMapped && s.dev.expanders.any (covers · a)) || s.dev.lostRanges.any (covers · a))

/-- Memory that the host finds at a physical address (R15, R197). -/
def present (s : State) (a : Nat) : Bool := stackServes s a || secondTier s a

/-- Memory that the device uses at a physical address: the second tier only while FEATACT.TIER2 is 1 (R36). -/
def mapped (s : State) (a : Nat) : Bool := stackServes s a || (s.dev.featAct.getLsbD 8 && secondTier s a)

/-- A lost expander backed the address (R18). -/
def lostAt (s : State) (a : Nat) : Bool := s.dev.lostRanges.any (covers · a)

/-- The memory of a place. -/
def memOf (s : State) (host : Bool) : List Host.Cell := if host then s.hostMem else s.mem

/-- Whether a place's granule is poisoned (R202). -/
def poisoned (s : State) (p : Place) : Bool :=
  if p.host then s.hostPoison.contains (p.addr / 64) else s.poison.contains (p.addr / 64) || lostAt s p.addr

/-- Bytes read at a place. -/
def load (s : State) (p : Place) (n : Nat) : List Byte := readBytes (memOf s p.host) p.addr n

/-- A word read at a place. -/
def loadWord (s : State) (p : Place) : Word := BitVec.ofNat 32 (leNat (load s p 4))

/-- A range poisoned or cleaned, by granule. -/
def setPoison (g : List Nat) (k : Nat) (on : Bool) : List Nat :=
  if on then (if g.contains k then g else k :: g) else g.filter (· != k)

/-- The granules that `n` bytes from `a` cover whole. -/
def wholeGranules (a n : Nat) : List Nat :=
  let first := (a + 63) / 64
  let last := (a + n) / 64
  (List.range (last - first)).map (first + ·)

/-- The state with bytes stored at a place. A store that covers a whole granule clears its poison (R202); a store to a
lost expander's range is dropped and counted (R18). -/
def save (s : State) (p : Place) (bs : List Byte) : State :=
  if p.host then
    { s with hostMem := writeBytes s.hostMem p.addr bs
             hostPoison := (wholeGranules p.addr bs.length).foldl (setPoison · · false) s.hostPoison }
  else if lostAt s p.addr then modDev s fun d => { d with tier2Drops := d.tier2Drops + 1 }
  else
    { s with mem := writeBytes s.mem p.addr bs
             poison := (wholeGranules p.addr bs.length).foldl (setPoison · · false) s.poison }

/-- The state with a word stored. -/
def saveWord (s : State) (p : Place) (w : Word) : State := save s p (leBytes 4 w.toNat)

/-- The state with a place's granule poisoned. -/
def poisonAt (s : State) (p : Place) : State :=
  if p.host then { s with hostPoison := setPoison s.hostPoison (p.addr / 64) true }
  else { s with poison := setPoison s.poison (p.addr / 64) true }

/-! ### Translation -/

/-- What an access does. -/
inductive Use where
  | read | write | atomic
  deriving DecidableEq, Repr

/-- How a translation ends: at a place; not present, with the die whose memory management complex met it, the page that
parks it and its entry's place (R7, R200); a
permission fault (R201); or a miss of the host link's translation cache, with the page. -/
inductive Xlate where
  | at (p : Place) | absent (die page : Nat) (pte : Place) | perm | atsMiss (page : Nat)
  deriving DecidableEq, Repr

/-- What a walk finds: a leaf with its level, an entry with V = 0 and its place, or a malformed entry (R199). -/
inductive Walk where
  | leaf (pte : DWord) (level : Nat) | absent (pte : Place) | bad
  deriving DecidableEq, Repr

/-- The page-table entry at a place: of device memory, or of host memory under HOSTPA (R199). -/
def pteAt (s : State) (p : Place) : DWord := BitVec.ofNat 64 (leNat (load s p 8))

/-- The place of entry `idx` of a table. -/
def Place.entry (table : Place) (idx : Nat) : Place := { table with addr := table.addr + 8 * idx }

/-- Physical address bits [51:12] of an entry. -/
def ptePa (p : DWord) : Nat := bits p.toNat 51 12 * 4096

/-- Whether the group of sixteen that holds a CONT entry is one 64 KiB page (R199). -/
def contGroupOk (s : State) (table : Place) (idx : Nat) : Bool :=
  let g := idx / 16 * 16
  let e0 := pteAt s (table.entry g)
  ptePa e0 % 0x10000 == 0 && (List.range 16).all fun i =>
    let e := pteAt s (table.entry (g + i))
    e.getLsbD 5 && ptePa e == ptePa e0 + 4096 * i && bits e.toNat 11 0 == bits e0.toNat 11 0 &&
      bits e.toNat 63 52 == bits e0.toNat 63 52

/-- The place an entry of a level gives a virtual address; PA bits below the size of its page are ignored (notes/assumptions/59). -/
def placeOf (pte : DWord) (level va : Nat) : Place :=
  let span := if level == 3 then 2 ^ 30 else if level == 4 then 2 ^ 21 else 2 ^ 12
  ⟨pte.getLsbD 6, ptePa pte / span * span + va % span⟩

/-- A walk from a table at the given levels' shifts (level 1 is VA[56:48], level 5 is VA[20:12]). A page of a lost
expander's range is not present (R18), nor is what a table in host memory maps while the link is down (R203). -/
def walkFrom (s : State) (va : Nat) (table : Place) : List Nat → Nat → Walk
  | [], _ => .bad
  | sh :: rest, level =>
    let idx := va / 2 ^ sh % 512
    let a := table.entry idx
    if a.host && !s.dev.linkUp then .absent a
    else if !a.host && !mapped s a.addr then .bad
    else
      let e := pteAt s a
      let leaf := e.getLsbD 1
      if !e.getLsbD 0 then .absent a
      else if bits e.toNat 11 7 != 0 || bits e.toNat 63 52 != 0 then .bad
      else if leaf && level < 3 then .bad
      else if !leaf && level == 5 then .bad
      else if e.getLsbD 5 && !(leaf && level == 5) then .bad
      else if e.getLsbD 5 && !contGroupOk s table idx then .bad
      else if leaf then (if !e.getLsbD 6 && lostAt s (placeOf e level va).addr then .absent a else .leaf e level)
      else walkFrom s va ⟨e.getLsbD 6, ptePa e⟩ rest (level + 1)

/-- A walk of partition `n`'s tables. -/
def walk (s : State) (n va : Nat) : Walk := walkFrom s va ⟨false, (partOf s n).ptRoot⟩ [48, 39, 30, 21, 12] 1

/-- Whether an entry allows a use (R199, R201). -/
def allows (pte : DWord) : Use → Bool
  | .read => pte.getLsbD 2
  | .write => pte.getLsbD 3
  | .atomic => pte.getLsbD 4

/-- Key of a cached translation (R200) of a die. -/
def tlbKey (die n va : Nat) : Nat := 2 ^ 51 * die + 2 ^ 45 * n + va / 4096

/-- What a die's TLBs hold for a page, or else what a walk finds (R7, R200). -/
def resolve (s : State) (die n va : Nat) : Walk :=
  match lookup none s.tlb (tlbKey die n va) with
  | some (pte, level) => .leaf pte level
  | none => walk s n va

/-- A partition virtual address translated by a die's memory management complex (R7, R199 to R201): no translation while
PTROOT.EN is 0. -/
def translate (s : State) (die n va : Nat) (u : Use) : Xlate :=
  let va := va % 2 ^ 57
  if !(partOf s n).ptEn then .perm
  else match resolve s die n va with
    | .bad => .perm
    | .absent a => .absent die (va / 4096) a
    | .leaf pte level =>
      if !allows pte u then .perm
      else
        let p := placeOf pte level va
        if p.host || mapped s p.addr then .at p else .perm

/-- The page of a host virtual address (R201), numbered above every page of a partition. -/
def hostPage (pasid va : Nat) : Nat := 2 ^ 52 * (pasid + 1) + va / 4096 % 2 ^ 52

/-- A host virtual address with its PASID translated through the host link's cache (R201). -/
def translateHost (s : State) (pasid va : Nat) (u : Use) : Xlate :=
  match lookup none s.ats (hostPage pasid va) with
  | none => .atsMiss (hostPage pasid va)
  | some .denied => .perm
  | some .notPresent => .absent 0 (hostPage pasid va) ⟨true, 0⟩
  | some (.present pa rd wr) =>
    if (match u with | .read => rd | .write => wr | .atomic => rd && wr) then .at ⟨true, pa / 4096 * 4096 + va % 4096⟩
    else .perm

/-- An address of a ring, completion ring, mailbox or packet, which the front end reads on the kingside die: host virtual
or partition virtual. -/
def translateRing (s : State) (n : Nat) (host : Bool) (pasid va : Nat) (u : Use) : Xlate :=
  if host then translateHost s pasid va u else translate s 0 n va u

/-- An address through a record, from a die (R191, R201). -/
def translateRec (s : State) (die n : Nat) (r : Rec) (va : Nat) (u : Use) : Xlate :=
  match r.space with
  | 0 => translate s die n va u
  | 1 => translateHost s r.pasid va u
  | _ => .at ⟨true, va⟩

/-- Bytes read one by one through a translation: a range may cross pages. The first failure is the answer. -/
def loadVia (s : State) (tr : Nat → Xlate) (va : Nat) : Nat → Except Xlate (List Byte × Bool)
  | 0 => .ok ([], false)
  | n + 1 =>
    match tr va with
    | .at p => (loadVia s tr (va + 1) n).map fun r => (load s p 1 ++ r.1, poisoned s p || r.2)
    | x => .error x

/-- The places of the bytes of a range, or the first failure. -/
def placesVia (tr : Nat → Xlate) (va : Nat) : Nat → Except Xlate (List Place)
  | 0 => .ok []
  | n + 1 =>
    match tr va with
    | .at p => (placesVia tr (va + 1) n).map (p :: ·)
    | x => .error x

/-- Traffic for the host waits while the link is down (R24). -/
def hostHeld (s : State) (ps : List Place) : Bool := !s.dev.linkUp && ps.any (·.host)

/-- Bytes stored at their places one by one. -/
def saveEach (s : State) : List Place → List Byte → State
  | p :: ps, b :: bs => saveEach (save s p [b]) ps bs
  | _, _ => s

/-- Bytes stored at their places: as one store where the places follow one another (R202 counts whole granules). -/
def saveAt (s : State) (ps : List Place) (bs : List Byte) : State :=
  match ps with
  | [] => s
  | p :: _ =>
    if ps == (List.range ps.length).map (fun i => (⟨p.host, p.addr + i⟩ : Place)) then save s p (bs.take ps.length)
    else saveEach s ps bs

end Sys2Proof.Machine
end

