-- ==== Sys2Proof/Machine/Lines.lean ====
section
/-! DEFINITION. The lines of a region's CACHE banks (R187, R202, R205) and the writes on their way to memory or scratch (R206,
R214, R216, R222). A line keeps which of its words are dirty, since a word that was not stored is written back by no one (R209). -/

namespace Sys2Proof.Machine

/-! ### Writes on their way -/

/-- Bank `b` of core `c` of a cluster. -/
def bankOf (s : State) (cl c b : Nat) : Bank := lookup {} (coreOf s (coreId cl c)).banks b
def modBank (s : State) (cl c b : Nat) (f : Bank → Bank) : State :=
  modCore s (coreId cl c) fun k => { k with banks := store k.banks b (f (lookup {} k.banks b)) }

/-- A word of scratch set, and the granule of one poisoned or cleaned. -/
def setScrWord (s : State) (cl c b i : Nat) (w : Word) : State :=
  modBank s cl c b fun k => { k with words := store k.words i w }
def setScrPoison (s : State) (cl c b i : Nat) (on : Bool) : State :=
  modBank s cl c b fun k => { k with poison := setPoison k.poison (i / 16) on }

/-- The key of the line that holds a place, and the place of a line's word. -/
def lineKey (p : Place) : Nat := 2 * (p.addr / 64) + ofBit p.host
def lineWordPlace (k j : Nat) : Place := ⟨k % 2 == 1, 64 * (k / 2) + 4 * j⟩

/-- The number of a place's word in its line. -/
def wordIn (p : Place) : Nat := p.addr % 64 / 4

/-- A line's words with one of them changed. -/
def setLineWord (ws : List Word) (i : Nat) (w : Word) : List Word := (List.range 16).map fun j => if j = i then w else ws.getD j 0

/-- The line of a region that holds a place. -/
def lineOf (s : State) (r : Nat) (p : Place) : Option Line := ((regionOf s r).lines.find? (·.1 == lineKey p)).map (·.2)

def modLine (s : State) (r k : Nat) (f : Line → Line) : State :=
  modRegion s r fun g => { g with lines := mapVals (fun j l => if j == k then f l else l) g.lines }

/-- A region's caches see a word perform (R216): a copy that they have not stored to takes it. -/
def showWord (s : State) (near : Option Nat) (p : Place) (w : Word) : State :=
  match near with
  | some r => modLine s r (lineKey p) fun l => if l.dirty.contains (wordIn p) then l else { l with words := setLineWord l.words (wordIn p) w }
  | none => s

/-- A word of a write on its way performs. -/
def performWord (po : Posted) (s : State) (x : Target × Word) : State :=
  match x.1 with
  | .mem p =>
    let s := showWord (saveWord s p x.2) po.near p x.2
    if po.poison then poisonAt s p else s
  | .scratch cl c b i =>
    let s := setScrWord s cl c b i x.2
    if po.poison then setScrPoison s cl c b i true else s

/-- A write that has performed cleans the granules it covered whole (R202). -/
def cleanWhole (po : Posted) (s : State) : State :=
  if po.poison then s
  else po.whole.foldl (fun s t => match t with
    | .mem p => if p.host then { s with hostPoison := setPoison s.hostPoison (p.addr / 64) false } else { s with poison := setPoison s.poison (p.addr / 64) false }
    | .scratch cl c b i => setScrPoison s cl c b i false) s

/-- A write goes to host memory. One that the loss of the link has discarded waits with its queue, and is issued again on the
queue's resume (R24, R25, R223). -/
def toHost (po : Posted) : Bool := po.writes.any fun x => match x.1 with | .mem p => p.host | _ => false
def awaitsResume (s : State) (n q : Nat) : Bool := (queueOf s n q).state == .linkLost || (queueOf s n q).state == .recovery
def mayPerform (s : State) (po : Posted) : Bool := !toHost po || (s.dev.linkUp && !awaitsResume s po.part po.queue)

/-- Every word of a write performs. -/
def performAll (s : State) (po : Posted) : State := cleanWhole po (po.writes.foldl (performWord po) s)

/-- The writes on their way that a test selects perform, in order, but for those that wait for the link. -/
def completeWhere (s : State) (f : Posted → Bool) : State :=
  let now (po : Posted) : Bool := f po && mayPerform s po
  (s.posted.filter now).foldl performAll { s with posted := s.posted.filter fun po => !now po }

/-- A later write of the same port to the same place waits for an earlier one (R207). -/
def overtakes (earlier po : Posted) : Bool :=
  earlier.port && po.port && earlier.region == po.region && po.writes.any fun x => earlier.writes.any fun y => y.1 == x.1

/-- Write `k` on its way performs whole. -/
def performPosted (s : State) (k : Nat) : State :=
  match s.posted[k]? with
  | none => s
  | some po =>
    if !mayPerform s po || (s.posted.take k).any (overtakes · po) then s else performAll { s with posted := dropAt s.posted k } po

/-- Word `j` of write `k` performs (R222): no order holds among the words. -/
def performPostedWord (s : State) (k j : Nat) : State :=
  match s.posted[k]? with
  | none => s
  | some po =>
    match po.writes[j]? with
    | none => s
    | some x =>
      if !mayPerform s po || (s.posted.take k).any (overtakes · po) then s
      else
        let s := performWord po s x
        if po.writes.length ≤ 1 then cleanWhole po { s with posted := dropAt s.posted k }
        else { s with posted := modifyAt (fun po => { po with writes := dropAt po.writes j }) s.posted k }

/-- A write sent on its way. -/
def post (s : State) (po : Posted) : State := if po.writes.isEmpty then s else { s with posted := s.posted ++ [po] }

/-- A read of host memory by a party (a region's ports, or none for an engine) comes after the writes of that region's ports and
of those that a release has made performed (R204, R206, R212). -/
def pushHost (s : State) (r : Option Nat) : State :=
  completeWhere s fun po => toHost po && (po.released || (po.port && r == some po.region))

/-! ### Lines -/

/-- Banks of a core that are in CACHE mode: the ways of its cache (R187). -/
def waysOf (s : State) (core : Nat) : List Nat := ((coreOf s core).banks.filter (·.2.mode == .cache)).map (·.1)

/-- A word as a region's ports see it, and whether it is poisoned (R202, R205). -/
def seenWord (s : State) (r : Nat) (p : Place) : Word × Bool :=
  match lineOf s r p with
  | some l => if l.lost.contains (wordIn p) then (loadWord s p, l.poison || poisoned s p) else (l.words.getD (wordIn p) 0, l.poison)
  | none => (loadWord s p, poisoned s p)

/-- A line's words that an acquire has invalidated read again from memory. -/
def refreshLine (s : State) (k : Nat) (l : Line) : Line :=
  { l with words := (List.range 16).map fun j => if l.lost.contains j then loadWord s (lineWordPlace k j) else l.words.getD j 0
           poison := l.poison || poisoned s (lineWordPlace k 0), lost := [] }

/-- A port's access to a place fills its line, where the port's core has a cache and no core of the region holds the line: the
banks of a region's cores are coherent (R187, R205). Of the host's memory the access sees what the region's ports have stored past
the caches (R206, R207). -/
def fillLine (s : State) (r port : Nat) (p : Place) : State :=
  let c := portCore r port
  let s := if p.host then pushHost s (some r) else s
  match waysOf s (coreId (r / 4) c), lineOf s r p with
  | _, some l => if l.lost.contains (wordIn p) then modLine s r (lineKey p) (refreshLine s (lineKey p)) else s
  | w :: ws, none =>
    let (k, s) := nextMoment s
    let l : Line :=
      { words := (List.range 16).map fun j => loadWord s (lineWordPlace (lineKey p) j), poison := poisoned s p, core := c
        bank := (w :: ws).getD (Config.way k % (ws.length + 1)) w }
    modRegion s r fun g => { g with lines := store g.lines (lineKey p) l }
  | _, _ => s

/-- A word stored by a port: into the line, which it allocates, or uncached (R187). -/
def storeSeen (s : State) (r port : Nat) (p : Place) (w : Word) : State :=
  let s := fillLine s r port p
  match lineOf s r p with
  | some _ => modLine s r (lineKey p) fun l =>
      { l with words := setLineWord l.words (wordIn p) w, lost := l.lost.filter (· != wordIn p), dirty := if l.dirty.contains (wordIn p) then l.dirty else l.dirty ++ [wordIn p] }
  | none => saveWord s p w

/-- What a line's write-back sends (R202): its dirty words; a line stored whole cleans its granule, a poisoned one poisons it. -/
def lineWrites (part queue r k : Nat) (l : Line) : Posted :=
  { owner := 0, port := true, part := part, queue := queue, region := r, writes := l.dirty.map fun j => (.mem (lineWordPlace k j), l.words.getD j 0)
    whole := if (List.range 16).all l.dirty.contains then [.mem (lineWordPlace k 0)] else [], poison := l.poison, released := true }

/-- A line's dirty words written back; those for the host wait for the link. The line stays, clean. -/
def writeBackLine (s : State) (r k : Nat) : State :=
  match (regionOf s r).lines.find? (·.1 == k) with
  | some (_, l) =>
    if l.dirty.isEmpty then s
    else
      let po := lineWrites (regionOf s r).last (regionOf s r).queue r k l
      let s := modLine s r k fun l => { l with dirty := [] }
      if mayPerform s po then performAll s po else post s po
  | none => s

/-- The dirty lines of a region that a test selects written back. -/
def writeBackWhere (s : State) (r : Nat) (f : Nat → Line → Bool) : State :=
  (((regionOf s r).lines.filter fun x => f x.1 x.2).map (·.1)).foldl (fun s k => writeBackLine s r k) s

/-- The lines of a region that a test selects written back and invalidated. -/
def flushWhere (s : State) (r : Nat) (f : Nat → Line → Bool) : State :=
  let s := writeBackWhere s r f
  modRegion s r fun g => { g with lines := g.lines.filter fun x => !f x.1 x.2 }

/-- The clean lines of a region invalidated (R212), and of a line that it has stored to the words that it has not (R210, R220). -/
def dropClean (s : State) (r : Nat) : State :=
  modRegion s r fun g => { g with
    lines := mapVals (fun _ l => { l with lost := (List.range 16).filter fun j => !l.dirty.contains j })
      (g.lines.filter fun x => !x.2.dirty.isEmpty) }

/-- A clean line dropped (R187). -/
def dropLine (s : State) (r k : Nat) : State := modRegion s r fun g => { g with lines := g.lines.filter fun x => x.1 != k || !x.2.dirty.isEmpty }

/-- An access that bypasses the CACHE banks (R205): its port's region holds no line of the place any more, and of the host's
memory it sees what the region's ports have stored. -/
def bypass (s : State) (r : Nat) (p : Place) : State :=
  let s := if (lineOf s r p).isSome then flushWhere s r (fun k _ => k == lineKey p) else s
  if p.host then pushHost s (some r) else s

/-- Every store of a region has performed at DEV (R211, R223): its caches are written back and its writes have arrived; those that
wait for the link come before every read of the device. -/
def settleStores (s : State) (r : Nat) : State :=
  let s := completeWhere (flushWhere s r fun _ _ => true) (·.region == r)
  { s with posted := s.posted.map fun po => if po.region == r then { po with released := true } else po }

/-! ### Release and acquire (R212) -/

/-- The stores whose acknowledgements have reached a region, of the partition that holds it: what a release there covers. -/
def ackedAt (s : State) (r : Nat) : List Ack := (regionOf s r).acked.filter fun a => (regionOf s a.region).last == (regionOf s r).last

/-- A write on its way is of an acknowledged store, or writes back a line of it. -/
def Ack.sent (a : Ack) (po : Posted) : Bool :=
  po.port && po.region == a.region &&
    (po.owner == a.owner || po.writes.any fun x => match x.1 with | .mem p => a.lines.contains (lineKey p) | _ => false)

/-- The lines of acknowledged stores written back. -/
def writeBackAcked (s : State) (as_ : List Ack) : State :=
  as_.foldl (fun s a => a.lines.foldl (fun s k => writeBackLine s a.region k) s) s

/-- Scopes (R5): 0 RGN, 1 CLU, 2 DEV, 3 SYS. The stores whose acknowledgements have been delivered to a region are made performed at
a scope, in whatever region they were made: their dirty lines are written back, and their writes that the host port has accepted
are there for every reader of the device. -/
def releaseStores (s : State) (r scope : Nat) : State :=
  if scope = 0 then s
  else
    let as_ := ackedAt s r
    let s := writeBackAcked s as_
    let s := { s with posted := s.posted.map fun po => if as_.any (·.sent po) then { po with released := true } else po }
    modRegion s r fun g => { g with acked := as_.filter fun a => s.posted.any a.sent }

/-- A write that a release at SYS of a region waits for: one that the host port has accepted from the region, or of a store that the
release covers. -/
def sysCovers (s : State) (r : Nat) (po : Posted) : Bool := (po.port && po.region == r) || (ackedAt s r).any (·.sent po)

/-- The host port has completed what a release at SYS waits for, as far as the link lets it. -/
def drainHost (s : State) (r : Nat) : State := completeWhere s (sysCovers s r)

/-- Host writes that are not complete and that a release at SYS of a region waits for. -/
def hostWaits (s : State) (r : Nat) : List Nat := (s.posted.filter (sysCovers s r)).map (·.owner)

/-- A release at SYS of a region, which cannot be done while the link keeps writes back. -/
def releaseSys (s : State) (r : Nat) : Option State :=
  let s := drainHost (releaseStores s r 3) r
  if (hostWaits s r).isEmpty then some s else none

/-- Regions whose caches hold lines of a partition's accesses. -/
def linesOfPart (s : State) (n : Nat) : List Nat := allRegions.filter fun r => (regionOf s r).last == n

/-- A release at SYS of a queue's work (R68, R72): the partition's caches and every write of the queue's on its way; none while the
link keeps one. -/
def releaseQueue (s : State) (n q : Nat) : Option State :=
  let s := (linesOfPart s n).foldl (fun s r => writeBackWhere s r fun _ _ => true) s
  let s := completeWhere s fun po => po.part == n && po.queue == q
  if s.posted.any fun po => po.part == n && po.queue == q then none else some s

/-- An acquire at a scope by a region (R212): fills are done in one moment with their reads, so no earlier one returns later. -/
def acquire (s : State) (r scope : Nat) : State := if scope = 0 then s else dropClean s r

end Sys2Proof.Machine
end

