-- ==== Sys2Proof/Machine/Trace.lean ====
section
/-! DEFINITION. Trace time and events (R134 to R151): the stamp, what an event carries, which ring takes it, and the
lossless hold. Emitters put events on `traceOut`; the ring writer takes them from there (R148). -/

namespace Sys2Proof.Machine

/-- Kingside trace time. -/
def tt (s : State) : DWord := s.dev.clk.tt

/-- Trace time of a die (R136): queenside differs by the last measured skew. -/
def dieTT (s : State) (die : Nat) : DWord := if die = 1 then tt s + s.dev.clk.skew.signExtend 64 else tt s

/-- Microseconds since a stamp, rounded down (R134: 16,000 units each). -/
def usSince (s : State) (t : DWord) : Nat := (tt s - t).toNat / 16000

/-! ### Sources (R143) -/

def srcElem (e : Nat) : Nat := e % 1536
def srcCore (cl c : Nat) : Nat := 0x600 + cl % 3 * 24 + c
def srcIngress : Nat := 0x690
def srcManager (r : Nat) : Nat := 0x6A0 + r % 12
def srcFge : Nat := 0x6C0
def srcMmc : Nat := 0x740
def srcStack (stack : Nat) : Nat := 0x700 + stack % 4
def srcCache : Nat := 0x704
def srcD2d : Nat := 0x720
def srcHost : Nat := 0x721
def srcCxl : Nat := 0x722
def srcWriter : Nat := 0x760
def srcMgmt : Nat := 0x7F0

/-- The emitter behind engine port `p` of region `r`. -/
def srcPort (r p : Nat) : Nat :=
  let cl := r / 4
  if p < 6 then srcCore cl (portCore r p) else if p = 10 then srcIngress else 0x680 + 4 * (p - 6) + cl % 3

/-! ### Emitting (R138, R139) -/

/-- The later of two causal floors (R140). -/
def laterFloor (a b : DWord) : DWord := if a.toNat < b.toNat then b else a

/-- The state with an event emitted: stamped with the greatest of the die's time, the causal floor and the emitter's
previous stamp. -/
def emitEvent (s : State) (die src cls code ctx payload : Nat) (floor : DWord := 0) : State :=
  let k := 4096 * die + src
  let now := dieTT s die
  let prev := lookup 0 s.dev.stamps k
  let stamp := BitVec.ofNat 64 (max now.toNat (max floor.toNat prev.toNat))
  let ev : Event := { tt := stamp, ctx := ctx, die := die, clamp := now.toNat < stamp.toNat, lock := s.dev.clk.lock,
                      cls := cls, code := code, source := src, payload := BitVec.ofNat 32 payload }
  { s with traceOut := s.traceOut ++ [ev], dev := { s.dev with stamps := store s.dev.stamps k stamp } }

/-- QUEUE event (R142): queue, ring and sequence. -/
def queueEvent (s : State) (n q i : Nat) (code : Nat) (qseq : BitVec 32) : State :=
  emitEvent s 0 srcFge 6 code n (q + 4 * i + 256 * (qseq.toNat % 2 ^ 24))

/-- LADDER event (R142). -/
def ladderEvent (s : State) (n q r code : Nat) : State := emitEvent s 0 srcFge 7 code n (q + 4 * r)

/-- FAULT event (R130), at least at the causal floor of the fault token (R140). -/
def faultEvent (s : State) (n code tag r : Nat) (floor : DWord := 0) : State :=
  emitEvent s 0 srcFge 8 0 n (code + 256 * tag + 2 ^ 24 * r) floor

/-- PAGE event (R200) of a die's memory management complex: virtual address [43:12]. -/
def pageEvent (s : State) (die n code page : Nat) : State := emitEvent s die srcMmc 9 code n (page % 2 ^ 32)

/-- ENGINE event (R142) of a command at a port. -/
def engineEvent (s : State) (r p code op ctx tag : Nat) (floor : DWord := 0) : State :=
  emitEvent s (regionDie r) (srcPort r p) 2 code ctx (op + 256 * tag) floor

/-- REGION event (R142). -/
def regionEvent (s : State) (n h r code : Nat) (v : Bool) : State :=
  emitEvent s (regionDie r) (srcManager r) 3 code n (h + 256 * r + 2 ^ 13 * ofBit v)

/-- INGRESS event (R142). -/
def ingressEvent (s : State) (die n d code : Nat) : State := emitEvent s die srcIngress 4 code n d

/-- SCHED event (R142) of a region and queue number g = 4 × (n − 1) + q. -/
def schedEvent (s : State) (code r n q : Nat) : State := emitEvent s 0 srcFge 13 code n (r + 32 * (4 * (n - 1) + q))

/-- TIMESYNC event (R142). -/
def timeEvent (s : State) (code payload : Nat) : State := emitEvent s 0 srcMgmt 16 code 0 payload

/-- TRACE event of a partition's ring (0: the device ring), from the ring writer (R148). -/
def ringEvent (s : State) (n code payload : Nat) : State := emitEvent s 0 srcWriter 10 code n payload

/-! ### Rings (R144 to R150) -/

/-- Whether an event passes a ring's filter (R145). The sampling test is made where the event is emitted. -/
def passes (g : TraceRing) (e : Event) : Bool :=
  g.cls.getLsbD e.cls && ((16 ≤ e.cls && e.cls ≤ 19) ||
    (let on := g.src.filter (·.2.en)
     on.isEmpty || on.any fun x => x.2.base ≤ e.source && e.source ≤ x.2.limit && (x.2.anyDie || x.2.die == e.die)))

/-- The rings an event goes to (R146): 0 is the device ring. -/
def ringsFor (e : Event) : List Nat :=
  if 16 ≤ e.cls && e.cls ≤ 19 then List.range 25
  else if 11 ≤ e.cls && e.cls ≤ 13 then [0]
  else [e.ctx]

/-- Stalling classes (R142). -/
def stalling (e : Event) : Bool := e.cls ≤ 5

def ringAt (s : State) (n : Nat) : TraceRing := if n = 0 then s.dev.trace else (partOf s n).trace
def modRingAt (s : State) (n : Nat) (f : TraceRing → TraceRing) : State :=
  if n = 0 then modDev s fun d => { d with trace := f d.trace } else modPart s n fun p => { p with trace := f p.trace }

/-- Events of the ring accepted by emitters and not yet written. -/
def pendingFor (s : State) (n : Nat) : Nat :=
  (s.traceOut.filter fun e => (ringsFor e).contains n && passes (ringAt s n) e).length

/-- Free slots of a ring, what emitters already hold counted as taken. -/
def freeSlots (s : State) (n : Nat) : Nat :=
  let g := ringAt s n
  2 ^ g.log2 - (g.tail - g.head).toNat - pendingFor s n

/-- FORCED (R150): a ring that is to be lossless is lossy, for some cause. -/
def forcedNow (g : TraceRing) : Bool := g.en && g.lossless && !g.forcedBy.isEmpty

/-- Whether a partition's ring is lossless now (R150). -/
def losslessNow (s : State) (n : Nat) : Bool :=
  let g := (partOf s n).trace
  g.en && g.lossless && g.forcedBy.isEmpty && !g.faulted

/-- The emitter of an event, as `holders` numbers it. -/
def emitterOf (e : Event) : Nat := 4096 * e.die + e.source

/-- The emitters of the stalling events for partition `n`'s ring that a step which gave `s'` has emitted, as the ring's filter
judges them now; the event of an emitter that holds already is judged when room appears (R153). -/
def newStalling (s s' : State) (n : Nat) : List Nat :=
  let g := (partOf s n).trace
  ((s'.traceOut.drop s.traceOut.length).filter fun e =>
    e.ctx == n && stalling e && (passes g e || g.holders.contains (emitterOf e))).map emitterOf

/-- A step that raises a fault holds while the FGE's fault FIFO of the fault's die is full (R103). -/
def holdForFge (s s' : State) : State :=
  match s'.faults.drop s.faults.length with
  | f :: _ => if Config.faultFifoEntries ≤ (s.faults.filter fun g => regionDie g.region == regionDie f.region).length then s else s'
  | [] => s'

/-- Slots above the 16 that are kept which a step with `k` stalling events needs (R150): one for each, as far as the ring has
them. -/
def slotsNeeded (g : TraceRing) (k : Nat) : Nat := min k (2 ^ g.log2 - 16)

/-- A step would emit a stalling event into a lossless ring with 16 or fewer slots free for it (R150). -/
def traceHolds (s s' : State) (n : Nat) : Bool :=
  let k := (newStalling s s' n).length
  n != 0 && losslessNow s n && k != 0 && freeSlots s n < 16 + slotsNeeded (partOf s n).trace k

/-- The lossless hold (R150): an emitter whose step would emit a stalling event holds before it while 16 or fewer slots
are free; the first hold begins a trace stall. A step that faults waits for the FGE too. -/
def holdForTrace (s s' : State) (n : Nat) : State :=
  if traceHolds s s' n then
    let hs := newStalling s s' n
    let s' := modRingAt s n fun g => { g with
      stalled := true, holders := (g.holders ++ hs).eraseDups
      need := if g.stalled then min g.need (slotsNeeded g hs.length) else slotsNeeded g hs.length }
    if (partOf s n).trace.stalled then s' else ringEvent s' n 1 0
  else holdForFge s s'

/-- A trace stall ends once room appears or the ring is no longer lossless (R150). -/
def endStall (s : State) (n : Nat) : State :=
  if (partOf s n).trace.stalled && (!losslessNow s n || 16 + (partOf s n).trace.need ≤ freeSlots s n) then
    ringEvent (modRingAt s n fun g => { g with stalled := false, holders := [] }) n 2 0
  else s

/-- A cause makes a ring lossy (R150): where it was lossless, TRACE code 4, and what held for room goes on. -/
def forceLossy (s : State) (n cause : Nat) : State :=
  let g := (partOf s n).trace
  let s := modRingAt s n fun g => { g with forcedBy := (g.forcedBy ++ [cause]).eraseDups }
  if g.en && g.lossless && g.forcedBy.isEmpty then endStall (ringEvent s n 4 0) n else s

/-- A ring that a register or packet has made lossless while a cause forces it lossy is lossy from the beginning (R150). -/
def nowForced (s : State) (n : Nat) (old : TraceRing) : State :=
  if forcedNow (ringAt s n) && !forcedNow old then ringEvent s n 4 0 else s

/-- A cause is over (R150). -/
def unforce (s : State) (n cause : Nat) : State := modRingAt s n fun g => { g with forcedBy := g.forcedBy.filter (· != cause) }

/-- The 16 bytes of an event (R138). -/
def eventBytes (e : Event) : List Byte :=
  let d := e.ctx + 2 ^ 6 * e.die + 2 ^ 7 * ofBit e.clamp + 2 ^ 8 * ofBit e.lock + 2 ^ 11 * e.code + 2 ^ 15 * e.cls +
    2 ^ 20 * e.source + 2 ^ 32 * e.payload.toNat
  leBytes 8 e.tt.toNat ++ leBytes 8 d

end Sys2Proof.Machine
end

