-- ==== Sys2Proof/Machine/Flags.lean ====
section
/-! DEFINITION. The element's counters (R176, R186), which are what this device has for flags, and the ECOUNT events
they raise (R142). -/

namespace Sys2Proof.Machine

/-- The counters of an element, by their ELCSEL.CNT codes (R177). -/
inductive Counter where
  | nanCnt | ovfCnt | lenDrop | eosMis | dropCnt | freeDisc | scrMiss
  deriving DecidableEq, Repr

/-- ELCSEL.CNT of a counter. -/
def counterCode : Counter → Nat
  | .nanCnt => 0 | .ovfCnt => 1 | .lenDrop => 2 | .eosMis => 3 | .dropCnt => 4 | .freeDisc => 5 | .scrMiss => 6

/-- A counter of an element. -/
def counterOf (e : Element) (c : Counter) : Word := lookup 0 e.counters (counterCode c)

/-- The element with a counter raised by `n`, saturating (R176). -/
def bumpElem (e : Element) (c : Counter) (n : Nat) : Element :=
  if n = 0 then e else { e with counters := store e.counters (counterCode c) (satAdd (counterOf e c) n) }

/-- The state with an element's counter raised; an element whose context is saved has no counters here (R176). -/
def bump (s : State) (el : Nat) (c : Counter) (n : Nat) : State := if n = 0 then s else modElem s el (bumpElem · c n)

/-- ECOUNT event (R142): 0 EOS mismatch, 1 discarded by a free, 2 LENDROP; at least at the causal floor of what was consumed
(R140). -/
def ecount (s : State) (el code ctx tag slot n : Nat) (floor : DWord) : State :=
  emitEvent s (elemDie el) (srcElem el) 1 code ctx (tag + 2 ^ 16 * slot + 2 ^ 20 * min n 4095) floor

/-- Lanes dropped (R170), counted and reported. -/
def countLenDrop (s : State) (el ctx tag slot n : Nat) (floor : DWord) : State :=
  if n = 0 then s else ecount (bump s el .lenDrop n) el 2 ctx tag slot n floor

/-- A token dropped under R170 or R171, counted and reported. -/
def countEosMis (s : State) (el ctx tag slot : Nat) (floor : DWord) : State := ecount (bump s el .eosMis 1) el 0 ctx tag slot 1 floor

/-- Lanes that count in NANCNT and OVFCNT (R232): at most one each per result lane. -/
def countFloat (s : State) (el nan ovf : Nat) : State := bump (bump s el .nanCnt nan) el .ovfCnt ovf

end Sys2Proof.Machine
end

