-- ==== Sys2Proof/Machine/Tags.lean ====
section
/-! DEFINITION. Frame tags (R70, R71, R163 to R165): where live tokens are, the allocator, tag actions and frees. Live
counts are not stored: they are the tokens that are there. -/

namespace Sys2Proof.Machine

/-! ### Where tokens are (R71) -/

def fieldTokens (p : FramePart) : List Token :=
  p.fields.filterMap fun f => match f.2 with | some (.tok t) => some t | _ => none

def elemTokens (e : Element) : List Token :=
  e.parts.flatMap fieldTokens ++ e.spilled.flatMap fieldTokens ++ e.parked.map (·.tok) ++
  e.queues.flatMap (fun q => q.2.map (·.tok)) ++ e.reorder.map (·.tok)

/-- A pending arrival as the token it stands for (R179). -/
def arrivalToken (a : Arrival) : Token := { a.tok with tag := a.tag }

def setTokens (u : SetUnit) : List Token :=
  (u.arrived ++ u.heldNext ++ u.joins).map arrivalToken

/-- A flight as the token it stands for. -/
def flightToken (f : Flight) : Token := match f.cmd with | some c => c.a | none => f.tok

def savedTokens (r : SavedRegion) : List Token :=
  r.elems.flatMap (fun e => elemTokens e.2) ++ r.spill.map (·.2.tok) ++ r.streams.flatMap (·.2) ++
  r.cores.flatMap (·.2.steer) ++ r.net.map flightToken ++ r.reqs.map (·.hdr) ++ r.orders.flatMap (·.results.map (·.tok)) ++
  r.places.flatMap (·.2.2.flatMap setTokens)

/-- An open packer row as the token it stands for (R71, R426); keys are 65536 × partition + tag. -/
def packerToken (k : Nat) (p : Option Packer) : List Token :=
  match p with
  | some p => if p.row.isEmpty then [] else [{ tag := BitVec.ofNat 16 k, ctx := k / 65536 }]
  | none => []

/-- Every live token. A command, a memory request and a copy that holds lanes of a stream stand for one token each. -/
def liveTokens (s : State) : List Token :=
  s.elems.flatMap (fun e => elemTokens e.2) ++
  s.net.map flightToken ++
  s.reqs.map (·.hdr) ++ s.orders.flatMap (·.results.map (·.tok)) ++ s.cmds.map (·.a) ++
  s.cores.flatMap (·.2.steer) ++
  s.regions.flatMap (fun r => r.2.spill.map (·.2.tok) ++ r.2.streams.flatMap (·.2) ++ r.2.sets.flatMap (setTokens ·.2) ++
    (r.2.shadow.toList ++ r.2.loaded.toList).flatMap savedTokens) ++
  s.dieSets.flatMap (setTokens ·.2) ++
  s.parts.flatMap (fun p => p.2.saveArea.flatMap savedTokens ++ p.2.graphs.flatMap (fun g => g.2.parkedTokens.map (·.tok))) ++
  s.clusters.flatMap (fun c => c.2.broker.flatMap fun b => match b.2 with | some b => b.recs.map (·.tok) | none => []) ++
  s.ingress.flatMap (fun i => i.2.packers.flatMap fun p => packerToken p.1 p.2) ++
  (s.copies.filter (!·.buf.isEmpty)).map (·.tok)

/-- Tags of the live tokens of partition `n`, one entry per token. -/
def liveTags (s : State) (n : Nat) : List Tag := ((liveTokens s).filter (·.ctx == n)).map (·.tag)

/-- The live count of a tag (R71). -/
def liveCount (s : State) (n : Nat) (t : Tag) : Nat := (liveTags s n).count t

/-! ### The allocator (R70, R163) -/

def tagInfo (s : State) (n : Nat) (t : Tag) : TagInfo := lookup {} (partOf s n).tags t.toNat
def modTag (s : State) (n : Nat) (t : Tag) (f : TagInfo → TagInfo) : State :=
  modPart s n fun p => { p with tags := store p.tags t.toNat (f (lookup {} p.tags t.toNat)) }

/-- LINK(t) and HEAD(t); of a tag that is not allocated, the tag itself (R164, R390). -/
def linkOf (s : State) (n : Nat) (t : Tag) : Tag := let i := tagInfo s n t; if i.alloc then i.link else t
def headOf (s : State) (n : Nat) (t : Tag) : Tag := let i := tagInfo s n t; if i.alloc then i.head else t

/-- CHAIN(h): the allocated tags whose head is h, h not counted (R163). -/
def chainCount (s : State) (n : Nat) (h : Tag) : Nat :=
  ((partOf s n).tags.filter fun e => e.2.alloc && e.2.head == h && e.1 != h.toNat).length

/-- The activation that owns a tag: while the tag is allocated or a token of it lives (R71). -/
def ownerOf (s : State) (n : Nat) (t : Tag) : Option Activation :=
  match (tagInfo s n t).root with
  | some r => (partOf s n).acts.find? (·.root == r)
  | none => none

/-- The queue whose activation owns a tag. -/
def ownerQueue (s : State) (n : Nat) (t : Tag) : Option Nat := (ownerOf s n t).map (·.queue)

/-- The tag after `t` in the allocator's counter: 0xFFFF is followed by 0x0001 (R70). -/
def tagAfter (t : Tag) : Tag := if t = 0xFFFF#16 then 1 else t + 1

/-- The first tag from `t` on, within `fuel` steps, that is neither allocated nor live. -/
def freeTagFrom (tags : Sparse TagInfo) (live : List Tag) : Nat → Tag → Option Tag
  | 0, _ => none
  | k + 1, t =>
    if (lookup {} tags t.toNat).alloc || live.contains t then freeTagFrom tags live k (tagAfter t) else some t

/-- A new tag with its allocator record, or none when the allocator is empty (R70). -/
def newTag (s : State) (n : Nat) (info : Tag → TagInfo) : Option (Tag × State) :=
  let p := partOf s n
  match freeTagFrom p.tags (liveTags s n) 65535 p.tagNext with
  | none => none
  | some u => some (u, setPart s n { p with tagNext := tagAfter u, tags := store p.tags u.toNat (info u) })

/-- NEXT and BNEXT (R164): SUCC(t) if allocated; otherwise a new tag of t's chain. A tag that is not allocated keeps no
SUCC. -/
def nextTag (s : State) (n bound : Nat) (bounded : Bool) (t : Tag) : Option (Tag × State) :=
  let i := tagInfo s n t
  let old := match i.succ with
    | some u => if i.alloc && (tagInfo s n u).alloc then some u else none
    | none => none
  match old with
  | some u => some (u, s)
  | none =>
    let h := headOf s n t
    if bounded && bound ≤ chainCount s n h then none
    else
      let link := linkOf s n t
      match newTag s n fun _ => { alloc := true, link := link, head := h, root := i.root } with
      | none => none
      | some (u, s) => some (u, if i.alloc then modTag s n t fun i => { i with succ := some u } else s)

/-- NEW (R164): a new tag whose link is t. -/
def childTag (s : State) (n : Nat) (t : Tag) : Option (Tag × State) :=
  newTag s n fun u => { alloc := true, link := t, head := u, root := (tagInfo s n t).root }

/-- The result tag of a tag action (R164) and the state after its allocation; none while the firing must wait (R182).
`b` is operand B's lane 0. -/
def tagAction (s : State) (n bound act : Nat) (t : Tag) (b : Word) : Option (Tag × State) :=
  match act with
  | 1 => nextTag s n bound false t
  | 2 => nextTag s n bound true t
  | 3 => childTag s n t
  | 4 => some (linkOf s n t, s)
  | 5 => some (linkOf s n t, s)
  | 9 =>
    let u := b.setWidth 16
    -- a tag that is neither allocated nor live belongs to no activation
    some (u, if (tagInfo s n u).alloc || (liveTags s n).contains u then s else modTag s n u fun _ => {})
  | _ => some (t, s)

/-! ### Freeing (R165) -/

/-- The slots of an element's frame parts and reordered or parked tokens that hold tokens of tag `t` of partition `n`,
one entry per token. -/
def freedSlots (e : Element) (n : Nat) (t : Tag) : List Nat :=
  let ofParts (ps : List FramePart) := (ps.filter fun p => p.tag == t && cfgPart p.cfg == n).flatMap fun p =>
    p.fields.filterMap fun f => match f.2 with | some (.tok _) => some (f.1 / 3) | _ => none
  ofParts e.parts ++ ofParts e.spilled ++
    ((e.parked ++ e.reorder).filter fun q => q.tok.tag == t && q.tok.ctx == n).map (·.slot)

/-- An element without the frame parts of tag `t` of partition `n`, resident or spilled, its parked tokens, its early terms
(R165, R183, R391) and its channel sums (R265). -/
def releaseParts (e : Element) (n : Nat) (t : Tag) : Element :=
  let other (p : FramePart) := !(p.tag == t && cfgPart p.cfg == n)
  let stays (q : QTok) := !(q.tok.tag == t && q.tok.ctx == n)
  { e with parts := e.parts.filter other, spilled := e.spilled.filter other,
           parked := e.parked.filter stays, reorder := e.reorder.filter stays
           sums := e.sums.filter fun x => x.1 % 65536 != t.toNat }

/-- One element's share of a free: its parts released, each token and each of its accesses `reqs` that are discarded counted in
FREEDISC and reported by slot. -/
def freeInElem (n : Nat) (t : Tag) (reqs : List MemReq) (floor : DWord) (s : State) (el : Nat) : State :=
  let slots := freedSlots (elemOf s el) n t ++ (reqs.filter (·.el == el)).map (·.slot)
  let s := modElem s el fun e => releaseParts e n t
  if slots.isEmpty then s
  else
    (List.range 16).foldl (fun s sl => let k := slots.count sl; if k = 0 then s else ecount s el 1 n t.toNat sl k floor)
      (bump s el .freeDisc slots.length)

/-- Raise the discard count of the activation that owns a tag (R73). -/
def addDiscard (s : State) (n : Nat) (t : Tag) (k : Nat) : State :=
  match (tagInfo s n t).root with
  | none => s
  | some r => modPart s n fun p => { p with acts := p.acts.map fun a =>
      if a.root == r then { a with discard := satAdd a.discard k } else a }

/-- An element holds something of tag `t` of partition `n` that a free discards. -/
def holdsTag (s : State) (n : Nat) (t : Tag) (x : Nat × Element) : Bool :=
  !(freedSlots x.2 n t).isEmpty || (x.2.parts ++ x.2.spilled).any (fun p => p.tag == t && cfgPart p.cfg == n) ||
    (x.2.sums.any (·.1 % 65536 == t.toNat) && (regionOf s (elemRegion x.1)).owner == n)

/-- Tag `t` freed (R165): returned to the allocator, its parts released and their tokens discarded and counted. A parked
access of the tag is discarded and counted (R203), its open packer row too (R428), and its SEGID counter is freed
(R427). Every tag stall of the partition starts afresh (R70). Freeing a free tag does nothing. -/
def freeTag (s : State) (n : Nat) (t : Tag) (floor : DWord := 0) : State :=
  if !(tagInfo s n t).alloc then s
  else
    let disc := (s.elems.map fun e => (freedSlots e.2 n t).length).sum
    let gone (r : MemReq) := r.parked.isSome && r.hdr.tag == t && r.hdr.ctx == n
    let reqs := s.reqs.filter gone
    let els := ((s.elems.filter (holdsTag s n t)).map (·.1) ++ reqs.map (·.el)).eraseDups
    let key := 65536 * n + t.toNat
    let rows := (s.ingress.filter fun i => match lookup none i.2.packers key with | some p => !p.row.isEmpty | none => false).length
    let s := modPart s n fun p => { p with
      tags := (mapVals (fun _ i => if i.succ == some t then { i with succ := none } else i) p.tags)
      freedAt := tt s
      queues := mapVals (fun _ u => { u with stallAt := none, fireStallAt := none }) p.queues
      rings := mapVals (fun _ d => { d with stallAt := none }) p.rings }
    let s := modTag s n t fun i => { i with alloc := false, succ := none }
    let s := els.foldl (freeInElem n t reqs floor) s
    let s := { s with
      reqs := s.reqs.filter fun r => !gone r
      ingress := mapVals (fun _ i => { i with packers := erase i.packers key, segids := erase i.segids key }) s.ingress }
    addDiscard s n t (disc + reqs.length + rows)

end Sys2Proof.Machine
end

