-- ==== Sys2Proof/Machine/Ops.lean ====
section
/-! DEFINITION. The shared operations: routing and sending tokens (R173, R329), page faults (R200), completion records
(R72 to R74, R79), packet faults (R62), and TAKING A FAULT (R130 to R132) with rung 3 of the ladder (R121, R127). -/

namespace Sys2Proof.Machine

/-! ### Routes -/

/-- VSEL of a code (R328). -/
def vselOf : Nat → VSel
  | 1 => .force0
  | 2 => .force1
  | _ => .keep

/-- V of a token after VSEL (R162). -/
def applyVsel (v : VSel) (t : Token) : Token :=
  match v with
  | .keep => t
  | .force0 => { t with v := false }
  | .force1 => { t with v := true }

/-- A placed route entry of element `el` as a destination (R173, R328). Entries of KIND 2 and 4 name a port or a set of
an opcode and take no token. -/
def destOf (el : Nat) (w : Nat) : Option Dest :=
  if !bit w 31 then none
  else match bits w 30 28 with
    | 0 =>
      let x : Int := (elemX el : Int) + signed 6 (bits w 27 22)
      let y : Int := (elemY el : Int) + signed 5 (bits w 21 17)
      some (.slot (elemAt (elemCluster el) x.toNat y.toNat) (bits w 16 13) (bits w 12 11) (vselOf (bits w 10 9)) false)
    | 1 => some (.engine (elemRegion el) (bits w 27 22) (vselOf (bits w 10 9)))
    | 3 => some (.egress (elemRegion el) (bits w 27 22) (vselOf (bits w 10 9)))
    | 5 => some (.drop el)
    | _ => none

/-- Route entry `k` of version `v` of an element; rt0 is none. -/
def route (s : State) (el : Nat) (v : Bool) (k : Nat) : Option Dest :=
  if k = 0 then none else destOf el (lookup 0 (elemOf s el).routes (key64 v k)).toNat

/-- The raw route entry, for the port or set that D1 of an opcode names. -/
def routeWord (s : State) (el : Nat) (v : Bool) (k : Nat) : Nat := (lookup 0 (elemOf s el).routes (key64 v k)).toNat

def destVsel : Dest → VSel
  | .slot _ _ _ v _ => v
  | .engine _ _ v => v
  | .egress _ _ v => v
  | .drop _ => .keep

/-- The region a destination is in. -/
def destRegion : Dest → Nat
  | .slot el _ _ _ _ => elemRegion el
  | .engine r _ _ => r
  | .egress r _ _ => r
  | .drop el => elemRegion el

/-- A token sent to a destination (R173): KIND 5 absorbs it at the sender and counts it; every other enters the
network. -/
def sendTok (s : State) (el : Nat) (t : Token) (d : Dest) (slot : Option Nat := none) : State :=
  match d with
  | .drop e => bump s e .dropCnt 1
  | _ => { s with net := s.net ++ [{ tok := applyVsel (destVsel d) t, dest := d, src := el, slot := slot }] }

/-- A token sent to each of a list of destinations. -/
def sendAll (s : State) (el : Nat) (t : Token) (ds : List Dest) : State := ds.foldl (fun s d => sendTok s el t d) s

/-- A destination reached through an edge port enters Q3 (R154). -/
def viaPort : Dest → Dest
  | .slot el sl f v _ => .slot el sl f v true
  | d => d

/-! ### Configurations at elements (R110, R113) -/

/-- The configuration that uses slot `n` of version `v` of an element. -/
def ownerCfg (s : State) (el : Nat) (v : Bool) (n : Nat) : Option Nat :=
  let c := lookup 0 (elemOf s el).owner (key16 v n)
  if c = 0 then none else some c

/-- The configuration of version `v` whose placement covers an element, whether or not it uses a slot there (R113). -/
def coveringCfg (s : State) (el : Nat) (v : Bool) : Option Nat :=
  s.parts.findSome? fun p => (p.2.graphs.find? fun g =>
    g.2.places.any fun x => !x.swapped && x.v == v && coversElem g.2.config x el).map fun g => cfgOf p.1 g.1

/-- DETAIL of a run-time fault (R132): position relative to the footprint of the configuration in the token's version,
or GRID 1 with the position in the cluster grid. -/
def faultDetail (s : State) (el : Nat) (v : Bool) (slot : Nat) : Word :=
  let c := match ownerCfg s el v slot with | some c => some c | none => coveringCfg s el v
  let base := 2 ^ 16 * slot + 2 ^ 20 * ofBit v + 2 ^ 21 * elemRegion el
  match c.bind fun c => placementAt s c el with
  | some p => BitVec.ofNat 32 (elemX el - p.x0 + 256 * (elemY el - p.y0) + base)
  | none => BitVec.ofNat 32 (elemX el + 256 * elemY el + base + 2 ^ 26)

/-- A fault put before the FGE (R103), with a SCHED event when that fills the FIFO of its die. -/
def raise (s : State) (f : FaultTok) : State :=
  let f := if regionDie f.region = 1 then { f with floor := dieTT s 1 + 1 } else f
  let s := { s with faults := s.faults ++ [f] }
  if (s.faults.filter fun g => regionDie g.region == regionDie f.region).length = Config.faultFifoEntries
  then schedEvent s 3 f.region f.part (f.queue.getD 0) else s

/-- A fault of an element's token (R130). -/
def elemFault (s : State) (el : Nat) (v : Bool) (slot n : Nat) (t : Tag) (code : Byte) : State :=
  raise s { code := code, part := n, tag := some t, detail := faultDetail s el v slot, region := elemRegion el }

/-! ### Page faults (R200) -/

/-- Record that accesses of partition `n` wait on a page: a fault XLATE for the FGE (R130), PAGE code 0, and the page's entry,
once; one that was given up with nothing waiting is to be resolved anew. -/
def parkOn (s : State) (die n page : Nat) (pte : Place) (tag : Option Tag := none) (region : Nat := 0) : State :=
  let s := raise (pageEvent s die n 0 page) { code := 0x10, part := n, tag := tag, region := region }
  if s.pageFaults.any fun f => f.part == n && f.page == page then
    if s.atsPending.contains page then s
    else { s with pageFaults := s.pageFaults.map fun f => if f.part == n && f.page == page then { f with again := false } else f }
  else { s with pageFaults := s.pageFaults ++ [{ part := n, page := page, die := die, pteAddr := pte.addr, pteHost := pte.host }] }

/-- Ask the host for a translation (R201), once per page. -/
def askHost (s : State) (page : Nat) : State :=
  if s.atsPending.contains page then s else { s with atsPending := s.atsPending ++ [page] }

/-- The page an access that cannot go on waits for, with what waiting on it records; none for a permission fault. -/
def waitFor (s : State) (n : Nat) (x : Xlate) (tag : Option Tag := none) (region : Nat := 0) : Option (Nat × State) :=
  match x with
  | .absent die page pte => some (page, parkOn s die n page pte tag region)
  | .atsMiss page => some (page, askHost s page)
  | _ => none

/-! ### Queue order and completion (R59, R72 to R74) -/

/-- The highest sequence below which every packet has completed (R72): one below the nearest one outstanding. -/
def watermark (u : Queue) : BitVec 32 :=
  let from_ := u.lastSeq + 1
  let open_ := u.inFlight.map (·.qseq) ++ u.merged.map (·.qseq) ++ u.failed
  let dist := open_.foldl (fun a x => min a (x - from_).toNat) (u.nextSeq - from_).toNat
  u.lastSeq + BitVec.ofNat 32 dist

/-- An MSI-X message of a function (0 PF), for a queue where it is one's, held while the link is lost (R25). A VF that does
not exist sends none (R36). A vector above the function's share (R13) is signalled like any other (notes/assumptions/61). -/
def signal (s : State) (fn vector : Nat) (queue : Option (Nat × Nat) := none) : State :=
  if fn != 0 && !featOn s 12 then s
  else if s.dev.linkUp then modDev s fun d => { d with msix := d.msix ++ [(fn, vector)] }
  else modDev s fun d => { d with msixHeld := d.msixHeld ++ [((fn, vector), queue)] }

/-- The 32 bytes of a completion record (R73) written at index `k` of a ring of 2^`log2` records: PHASE is 1 on the
first pass and inverts on each wrap. -/
def recordBytes (r : CplRec) (k : BitVec 32) (log2 : Nat) : List Byte :=
  leBytes 4 r.qseq.toNat ++ leBytes 4 r.hdrSeq.toNat ++ [BitVec.ofNat 8 r.ring, r.type, r.fault,
    if bit k.toNat log2 then 0 else 1] ++
  leBytes 2 r.root.toNat ++ [0, 0] ++ leBytes 8 r.tt.toNat ++ leBytes 4 r.discard.toNat ++ leBytes 4 r.detail.toNat

/-- A queue holds or awaits its place in a ladder, or is away (R121, R133). -/
def inLadder (u : Queue) : Bool :=
  [QState.draining, .saving, .saved, .resetting, .linkLost, .recovery].contains u.state

/-- A queue is in a rung of the ladder (R121). -/
def inRung (u : Queue) : Bool := [QState.draining, .saving, .resetting].contains u.state

/-- The state of a queue that a packet fault reaches: ERROR with its code and DETAIL, the first fault's where there are
several; one in a ladder shows ERROR once that ends (notes/assumptions/11). What waits at its head waits no more (R82). -/
def faulted (code : Byte) (detail : Word) (u : Queue) : Queue :=
  if u.state == .resetting then u
  else
    let first := u.state == .error || u.errorDue
    { u with state := if inLadder u then u.state else .error, errorDue := inLadder u, vPage := none, stallAt := none
             fault := if first then u.fault else code, detail := if first then u.detail else detail }

/-- A fault that the FGE does not accept while it is paused (R103): it waits, once, among its faults. -/
def holdFault (s : State) (f : FaultTok) : State := if s.faults.any (fun g => { g with floor := f.floor } == f) then s else raise s f

/-- A queue to STATE ERROR with a fault code; what is fetched and not admitted stays unadmitted (R62). The fault is a token to the
FGE (R130), which accepts it at once unless it is paused. -/
def queueError (s : State) (n q : Nat) (code : Byte) (detail : Word := 0) : State :=
  if fgePaused s then holdFault s { code := code, part := n, tag := none, detail := detail, queue := some q }
  else faultEvent (modQueue s n q (faulted code detail)) n code.toNat 0 0

/-- The host link is lost by surprise (R24). -/
def linkLost (s : State) : Bool := !s.dev.linkUp && !s.dev.orderlyDown

/-- A queue that may write its completion ring: not at LINKLOST or RECOVERY (R26), no write parked or failed (R79), and
nothing is delivered while the link is lost (R25). -/
def cplReady (s : State) (u : Queue) : Bool :=
  4 ≤ u.cplLog2 && u.cplLog2 ≤ 16 && u.cplPage.isNone && !u.cplFailed && u.state != .linkLost && u.state != .recovery &&
  !linkLost s && (!u.cplHost || s.dev.linkUp)

/-- The oldest held record written, if the ring has room: then CPLTAIL advances and IRQ signals (R72, R74, R79). -/
def flushOne (s : State) (n q : Nat) : State :=
  let u := queueOf s n q
  match u.held with
  | [] => s
  | r :: rest =>
    if !cplReady s u || 2 ^ u.cplLog2 ≤ (u.cplTail - u.cplHead).toNat then s
    else
      let va := u.cplBase + 32 * (u.cplTail.toNat % 2 ^ u.cplLog2)
      match placesVia (fun a => translateRing s n u.cplHost u.cplPasid a .write) va 32 with
      | .ok ps =>
        if hostHeld s ps then s else
        let s := saveAt s ps (recordBytes r u.cplTail u.cplLog2)
        let s := modQueue s n q fun u => { u with held := rest, cplTail := u.cplTail + 1 }
        if r.irq then signal s n u.cplVector (some (n, q)) else s
      | .error x =>
        match waitFor s n x with
        | some (page, s) => modQueue s n q fun u => { u with cplPage := some page }
        | none => queueError (modQueue s n q fun u => { u with cplFailed := true }) n q 0x32 0x40

/-- `k` times `flushOne`. -/
def flushTimes (s : State) (n q : Nat) : Nat → State
  | 0 => s
  | k + 1 => flushTimes (flushOne s n q) n q k

/-- Held records written in order while the ring takes them (R74). -/
def flushCpl (s : State) (n q : Nat) : State := flushTimes s n q (queueOf s n q).held.length

/-- A packet's end (R72 steps 3 to 5): its record is written or held, a QUEUE event follows, and LASTSEQ advances, or
stays below a packet that did not complete (R82). -/
def endPacket (s : State) (n q : Nat) (p : Packet) (fault : Byte) (root : Tag) (discard detail : Word) (done : Bool) :
    State :=
  let type := (p.bytes.head?).getD 0
  let irq := (p.bytes.getD 1 0).getLsbD 2
  let r : CplRec := { qseq := p.qseq, hdrSeq := p.hdrSeq, ring := p.ring, type := type, fault := fault, root := root,
                      tt := tt s, discard := discard, detail := detail, irq := irq }
  let s := modQueue s n q fun u =>
    let u := { u with inFlight := u.inFlight.filter (·.qseq != p.qseq), held := u.held ++ [r],
                      failed := if done then u.failed else u.failed ++ [p.qseq] }
    if done then { u with lastSeq := watermark u } else u
  flushCpl (queueEvent s n q p.ring 1 p.qseq) n q

/-- A packet that completes with no fault. -/
def completePacket (s : State) (n q : Nat) (p : Packet) : State := endPacket s n q p 0 0 0 0 true

/-- A packet fault (R62): the packet gets a record with the code and DETAIL, the queue goes to ERROR and admits
nothing more. -/
def packetFault (s : State) (n q : Nat) (p : Packet) (code : Byte) (detail : Nat) : State :=
  let s := modQueue s n q fun u => { u with merged := u.merged.filter (·.qseq != p.qseq) }
  endPacket (queueError s n q code (BitVec.ofNat 32 detail)) n q p code 0 0 (BitVec.ofNat 32 detail) false

/-! ### Removing tokens -/

/-- A broker slot without the BRINs of the commands that a test selects (R277). -/
def dropBrins (gone : Nat → Bool) (b : BrSlot) : BrSlot := { b with brins := b.brins.filter (!gone ·.cmd) }

/-- An element with the tokens a test selects removed from its parts, queues and stores. -/
def stripElem (gone : Token → Bool) (e : Element) : Element :=
  let field (f : Option FieldVal) := match f with | some (.tok t) => if gone t then none else f | _ => f
  let part (p : FramePart) : FramePart := { p with fields := (mapVals (fun _ f => field f) p.fields).filter (·.2.isSome) }
  let q (l : List QTok) := l.filter fun x => !gone x.tok
  { e with parts := e.parts.map part, spilled := e.spilled.map part, parked := q e.parked, reorder := q e.reorder
           queues := mapVals (fun _ l => q l) e.queues }

/-- A set unit with the arrivals of the tags a test selects removed, and those tags no longer members. -/
def stripSet (gone : Token → Bool) (u : SetUnit) : SetUnit :=
  let keep (a : Arrival) := !gone (arrivalToken a)
  let ctx := match u.arrived ++ u.heldNext ++ u.joins with | a :: _ => a.tok.ctx | [] => 0
  { members := u.members.filter (fun t => !gone { tag := t, ctx := ctx }), arrived := u.arrived.filter keep,
    heldNext := u.heldNext.filter keep, joins := u.joins.filter keep }

/-- An order that waits without the results a test selects. -/
def stripOrder (gone : Token → Bool) (o : Order) : Order := { o with results := o.results.filter fun f => !gone f.tok }

/-- A saved context with the tokens a test selects removed. -/
def stripSaved (gone : Token → Bool) (c : SavedRegion) : SavedRegion :=
  { c with elems := mapVals (fun _ e => stripElem gone e) c.elems, spill := c.spill.filter (fun x => !gone x.2.tok)
           streams := mapVals (fun _ l => l.filter (!gone ·)) c.streams
           cores := mapVals (fun _ c => { c with steer := c.steer.filter (!gone ·) }) c.cores
           hwq := mapVals (fun _ h => { h with triggers := h.triggers.filter (!gone ·) }) c.hwq
           net := c.net.filter fun f => !gone (flightToken f)
           reqs := c.reqs.filter fun r => !gone r.hdr
           orders := c.orders.map (stripOrder gone)
           places := c.places.map fun p => (p.1, p.2.1, p.2.2.map (stripSet gone)) }

/-- The state with every token a test selects removed, wherever it is, with the commands and requests that stand for
one. -/
def stripTokens (s : State) (gone : Token → Bool) : State :=
  { s with
    elems := mapVals (fun _ e => stripElem gone e) s.elems
    net := s.net.filter fun f => !gone (flightToken f)
    reqs := s.reqs.filter fun r => !gone r.hdr
    orders := s.orders.map (stripOrder gone)
    cmds := s.cmds.filter fun c => !gone c.a
    cores := mapVals (fun _ c => { c with steer := c.steer.filter (!gone ·) }) s.cores
    regions := mapVals (fun _ r => { r with
      spill := r.spill.filter (fun x => !gone x.2.tok), streams := mapVals (fun _ l => l.filter (!gone ·)) r.streams
      sets := mapVals (fun _ u => stripSet gone u) r.sets, shadow := r.shadow.map (stripSaved gone)
      loaded := r.loaded.map (stripSaved gone) }) s.regions
    dieSets := mapVals (fun _ u => stripSet gone u) s.dieSets
    parts := mapVals (fun _ p => { p with
      saveArea := p.saveArea.map (stripSaved gone)
      graphs := mapVals (fun _ g => { g with parkedTokens := g.parkedTokens.filter fun f => !gone f.tok }) p.graphs }) s.parts
    clusters := mapVals (fun _ c => { c with broker := mapVals (fun _ b => b.map fun b =>
      dropBrins (fun k => s.cmds.any fun c => c.ident == k && gone c.a) { b with recs := b.recs.filter fun r => !gone r.tok }) c.broker }) s.clusters }

/-- Whether a token belongs to an activation of queue `q` of partition `n`. -/
def tokenOfQueue (s : State) (n q : Nat) (t : Token) : Bool := t.ctx == n && ownerQueue s n t.tag == some q

/-! ### Rung 3 and the taking of a fault (R121, R127, R130 to R132) -/

/-- What an activation leaves when it ends: its tags freed, its record dropped from the partition (R72 step 2). -/
def dropActivation (s : State) (n : Nat) (root : Tag) : State :=
  let mine := ((partOf s n).tags.filter fun e => e.2.root == some root).map fun e => BitVec.ofNat 16 e.1
  let s := mine.foldl (fun s t => freeTag s n t) s
  let s := { s with fge := { s.fge with quiet := s.fge.quiet.filter fun x => !(x.2.1 == n && x.2.2 == root) } }
  modPart s n fun p => { p with
    acts := p.acts.filter (·.root != root)
    tags := mapVals (fun _ i => if i.root == some root then { i with root := none } else i) p.tags }

/-- The packet an activation came from, for its record. -/
def actPacket (a : Activation) : Packet :=
  { qseq := a.qseq, hdrSeq := a.hdrSeq, ring := a.ring, bytes := [1, if a.irq then 4 else 0] }

/-- An activation ends with a record of a fault code and DETAIL; its sequence does not complete. -/
def failActivation (n q : Nat) (code : Byte) (detail : Word) (s : State) (a : Activation) : State :=
  endPacket (dropActivation s n a.root) n q (actPacket a) code a.root a.discard detail false

/-- An element without the parts, the stream bindings and the channel sums of the tags of partition `n` that a test selects;
`its` says that the element's contents are the partition's. -/
def forgetTags (n : Nat) (its : Bool) (mine : Tag → Bool) (e : Element) : Element :=
  let other (p : FramePart) := !(cfgPart p.cfg == n && mine p.tag)
  let e := { e with parts := e.parts.filter other, spilled := e.spilled.filter other }
  if !its then e
  else { e with streamTag := mapVals (fun _ t => t.filter (!mine ·)) e.streamTag
                sums := e.sums.filter fun x => !mine (BitVec.ofNat 16 x.1) }

/-- The contexts saved of a partition, in its regions' banks or in its save area. -/
def savedOf (s : State) (n : Nat) : List SavedRegion :=
  (s.regions.flatMap fun r => (r.2.shadow.toList ++ r.2.loaded.toList).filter (·.part == n)) ++ (partOf s n).saveArea

/-- A template stands armed on a hardware queue, or in a saved context, for a window's key; or the window's copy runs. -/
def windowUsed (s : State) (w : Window) : Bool :=
  match w.hq with
  | none => true
  | some k =>
    if k < 1024 then (lookup {} (clusterOf s (k / 64)).hwq (k % 64)).armed.isSome ||
      (savedOf s w.part).any fun c => c.region / 4 == k / 64 && c.hwq.any fun h => h.1 == k % 64 && h.2.armed.isSome
    else s.cmds.any fun c => c.ident + 1024 == k

/-- The windows of templates that are disarmed and of copies that are no more are consumed (R196). -/
def dropWindows (s : State) : State := modDev s fun d => { d with windows := d.windows.filter (windowUsed s) }

/-- A hardware queue without the template and the triggers of a partition. -/
def disarm (n : Nat) (h : HwQueue) : HwQueue :=
  { armed := h.armed.filter fun a => cfgPart a.1 != n, triggers := h.triggers.filter (·.ctx != n) }

/-- A partition without regions in a cluster and without a saved context taken from one there loses what the cluster's
engines hold for it; where it has a saved context, which has taken its own queue's path registers and FIFO tokens with it, only those
of other queues: tree slots, path registers, sync FIFOs, broker slots, armed templates with their triggers (R257, R258,
R267, R270, R276). -/
def loseCluster (s : State) (n cl : Nat) : State :=
  if (heldBy s n).any (· / 4 == cl) then s
  else if (savedOf s n).any (·.region / 4 == cl) then
    modCluster s cl fun c => { c with paths := c.paths.filter (·.1 / 64 != n), fifos := c.fifos.filter (·.1 / 16 != n) }
  else dropWindows (modCluster s cl fun c => { c with
    trees := c.trees.filter (·.1 / 64 != n), paths := c.paths.filter (·.1 / 64 != n), fifos := c.fifos.filter (·.1 / 16 != n)
    broker := c.broker.filter fun b => match b.2 with | some b => b.part != n | none => false
    hwq := mapVals (fun _ h => disarm n h) c.hwq })

/-- The same of the ingress unit of a die (R425 to R427). -/
def loseDie (s : State) (n die : Nat) : State :=
  if (heldBy s n).any (regionDie · == die) || (savedOf s n).any (regionDie ·.region == die) then s
  else modIngress s die fun i => { i with
    keys := i.keys.filter (·.1 / 4 != n), packers := i.packers.filter (·.1 / 65536 != n)
    segids := i.segids.filter (·.1 / 65536 != n) }

/-- What a partition's engines hold where it has neither a region nor a saved context any more is lost. -/
def loseAll (s : State) (n : Nat) : State :=
  [0, 1].foldl (fun s d => loseDie s n d) ((List.range Config.clusters).foldl (fun s cl => loseCluster s n cl) s)

/-- A context that came back with an exchange, and whose restore does not come about, goes to the shadow banks again, or to its
save area where another is there. -/
def unload (s : State) (r : Nat) : State :=
  let g := regionOf s r
  match g.loaded with
  | none => s
  | some c =>
    if g.shadow.isNone then modRegion s r fun g => { g with shadow := some c, loaded := none }
    else modPart (modRegion s r fun g => { g with loaded := none }) c.part fun p => { p with saveArea := p.saveArea ++ [c] }

/-- A region released: it is free, with a SCHED event; its contents stay until another partition takes it (R109). A stage swap that
is not done is abandoned (R133), so that its manager is free (R105). -/
def releaseRegion (s : State) (r : Nat) : State :=
  let g := regionOf s r
  if g.owner = 0 then s
  else
    let s := schedEvent (unload s r) 1 r g.owner g.queue
    let s := modRegion s r fun g => { g with
      owner := 0, queue := 0, state := .free, task := g.task.filter fun t => match t with | .swap _ _ _ => false | .load _ _ => true }
    loseDie (loseCluster s g.owner (r / 4)) g.owner (regionDie r)

/-- What rung 3 discards (R121): the queue's tokens, its engine commands and copies, its armed templates and sync FIFO
tokens, its saved contexts; and what the loss of the link has discarded of its host writes, which no resume issues again (R24). -/
def discardContext (s : State) (n q : Nat) : State :=
  let held := regionsOf s n q
  let ofQueue (t : Tag) := ownerQueue s n t == some q
  let gone := tokenOfQueue s n q
  let s := stripTokens { s with elems := mapVals (fun el e => forgetTags n ((regionOf s (elemRegion el)).last == n) ofQueue e) s.elems } gone
  let mine (c : Cmd) := cfgPart c.cfg == n && c.queue == q
  let other (c : SavedRegion) : Bool := !(c.part == n && c.queue == q)
  let ours (h : HwQueue) : Bool := h.armed.any fun a => cfgPart a.1 == n && a.2.1 == q
  dropWindows { s with
    cmds := s.cmds.filter (!mine ·)
    posted := s.posted.filter fun po => !(po.part == n && po.queue == q && toHost po && awaitsResume s n q)
    net := s.net.filter fun f => match f.cmd with | some c => !mine c | none => true
    copies := s.copies.filter fun c => !(c.part == n && c.queue == q)
    orders := s.orders.filter fun o => !(o.part == n && held.contains o.region)
    drpRows := s.drpRows.filter fun r => !(s.cmds.any fun c => c.ident == r.cmd && mine c)
    regions := mapVals (fun _ r => { r with shadow := r.shadow.filter other, loaded := r.loaded.filter other }) s.regions
    parts := mapVals (fun k p => if k == n then { p with saveArea := p.saveArea.filter (·.queue != q) } else p) s.parts
    clusters := mapVals (fun cl c => { c with
      broker := mapVals (fun _ b => b.map (dropBrins fun k => s.cmds.any fun c => c.ident == k && mine c)) c.broker
      hwq := mapVals (fun h x => if ours x || held.contains (4 * cl + h / 16) then {} else x) c.hwq
      fifos := mapVals (fun k f => if k / 16 == n then f.filter (·.1 != q) else f) c.fifos }) s.clusters }

/-! ### Data rings that end (R90, R100, R101) -/

/-- The queue a data ring follows. -/
def dringQueue (s : State) (n : Nat) (d : DataRing) : Nat := (graphOf s n d.graph).queue

/-- The data rings that follow a queue changed (R101). -/
def modFollowers (s : State) (n q : Nat) (f : DataRing → DataRing) : State :=
  modPart s n fun p => { p with rings := mapVals (fun _ d => if dringQueue s n d == q then f d else d) p.rings }

/-- A data ring to ERROR with a fault code and DETAIL; a stream that was opening is bound no more. -/
def dringFailed (s : State) (n d : Nat) (code : Byte) (detail : Word) : State :=
  modDring s n d fun r => if r.state == .resetting then r else { r with
    state := .error, fault := code, detail := detail, parkedPage := none, stallAt := none, opening := false }

/-- The fault of a data ring is a token to the FGE (R130), which accepts it at once unless it is paused. -/
def dringFault (s : State) (n d : Nat) (code : Byte) (detail : Word := 0) : State :=
  if fgePaused s then holdFault s { code := code, part := n, tag := none, detail := detail, ring := some d }
  else faultEvent (dringFailed s n d code detail) n code.toNat 0 0

/-- An address through the ring's space, from its ingress unit's die. -/
def dringXlate (s : State) (n : Nat) (r : DataRing) (u : Use) (va : Nat) : Xlate :=
  if r.host then translateHost s r.pasid va u else translate s r.unit n va u

/-- A translation that stops the ring (R100): it parks, or faults RING_FAULT; one that has been asked of the host only holds
it (R201), and so does the loss of the link (R24). -/
def dringStop (s : State) (n d : Nat) : Xlate → State
  | .atsMiss page => askHost s page
  | .at _ => s
  | x => match waitFor s n x with
  | some (page, s) => modDring s n d fun r => { r with parkedPage := some page }
  | none => dringFault s n d 0x32

/-- The publications of a ring written in order, as far as their pages are there (R90, R200); a permission fault ends them,
and takes a ring that is enabled to ERROR. -/
def writePubs (n d : Nat) : Nat → State → State
  | 0, s => s
  | k + 1, s =>
    let r := dringOf s n d
    match r.pubs with
    | [] => s
    | b :: rest =>
      let via (a : Nat) : Xlate := if b.host then translateHost s b.pasid a .write else translate s b.die n a .write
      if r.pubPage.isSome || (b.host && !s.dev.linkUp) then s
      else match placesVia via b.addr 4 with
        | .ok ps => if hostHeld s ps || (ps.any (·.host) && (r.state == .linkLost || r.state == .recovery)) then s else writePubs n d k (modDring (saveAt s ps (leBytes 4 b.value.toNat)) n d fun r => { r with pubs := rest })
        | .error x => match waitFor s n x with
          | some (page, s) => modDring s n d fun r => { r with pubPage := some page }
          | none =>
            let s := modDring s n d fun r => { r with pubs := [] }
            if r.enable then dringFault s n d 0x32 else s

/-- Every publication of a ring that can be written is (R90). -/
def flushPubs (s : State) (n d : Nat) : State := writePubs n d (dringOf s n d).pubs.length s

/-- P advanced to the consumed count: DRPUB, and the location DRPUBADDR names, which lies in the ring's own address space
(the model's choice: notes/assumptions/13). -/
def publish (s : State) (n d : Nat) : State :=
  let r := dringOf s n d
  if r.p == r.consumed then s
  else
    let b : Publication := ⟨r.consumed, r.pubAddr, r.host, r.pasid, r.unit⟩
    flushPubs (modDring s n d fun r => { r with p := r.consumed, pubs := if r.pubAddr = 0 then r.pubs else r.pubs ++ [b] }) n d

/-- A ring whose state is lost (R101): P per R90, IDLE with ENABLE 0, its streams' tags freed. -/
def resetDring (s : State) (n d : Nat) : State :=
  let r := dringOf s n d
  let s := if r.enable then publish s n d else s
  let s := (r.tag.toList ++ r.closings).foldl (fun s t => freeTag s n t) s
  modDring s n d fun r => { r with
    enable := false, state := .idle, rung := 0, fault := 0, detail := 0, packet := none, delivered := false, spanPos := 0
    samplePos := 0, tag := none, held := false
    stallAt := none, opening := false, bound := none, packer := none, closings := [], closeNext := false, parkedPage := none }

/-- The data rings that follow a queue lose their state when it reaches rung 3 (R101). -/
def resetRings (s : State) (n q : Nat) : State :=
  (((partOf s n).rings.filter fun d => dringQueue s n d.2 == q && (d.2.enable || d.2.tag.isSome || !d.2.closings.isEmpty)).map (·.1)).foldl
    (fun s d => resetDring s n d) s

/-- Rung 3 of a queue (R121, R127): its context is discarded, its unfinished INJECTs get records with the code and the
DETAIL, its regions are released (R257), and it stays in ERROR until CMD reset. A queue already there is left alone
(R133). -/
def toRung3 (s : State) (n q : Nat) (code : Byte) (detail : Word) : State :=
  let u := queueOf s n q
  if u.rung == 3 && (u.state == .resetting || u.state == .error) then s
  else
    let r := ((regionsOf s n q).head?).getD 0
    let s := forceLossy (ladderEvent s n q r 3) n q
    let acts := (partOf s n).acts.filter (·.queue == q)
    let s := modQueue s n q fun u => { u with state := .resetting, rung := 3, fault := code, detail := detail, merged := []
                                              failed := u.failed ++ u.merged.map (·.qseq), errorDue := false
                                              savedCtx := false, stallAt := none, fireStallAt := none, vPage := none }
    let s := discardContext s n q
    let s := acts.foldl (failActivation n q code detail) s
    let s := resetRings s n q
    let s := loseAll ((regionsOf s n q).foldl releaseRegion s) n
    modQueue s n q fun u => { u with state := .error, rung := 3 }

/-- Codes that take the owning queue alone to rung 3 (R130). -/
def ownerOnly (code : Byte) : Bool := [0x01, 0x02, 0x03, 0x20, 0x23].contains code.toNat

/-- Codes that a packet or a ring faults with (R130). -/
def packetCode (code : Byte) : Bool := 0x30 ≤ code.toNat && code.toNat ≤ 0x33

/-- TAKING A FAULT (R130): of a packet's or ring's, its queue or data ring goes to ERROR; of any other, a FAULT event, and rung 3 for the owning queue, or for every queue of the partition when the
code says so or no activation owns the tag (R164). For XLATE the event is all: the access is parked, and its manager
resolves it. -/
def takeFault (s : State) (f : FaultTok) : State :=
  let s := faultEvent s f.part f.code.toNat ((f.tag.map (·.toNat)).getD 0) f.region f.floor
  if let some d := f.ring then dringFailed s f.part d f.code f.detail
  else if let some q := f.queue.filter fun _ => packetCode f.code then modQueue s f.part q (faulted f.code f.detail)
  else
  let owner := match f.tag with
    | some t => ownerQueue s f.part t
    | none => f.queue
  let qs := match owner with
    | some q => if ownerOnly f.code then [q] else List.range 4
    | none => List.range 4
  if f.code = 0x10 then s else qs.foldl (fun s q => toRung3 s f.part q f.code f.detail) s

/-- Return to RUNG 0 (R121): a queue whose rung-2 context is restored, or that holds a region again after a drain, runs
with RUNG 0, and does not force its trace ring lossy any more (R150). -/
def backToRun (s : State) (n q : Nat) : State :=
  let s := modFollowers s n q fun d => if d.rung == 1 then { d with rung := 0 } else d
  unforce (modQueue s n q fun u => { u with
    state := if u.errorDue then .error else .run, rung := 0, savedCtx := false, holdSaved := false, errorDue := false }) n q

/-! ### Progress (R128) -/

/-- The partition has made progress now. -/
def progress (s : State) (n : Nat) : State := modPart s n fun p => { p with progressAt := tt s }

end Sys2Proof.Machine
end

