-- ==== Sys2Proof/Machine/Operands.lean ====
section
/-! DEFINITION. Operands and the firing rule (R158, R162, R168 to R172, R326): which tokens a firing reads, when the
slot is ready, and the lanes, mask and header that its results take. -/

namespace Sys2Proof.Machine

/-- The fields of an instruction word as a meaning takes them (R325). -/
structure Form where
  op : Nat
  a  : Nat
  b  : Nat
  d  : Nat
  e  : Nat
  t  : Nat
  deriving DecidableEq, Repr

/-- The form of an opcode from its fields. -/
def form (op : Nat) (a b : BitVec 4) (d e : BitVec 6) (t : BitVec 4) : Form :=
  ⟨op, a.toNat, b.toNat, d.toNat, e.toNat, t.toNat⟩

/-- An operand: a token, or a word that fills every lane (R162). -/
inductive Operand where
  | tok (t : Token) | word (w : Word)
  deriving DecidableEq, Repr

/-- A firing with its operands. `toks` are the tokens of the fields it reads, in the order L, R, P; `head` is the first
of them; `count` is the number of lanes and `mask` the mask that R162 gives. -/
structure Firing where
  el     : Nat
  v      : Bool
  slot   : Nat
  cfg    : Nat
  form   : Form
  stream : Bool
  a      : Operand
  b      : Operand
  p      : Option Token
  toks   : List Token
  head   : Token
  count  : Nat
  mask   : BitVec 8
  deriving DecidableEq, Repr

def Firing.part (f : Firing) : Nat := cfgPart f.cfg
def Firing.tag (f : Firing) : Tag := f.head.tag

/-- LEN + 1 of a token. -/
def lanesOf (t : Token) : Nat := t.lanes.length

/-- Lane `j` of a token; a masked or absent lane reads as zero (R379). -/
def tokLane (t : Token) (j : Nat) : Word := if t.mask.getLsbD j then t.lanes.getD j 0 else 0

/-- Lane `j` of an operand. -/
def laneOf : Operand → Nat → Word
  | .tok t, j => tokLane t j
  | .word w, _ => w

/-- Mask bit `j` of an operand: a word counts as all ones (R162). -/
def maskOf : Operand → Nat → Bool
  | .tok t, j => t.mask.getLsbD j
  | .word _, _ => true

/-- The low `n` bits of a mask set. -/
def lowMask (n : Nat) : BitVec 8 := BitVec.ofNat 8 (2 ^ n - 1)

/-- Token fields an instruction names: by ASEL, by BSEL where it reads B, and P where it reads P (R326, R351). -/
def namedFields (i : OpInfo) (fm : Form) : List Nat :=
  (List.range 3).filter fun k => fm.a == k || (i.readsB && fm.b == k) || (k == 2 && i.readsP)

/-- Token fields a firing reads: those named, or the trigger on L (R170). -/
def readFields (i : OpInfo) (fm : Form) : List Nat :=
  let ks := namedFields i fm
  if ks.isEmpty then [0] else ks

/-! ### The frame part -/

/-- The resident part of a tag under a configuration. -/
def findPart (e : Element) (cfg : Nat) (t : Tag) : Option FramePart :=
  e.parts.find? fun p => p.cfg == cfg && p.tag == t

/-- What a field of a part holds. -/
def fieldOf (p : FramePart) (slot k : Nat) : Option FieldVal := lookup none p.fields (3 * slot + k)

/-- The token a field holds. -/
def tokenIn (p : FramePart) (slot k : Nat) : Option Token :=
  match fieldOf p slot k with
  | some (.tok t) => some t
  | _ => none

/-- A part with a field set or emptied. -/
def putField (p : FramePart) (slot k : Nat) (x : Option FieldVal) : FramePart :=
  match x with
  | some v => { p with fields := store p.fields (3 * slot + k) (some v) }
  | none => { p with fields := erase p.fields (3 * slot + k) }

/-- An element with the part of a tag changed. -/
def modPartOf (e : Element) (cfg : Nat) (t : Tag) (g : FramePart → FramePart) : Element :=
  { e with parts := e.parts.map fun p => if p.cfg == cfg && p.tag == t then g p else p }

/-- A part with nothing in its fields and SEQ counter 0 is released (R168). -/
def dropEmpty (e : Element) (cfg : Nat) (t : Tag) : Element :=
  { e with parts := e.parts.filter fun p => !(p.cfg == cfg && p.tag == t && p.fields.isEmpty && p.seq == 0) }

/-! ### Readiness -/

/-- Whether the elements of a region run now: held by partition `n` in state RUN, its queue not frozen (R108, R123). -/
def regionRuns (s : State) (r n : Nat) : Bool :=
  let g := regionOf s r
  g.owner == n && n != 0 && (g.state == .run || g.state == .draining)

/-- Room at a destination (R166): a free entry in the input queue, what is on its way counted, or room in the spill
ring of its region (R175); an egress port's stream input or hardware queue holds 64 (R246, R258). -/
def hasRoom (s : State) (d : Dest) : Bool :=
  match d with
  | .slot el _ k _ port =>
    let q := if port then 3 else k
    let coming := ((s.net ++ s.orders.flatMap (·.results)).filter fun f => match f.dest with
      | .slot el' _ k' _ port' => el' == el && (if port' then 3 else k') == q
      | _ => false).length
    (lookup [] (elemOf s el).queues q).length + coming < 8 ||
      (regionOf s (elemRegion el)).spill.length < Config.spillRingTokens
  | .egress r p _ =>
    let coming := ((s.net ++ s.orders.flatMap (·.results)).filter fun f => match f.dest with
      | .egress r' p' _ => r' == r && p' == p
      | _ => false).length
    let there := if p < 8 then (lookup [] (regionOf s r).streams p).length
      else (lookup {} (clusterOf s (r / 4)).hwq (16 * (r % 4) + p - 8)).triggers.length
    there + coming < 64
  | _ => true

/-- Room at the destinations that D0 and D1 name. -/
def roomFor (s : State) (el : Nat) (v : Bool) (fm : Form) : Bool :=
  [fm.d, fm.e].all fun k => match route s el v k with | some d => hasRoom s d | none => true

/-- A source select as an operand (R326): `half` is 0 for A's literals and 8 for B's. -/
def source (s : State) (el : Nat) (v : Bool) (half code : Nat) (p : FramePart) (slot : Nat) (head : Token) : Operand :=
  if code ≤ 2 then match tokenIn p slot code with | some t => .tok t | none => .word 0
  else match code with
    | 3 => .word 0
    | 4 => .word 1
    | 5 => .word (head.tag.setWidth 32)
    | 6 => .word (head.seq.setWidth 32)
    | _ => .word (lookup 0 (elemOf s el).lits (key16 v (code - 8 + half)))

/-- Fewest lanes among tokens. -/
def fewest (ts : List Token) : Nat := ts.foldl (fun a t => min a (lanesOf t)) 8

/-- AND of tokens' masks over the low `n` lanes. -/
def andMask (n : Nat) (ts : List Token) : BitVec 8 := ts.foldl (fun m t => m &&& t.mask) (lowMask n)

/-- The first `n` lanes of a token, and what is left of it, moved down (R171). -/
def takeLanes (n : Nat) (t : Token) : Token := { t with lanes := t.lanes.take n, mask := t.mask &&& lowMask n }
def dropLanes (n : Nat) (t : Token) : Token := { t with lanes := t.lanes.drop n, mask := t.mask >>> n }

/-- An operand cut to `n` lanes. -/
def cutOperand (n : Nat) : Operand → Operand
  | .tok t => .tok (takeLanes n t)
  | .word w => .word w

/-- What a slot at a site can do. -/
inductive Ready where
  /-- Not ready: nothing happens. -/
  | wait
  /-- Stream mode: a data or NULL token facing an EOS has been dropped (R171). -/
  | dropped (s : State)
  /-- Every field read holds an EOS, now consumed. -/
  | eos (f : Firing) (s : State)
  /-- A poisoned operand, now consumed (R202). -/
  | poison (f : Firing) (s : State)
  /-- A NULL operand, now consumed (R172). -/
  | null (f : Firing) (s : State)
  /-- Operands consumed. -/
  | go (f : Firing) (s : State)
  deriving DecidableEq, Repr

/-- FIRE event of a firing, for one in 2^SAMPK (R142, R145), and the element's counts. One whose element holds for trace room is
judged when room appears (R153). -/
def countFiring (s : State) (el n op slot : Nat) (v : Bool) (tag : Tag) (floor : DWord) : State :=
  let e := elemOf s el
  let s' := setElem s el { e with fires := e.fires + 1, lastSlot := slot, clock := e.clock + 1 }
  let s' := progress s' n
  let g := (partOf s n).trace
  if e.fires % 2 ^ g.sampk = 0 || g.holders.contains (4096 * elemDie el + srcElem el) then
    emitEvent s' (elemDie el) (srcElem el) 0 0 n (op + 2 ^ 8 * slot + 2 ^ 12 * ofBit v + 2 ^ 13 * tag.toNat) floor
  else s'

/-- The greatest causal floor of tokens (R140). -/
def floorOf (ts : List Token) : DWord := ts.foldl (fun a t => laterFloor a t.floor) 0

/-- The table entries besides the slot's own that a firing of an instruction word needs. -/
def firingEntries (v : Bool) (slot w : Nat) : List TableEntry :=
  let op := bits w 31 24
  let a := bits w 23 20
  let b := bits w 19 16
  let lits := (if 8 ≤ a then [a - 8] else []) ++ (if 8 ≤ b && (opInfo op).any (·.readsB) then [b] else [])
  let routes := ([bits w 15 10, bits w 9 4].filter (· != 0)) ++ (if isCommand op then [48 + slot] else [])
  lits.map (.lit v ·) ++ routes.map (.route v ·)

/-- A firing of a slot needs an entry that is absent (R114). -/
def needsEntry (e : Element) (v : Bool) (slot : Nat) : Bool :=
  ([TableEntry.slot v slot, .attr v slot] ++ firingEntries v slot (lookup 0 e.instr (key16 v slot)).toNat).any e.absent.contains

/-- The site in hand, if its region runs, its slot holds a configuration's instruction and its entries are there. -/
structure Slot where
  el : Nat
  v : Bool
  slot : Nat
  tag : Tag
  cfg : Nat
  part : FramePart
  stream : Bool
  deriving DecidableEq, Repr

/-- A firing of MBXS or QPUT that held for room when its region was frozen is in flight: it may still complete (R411). -/
def holdsOn (s : State) (st : Site) (n : Nat) : Bool :=
  let g := regionOf s (elemRegion st.el)
  g.owner == n && n != 0 && g.state == .saving && (elemOf s st.el).holding.contains (key16 st.v st.slot, st.tag)

def slotInHand (s : State) : Option Slot :=
  match s.focus with
  | none => none
  | some st =>
    match ownerCfg s st.el st.v st.slot with
    | none => none
    | some c =>
      if !regionRuns s (elemRegion st.el) (cfgPart c) && !holdsOn s st (cfgPart c) then none
      else if needsEntry (elemOf s st.el) st.v st.slot then none
      else match findPart (elemOf s st.el) c st.tag with
        | none => none
        | some p => some ⟨st.el, st.v, st.slot, st.tag, c, p,
            (lookup 0 (elemOf s st.el).attrs (key16 st.v st.slot)).getLsbD 1⟩

/-- The state after the fields `ks` of the slot's part are emptied, or left with a remainder, and the firing counted. -/
def consume (s : State) (h : Slot) (op : Nat) (ks : List Nat) (rest : List (Nat × Token)) (floor : DWord) : State :=
  let s := countFiring s h.el (cfgPart h.cfg) op h.slot h.v h.tag floor
  modElem s h.el fun e => modPartOf { e with holding := e.holding.filter (· != (key16 h.v h.slot, h.tag)) } h.cfg h.tag fun p =>
    let p := { ks.foldl (fun p k => putField p h.slot k none) p with touch := e.clock, fresh := false }
    rest.foldl (fun p r => putField p h.slot r.1 (some (.tok r.2))) p

/-- The stream tag of a slot released after its EOS pair (R171). -/
def endStream (s : State) (h : Slot) : State :=
  modElem s h.el fun e => { e with streamTag := store e.streamTag (key16 h.v h.slot) none }

/-- The firing of a slot with the tokens of its fields. -/
def firingOf (s : State) (h : Slot) (fm : Form) (reads : List (Nat × Token)) (head : Token) (n : Nat) (mask : BitVec 8)
    (cut : Bool) : Firing :=
  let c := if cut then cutOperand n else id
  { el := h.el, v := h.v, slot := h.slot, cfg := h.cfg, form := fm, stream := h.stream,
    a := c (source s h.el h.v 0 fm.a h.part h.slot head), b := if (opInfo fm.op).any (·.readsB) then c (source s h.el h.v 8 fm.b h.part h.slot head) else .word 0,
    p := ((reads.find? (·.1 == 2)).map (·.2)).map (if cut then takeLanes n else id),
    toks := reads.map (·.2), head := head, count := n, mask := mask }

/-- An opcode of the float group, whose NULL firings count nothing (R363). -/
def floatGroup (op : Nat) : Bool := 0x30 ≤ op && op ≤ 0x5D

/-- An integer divide (R355). -/
def isDivide (op : Nat) : Bool := 0x0A ≤ op && op ≤ 0x0D

/-- Readiness of a slot whose fields `ks` are read (R158, R166, R169 to R172). With `compare` the operands' LENs meet:
the shortest fires, and the others lose their further lanes to LENDROP in tagged mode or keep them in stream mode. Without,
A gives the LEN and MASK, or the first token where A is none. -/
def gather (s : State) (h : Slot) (fm : Form) (ks : List Nat) (compare : Bool) : Ready :=
  let here := ks.filterMap fun k => (tokenIn h.part h.slot k).map fun t => (k, t)
  let isEos (x : Nat × Token) := x.2.kind == .eos
  if h.stream && here.any isEos && here.any (!isEos ·) then
    let bad := here.filter (!isEos ·)
    let s := modElem s h.el fun e => modPartOf e h.cfg h.tag fun p => bad.foldl (fun p x => putField p h.slot x.1 none) p
    .dropped (bad.foldl (fun s x => countEosMis s h.el x.2.ctx x.2.tag.toNat h.slot x.2.floor) s)
  else if here.length < ks.length then .wait
  else match here with
    | [] => .wait
    | (_, head) :: _ =>
      let toks := here.map (·.2)
      let floor := floorOf toks
      if h.stream && here.all isEos then
        .eos (firingOf s h fm here head 0 0 false) (endStream (consume s h fm.op ks [] floor) h)
      else
        let lead := ((here.find? (·.1 == fm.a)).map (·.2)).getD head
        let n := if compare then fewest toks else lanesOf lead
        let mask := andMask n (if compare then toks else [lead])
        let split := compare && h.stream
        let rest := if split then (here.filter fun x => n < lanesOf x.2).map fun x => (x.1, dropLanes n x.2) else []
        let f := firingOf s h fm here head n mask split
        let s' := consume s h fm.op ks rest floor
        if toks.any (·.poison) then .poison f s'
        else
          let uncounted := floatGroup fm.op && toks.any (·.kind == .null)
          let lost := if compare && !h.stream && !uncounted then (toks.map fun t => lanesOf t - n).sum else 0
          let s' := countLenDrop s' h.el head.ctx head.tag.toNat h.slot lost floor
          if toks.any (·.kind == .null) then .null f s' else .go f s'

/-! ### Results -/

/-- A result on its way out: the token and the destinations it goes to. -/
structure Out where
  tok : Token
  d0  : Bool := true
  d1  : Bool := true
  /-- The entry fixes SEQ at this value (R386, R388, R403). -/
  seq : Option (BitVec 12) := none
  deriving DecidableEq, Repr

/-- Lanes with the masked ones zero (R162). -/
def maskLanes (m : BitVec 8) (ls : List Word) : List Word := ls.mapIdx fun j w => if m.getLsbD j then w else 0

/-- A DATA result with the given lanes, mask, format, PRED and AUX word. -/
def dataTok (ls : List Word) (m : BitVec 8) (fmt : Fmt) (pred : Bool := false) (aux : Option Word := none) : Token :=
  { kind := .data, fmt := fmt, lanes := maskLanes m ls, mask := m &&& lowMask ls.length, pred := pred, aux := aux }

/-- A NULL result (R172): zero lanes, MASK 0; FMT 3 to 7 carries the AUX word 0 where none is given (R161, R243). -/
def nullTok (n : Nat) (fmt : Fmt) (pred : Bool) (aux : Option Word) : Token :=
  { kind := .null, fmt := fmt, lanes := List.replicate n 0, mask := 0, pred := pred,
    aux := if 3 ≤ fmtCode fmt then some (aux.getD 0) else aux }

/-- An EOS of a format (R161, R171). -/
def eosTok (fmt : Fmt) : Token := { kind := .eos, fmt := fmt }

/-- Whether a tag action stamps SEQ (R164). -/
def stampsSeq (act : Nat) : Bool := act == 7 || act == 8

/-- The SEQ counter of the firing's part. -/
def seqCounter (s : State) (f : Firing) : BitVec 12 :=
  match findPart (elemOf s f.el) f.cfg f.tag with
  | some p => p.seq
  | none => 0

/-- The next SEQ stamp (R164): under SEQ the counter, which advances; under SEQ0 zero, and the counter becomes 1. -/
def takeStamp (s : State) (f : Firing) : BitVec 12 × State :=
  let c := if f.form.t == 7 then seqCounter s f else 0
  (c, modElem s f.el fun e => modPartOf e f.cfg f.tag fun p => { p with seq := c + 1 })

/-- A result token with the header that R162 and the tag action give: TAG, SEQ, CTX, V and the causal floor. -/
def headed (f : Firing) (tag : Tag) (seq : BitVec 12) (t : Token) : Token :=
  { t with tag := tag, seq := seq, ctx := f.part, v := if f.form.t == 10 then !f.head.v else f.head.v,
           floor := laterFloor (floorOf f.toks) t.floor }

/-- One result sent to its destinations. -/
def sendOut (f : Firing) (tag : Tag) (s : State) (o : Out) : State :=
  let st := if stampsSeq f.form.t then takeStamp s f else (f.head.seq, s)
  let t := headed f tag (match o.seq with | some q => if stampsSeq f.form.t then st.1 else q | none => st.1) o.tok
  let from_ := some (key16 f.v f.slot)
  let s := if o.d0 then match route st.2 f.el f.v f.form.d with | some d => sendTok st.2 f.el t d from_ | none => st.2 else st.2
  if o.d1 then match route s f.el f.v f.form.e with | some d => sendTok s f.el t d from_ | none => s else s

/-- What follows the results of a firing: UPFREE and FREE free its tag (R164), and a part with nothing left is released
(R168). -/
def afterFiring (s : State) (f : Firing) : State :=
  let s := if f.form.t == 5 || f.form.t == 6 then freeTag s f.part f.tag (floorOf f.toks) else s
  modElem s f.el fun e => dropEmpty e f.cfg f.tag

/-- The bound K of a configuration (R164). -/
def boundOf (s : State) (c : Nat) : Nat := (graphAt s c).config.bound

/-- The firing's tag action: its result tag, or none while an allocation waits (R182). While a ladder drains the queue,
no tag is allocated (R121). -/
def resultTag (s : State) (f : Firing) : Option (Tag × State) :=
  match tagAction s f.part (boundOf s f.cfg) f.form.t f.tag (laneOf f.b 0) with
  | none => none
  | some (t, s') =>
    let allocated := (partOf s' f.part).tagNext != (partOf s f.part).tagNext
    if allocated && (regionOf s (elemRegion f.el)).state == .draining then none else some (t, s')

/-- A firing that emits nothing takes its tag action's stamp all the same (R164, R384). -/
def stampUnsent (s : State) (f : Firing) (outs : List Out) : State :=
  if outs.isEmpty && stampsSeq f.form.t then (takeStamp s f).2 else s

/-- The results of a firing: the tag action once, the tokens in order, then what follows. -/
def emit (s : State) (f : Firing) (outs : List Out) : Option State :=
  match resultTag s f with
  | none => none
  | some (tag, s) => some (afterFiring (outs.foldl (sendOut f tag) (stampUnsent s f outs)) f)

/-- How an opcode fires: whether operand LENs meet, the FMT, PRED and AUX word its results take, whether an EOS goes to
D1 too, how many lanes a NULL result has (R162), and what it does with its operands. The body answers none while it waits: then nothing happens. -/
structure Op where
  compare : Bool := true
  header  : Firing → Fmt × Bool × Option Word := fun _ => (.i32, false, none)
  eosD1   : Bool := true
  nullLanes : Firing → Nat := Firing.count
  body    : State → Firing → Option State

/-- A firing with a poisoned operand (R202): POISON, and no result. -/
def poisonFault (s : State) (f : Firing) : State :=
  elemFault (modElem s f.el fun e => dropEmpty e f.cfg f.tag) f.el f.v f.slot f.part f.tag 0x12

/-- What a slot does when it fires in the usual way (R169 to R172, R202). -/
def fireReady (o : Op) (s : State) : Ready → State
  | .wait => s
  | .dropped s' => s'
  | .poison f s' => poisonFault s' f
  | .eos f s' => (emit s' f [{ tok := eosTok f.head.fmt, d1 := o.eosD1 }]).getD s
  | .null f s' =>
    let (fmt, pred, aux) := o.header f
    (emit s' f [{ tok := nullTok (o.nullLanes f) fmt pred aux, d1 := o.eosD1 }]).getD s
  | .go f s' => (o.body s' f).getD s

/-- The allocator of a partition has no tag to give (R70). -/
def outOfTags (s : State) (n : Nat) : Bool := (newTag s n fun _ => {}).isNone

/-- The slot in hand waits for a tag alone (R182): its tag action allocates, none is free, it does not wait on K, and it
would fire, which it does not now, were the allocator empty of tags; a term of a sum that does not complete it allocates none (R386). -/
def stallsOnTag (fm : Form) (s : State) (go : State → Slot → State) (h : Slot) : Bool :=
  let n := cfgPart h.cfg
  (fm.t == 1 || fm.t == 2 || fm.t == 3) && outOfTags s n && (regionOf s (elemRegion h.el)).state != .draining &&
    !(fm.t == 2 && boundOf s h.cfg ≤ chainCount s n (headOf s n h.tag)) &&
    (go s h).elems == s.elems && (go (modPart s n fun p => { p with tags := [] }) h).elems != s.elems

/-- The start of a firing's tag stall noted for a queue, with where it stalls (R70, R132, R182). -/
def noteFiringStall (s : State) (n q : Nat) (pos : Word) : State :=
  modQueue s n q fun u => if u.fireStallAt.isSome then u else { u with fireStallAt := some (tt s), fireStallPos := pos }

/-- The slot in hand is a divide, and the divider of its element is busy (R157). -/
def dividerBusy (fm : Form) (s : State) (h : Slot) : Bool := isDivide fm.op && (elemOf s h.el).divider.isSome

/-- The firing of the slot in hand: nothing while its destinations have no room, the divider it needs is busy, or the trace ring holds
it (R150, R157, R158). -/
def fireSlot (fm : Form) (s : State) (go : State → Slot → State) : State :=
  match slotInHand s with
  | some h =>
    if !roomFor s h.el h.v fm || dividerBusy fm s h then s
    else if stallsOnTag fm s go h then noteFiringStall s (cfgPart h.cfg) (regionOf s (elemRegion h.el)).queue (faultDetail s h.el h.v h.slot)
    else holdForTrace s (go s h) (cfgPart h.cfg)
  | none => s

/-- The firing of the slot in hand by an opcode that reads its operands in the usual way. -/
def fire (o : Op) (fm : Form) (s : State) : State :=
  match opInfo fm.op with
  | some i => fireSlot fm s fun s h => fireReady o s (gather s h fm (readFields i fm) o.compare)
  | none => s

/-- The firing that a slot in hand has ready, if it goes in the usual way. -/
def readyFiring (o : Op) (fm : Form) (s : State) : Option Firing :=
  match slotInHand s, opInfo fm.op with
  | some h, some i =>
    match gather s h fm (readFields i fm) o.compare with
    | .go f _ => if roomFor s h.el h.v fm then some f else none
    | _ => none
  | _, _ => none

/-! ### QPUT's ring (R409) -/

def qputRing (x : Firing) : Nat := bits (laneOf x.a 0).toNat 5 0
def qputQueue (x : Firing) : Nat := bits (laneOf x.a 0).toNat 7 6

/-- QPUT is refused: its queue is not enabled or has no such ring. -/
def qputRefused (s : State) (x : Firing) : Bool :=
  let u := queueOf s x.part (qputQueue x)
  !u.enable || u.nrings ≤ qputRing x

end Sys2Proof.Machine
end

