-- ==== Sys2Proof/Machine/Integer.lean ====
section
/-! DEFINITION. The integer, logic and compare opcodes 0x01 to 0x27 (R350 to R359): each is one function of the lane
words of A, B and C, in the common mould of R353. -/

namespace Sys2Proof.Machine

/-- What an operation or event answers. -/
abbrev Answer := Host.Outcome State Fault Refusal

/-! ### The mould (R352, R353) -/

/-- Lane `j` of field P where the firing reads it. -/
def laneP (x : Firing) (j : Nat) : Word := match x.p with | some p => tokLane p j | none => 0

/-- The result lanes of a lane function of A, B and C (R353). -/
def lanesBy (f : Word → Word → Word → Word) (x : Firing) : List Word :=
  (List.range x.count).map fun j => f (laneOf x.a j) (laneOf x.b j) (laneP x j)

/-- FMT of an operand that is a token. -/
def fmtOfOperand : Operand → Option Fmt
  | .tok t => some t.fmt
  | .word _ => none

/-- PRED of an operand; a word leaves the choice to the tokens. -/
def predOfOperand : Operand → Option Bool
  | .tok t => some t.pred
  | .word _ => none

/-- FMT I32, PRED 0: arithmetic, shifts and counts. -/
def plainHeader (_ : Firing) : Fmt × Bool × Option Word := (.i32, false, none)

/-- FMT I32, PRED 1: compares. -/
def compareHeader (_ : Firing) : Fmt × Bool × Option Word := (.i32, true, none)

/-- FMT of A, or else of B, or else I32; PRED 1 when every token operand has it (AND, OR, XOR, ANDN). -/
def logicHeader (x : Firing) : Fmt × Bool × Option Word :=
  let preds := [predOfOperand x.a, predOfOperand x.b].filterMap id
  (((fmtOfOperand x.a).or (fmtOfOperand x.b)).getD .i32, !preds.isEmpty && preds.all id, none)

/-- FMT of A where it is a token, otherwise I32; PRED 0 (BFI, NOT). -/
def fmtAHeader (x : Firing) : Fmt × Bool × Option Word := ((fmtOfOperand x.a).getD .i32, false, none)

/-- An opcode whose result is one DATA token of a lane function (R353). -/
def laneOp (header : Firing → Fmt × Bool × Option Word) (f : Word → Word → Word → Word) : Op :=
  { header := header
    body := fun s x =>
      let (fmt, pred, aux) := header x
      emit s x [{ tok := dataTok (lanesBy f x) x.mask fmt pred aux }] }

/-! ### Lane functions (R356 to R359) -/

/-- sat_s of R356. -/
def satSigned (v : Int) : Word := BitVec.ofInt 32 (max (-2 ^ 31) (min v (2 ^ 31 - 1)))

def laneAddS (a b : Word) : Word := satSigned (a.toInt + b.toInt)
def laneAddUS (a b : Word) : Word := BitVec.ofNat 32 (min (a.toNat + b.toNat) 0xFFFFFFFF)
def laneSubS (a b : Word) : Word := satSigned (a.toInt - b.toInt)
def laneMulH (a b : Word) : Word := BitVec.ofInt 32 (a.toInt * b.toInt / 2 ^ 32)
def laneMulHU (a b : Word) : Word := BitVec.ofNat 32 (a.toNat * b.toNat / 2 ^ 32)

/-- IDIV (R357): truncates toward zero; by zero −1, and the one overflow wraps. -/
def laneDiv (a b : Word) : Word := if b = 0 then 0xFFFFFFFF#32 else BitVec.ofInt 32 (a.toInt.tdiv b.toInt)

/-- IREM (R357): the sign of the dividend; by zero the dividend. -/
def laneRem (a b : Word) : Word := if b = 0 then a else BitVec.ofInt 32 (a.toInt.tmod b.toInt)

def laneDivU (a b : Word) : Word := if b = 0 then 0xFFFFFFFF#32 else BitVec.ofNat 32 (a.toNat / b.toNat)
def laneRemU (a b : Word) : Word := if b = 0 then a else BitVec.ofNat 32 (a.toNat % b.toNat)

def laneMin (a b : Word) : Word := if a.toInt ≤ b.toInt then a else b
def laneMax (a b : Word) : Word := if b.toInt ≤ a.toInt then a else b
def laneMinU (a b : Word) : Word := if a.toNat ≤ b.toNat then a else b
def laneMaxU (a b : Word) : Word := if b.toNat ≤ a.toNat then a else b
def laneAbs (a : Word) : Word := if a.toInt < 0 then -a else a

/-- The shift amount of a lane (R358): b[4:0]. -/
def shiftAmount (b : Word) : Nat := b.toNat % 32

def laneShl (a b : Word) : Word := a <<< shiftAmount b
def laneShr (a b : Word) : Word := a >>> shiftAmount b
def laneSar (a b : Word) : Word := a.sshiftRight (shiftAmount b)
def laneRol (a b : Word) : Word := a.rotateLeft (shiftAmount b)

/-- Leading zero bits, 0 to 32. -/
def laneClz (a : Word) : Word := if a = 0 then 32 else BitVec.ofNat 32 (31 - log2 a.toNat)
def lanePopc (a : Word) : Word := BitVec.ofNat 32 (popCount 32 a.toNat)
def laneBrev (a : Word) : Word := BitVec.ofNat 32 (reverseBits 32 a.toNat)

/-- Position and length of a bit field (R359): the length is cut at bit 31. -/
def bitField (b : Word) : Nat × Nat := (bits b.toNat 4 0, min (bits b.toNat 13 8) (32 - bits b.toNat 4 0))

/-- BFX (R359). -/
def laneBfx (a b : Word) : Word :=
  let (pos, n) := bitField b
  let f := a.toNat / 2 ^ pos % 2 ^ n
  if n = 0 then 0
  else if bit b.toNat 16 && bit f (n - 1) then BitVec.ofNat 32 (f + (2 ^ 32 - 2 ^ n)) else BitVec.ofNat 32 f

/-- BFI (R359): `c` comes from field P. -/
def laneBfi (a b c : Word) : Word :=
  let (pos, n) := bitField b
  let m : Word := BitVec.ofNat 32 ((2 ^ n - 1) * 2 ^ pos)
  (a &&& ~~~m) ||| ((c <<< pos) &&& m)

/-- A predicate as a lane word. -/
def laneOfBool (b : Bool) : Word := if b then 1 else 0

/-! ### The opcodes -/

/-- IADD (R356). -/
def execIadd (a b : BitVec 4) (d e : BitVec 6) (t : BitVec 4) (s : State) : Answer :=
  .next (fire (laneOp plainHeader (fun a b _ => a + b)) (form 0x01 a b d e t) s)

/-- ISUB (R356). -/
def execIsub (a b : BitVec 4) (d e : BitVec 6) (t : BitVec 4) (s : State) : Answer :=
  .next (fire (laneOp plainHeader (fun a b _ => a - b)) (form 0x02 a b d e t) s)

/-- IADDS (R356). -/
def execIadds (a b : BitVec 4) (d e : BitVec 6) (t : BitVec 4) (s : State) : Answer :=
  .next (fire (laneOp plainHeader (fun a b _ => laneAddS a b)) (form 0x03 a b d e t) s)

/-- IADDUS (R356). -/
def execIaddus (a b : BitVec 4) (d e : BitVec 6) (t : BitVec 4) (s : State) : Answer :=
  .next (fire (laneOp plainHeader (fun a b _ => laneAddUS a b)) (form 0x04 a b d e t) s)

/-- ISUBS (R356). -/
def execIsubs (a b : BitVec 4) (d e : BitVec 6) (t : BitVec 4) (s : State) : Answer :=
  .next (fire (laneOp plainHeader (fun a b _ => laneSubS a b)) (form 0x05 a b d e t) s)

/-- IMUL (R356). -/
def execImul (a b : BitVec 4) (d e : BitVec 6) (t : BitVec 4) (s : State) : Answer :=
  .next (fire (laneOp plainHeader (fun a b _ => a * b)) (form 0x06 a b d e t) s)

/-- IMULH (R356). -/
def execImulh (a b : BitVec 4) (d e : BitVec 6) (t : BitVec 4) (s : State) : Answer :=
  .next (fire (laneOp plainHeader (fun a b _ => laneMulH a b)) (form 0x07 a b d e t) s)

/-- IMULHU (R356). -/
def execImulhu (a b : BitVec 4) (d e : BitVec 6) (t : BitVec 4) (s : State) : Answer :=
  .next (fire (laneOp plainHeader (fun a b _ => laneMulHU a b)) (form 0x08 a b d e t) s)

/-- IMAD (R356). -/
def execImad (a b : BitVec 4) (d e : BitVec 6) (t : BitVec 4) (s : State) : Answer :=
  .next (fire (laneOp plainHeader (fun a b c => a * b + c)) (form 0x09 a b d e t) s)

/-- A divide (R157, R355): a firing whose result mask is not all zero keeps the element's divider busy. -/
def divideOp (lane : Word → Word → Word → Word) : Op :=
  let o := laneOp plainHeader lane
  { o with body := fun s x => (o.body s x).map fun s =>
      if x.mask = 0 then s else modElem s x.el fun e => { e with divider := some (x.cfg, x.tag) } }

/-- IDIV (R357). -/
def execIdiv (a b : BitVec 4) (d e : BitVec 6) (t : BitVec 4) (s : State) : Answer :=
  .next (fire (divideOp (fun a b _ => laneDiv a b)) (form 0x0A a b d e t) s)

/-- IDIVU (R357). -/
def execIdivu (a b : BitVec 4) (d e : BitVec 6) (t : BitVec 4) (s : State) : Answer :=
  .next (fire (divideOp (fun a b _ => laneDivU a b)) (form 0x0B a b d e t) s)

/-- IREM (R357). -/
def execIrem (a b : BitVec 4) (d e : BitVec 6) (t : BitVec 4) (s : State) : Answer :=
  .next (fire (divideOp (fun a b _ => laneRem a b)) (form 0x0C a b d e t) s)

/-- IREMU (R357). -/
def execIremu (a b : BitVec 4) (d e : BitVec 6) (t : BitVec 4) (s : State) : Answer :=
  .next (fire (divideOp (fun a b _ => laneRemU a b)) (form 0x0D a b d e t) s)

/-- IMIN (R356). -/
def execImin (a b : BitVec 4) (d e : BitVec 6) (t : BitVec 4) (s : State) : Answer :=
  .next (fire (laneOp plainHeader (fun a b _ => laneMin a b)) (form 0x0E a b d e t) s)

/-- IMAX (R356). -/
def execImax (a b : BitVec 4) (d e : BitVec 6) (t : BitVec 4) (s : State) : Answer :=
  .next (fire (laneOp plainHeader (fun a b _ => laneMax a b)) (form 0x0F a b d e t) s)

/-- IMINU (R356). -/
def execIminu (a b : BitVec 4) (d e : BitVec 6) (t : BitVec 4) (s : State) : Answer :=
  .next (fire (laneOp plainHeader (fun a b _ => laneMinU a b)) (form 0x10 a b d e t) s)

/-- IMAXU (R356). -/
def execImaxu (a b : BitVec 4) (d e : BitVec 6) (t : BitVec 4) (s : State) : Answer :=
  .next (fire (laneOp plainHeader (fun a b _ => laneMaxU a b)) (form 0x11 a b d e t) s)

/-- IABS (R356). -/
def execIabs (a : BitVec 4) (d e : BitVec 6) (t : BitVec 4) (s : State) : Answer :=
  .next (fire (laneOp plainHeader (fun a _ _ => laneAbs a)) (form 0x12 a 0 d e t) s)

/-- INEG (R356). -/
def execIneg (a : BitVec 4) (d e : BitVec 6) (t : BitVec 4) (s : State) : Answer :=
  .next (fire (laneOp plainHeader (fun a _ _ => -a)) (form 0x13 a 0 d e t) s)

/-- AND (R356). -/
def execAnd (a b : BitVec 4) (d e : BitVec 6) (t : BitVec 4) (s : State) : Answer :=
  .next (fire (laneOp logicHeader (fun a b _ => a &&& b)) (form 0x14 a b d e t) s)

/-- OR (R356). -/
def execOr (a b : BitVec 4) (d e : BitVec 6) (t : BitVec 4) (s : State) : Answer :=
  .next (fire (laneOp logicHeader (fun a b _ => a ||| b)) (form 0x15 a b d e t) s)

/-- XOR (R356). -/
def execXor (a b : BitVec 4) (d e : BitVec 6) (t : BitVec 4) (s : State) : Answer :=
  .next (fire (laneOp logicHeader (fun a b _ => a ^^^ b)) (form 0x16 a b d e t) s)

/-- ANDN (R356). -/
def execAndn (a b : BitVec 4) (d e : BitVec 6) (t : BitVec 4) (s : State) : Answer :=
  .next (fire (laneOp logicHeader (fun a b _ => a &&& ~~~b)) (form 0x17 a b d e t) s)

/-- NOT (R356). -/
def execNot (a : BitVec 4) (d e : BitVec 6) (t : BitVec 4) (s : State) : Answer :=
  .next (fire (laneOp fmtAHeader (fun a _ _ => ~~~a)) (form 0x18 a 0 d e t) s)

/-- SHL (R358). -/
def execShl (a b : BitVec 4) (d e : BitVec 6) (t : BitVec 4) (s : State) : Answer :=
  .next (fire (laneOp plainHeader (fun a b _ => laneShl a b)) (form 0x19 a b d e t) s)

/-- SHR (R358). -/
def execShr (a b : BitVec 4) (d e : BitVec 6) (t : BitVec 4) (s : State) : Answer :=
  .next (fire (laneOp plainHeader (fun a b _ => laneShr a b)) (form 0x1A a b d e t) s)

/-- SAR (R358). -/
def execSar (a b : BitVec 4) (d e : BitVec 6) (t : BitVec 4) (s : State) : Answer :=
  .next (fire (laneOp plainHeader (fun a b _ => laneSar a b)) (form 0x1B a b d e t) s)

/-- ROL (R358). -/
def execRol (a b : BitVec 4) (d e : BitVec 6) (t : BitVec 4) (s : State) : Answer :=
  .next (fire (laneOp plainHeader (fun a b _ => laneRol a b)) (form 0x1C a b d e t) s)

/-- CLZ (R356). -/
def execClz (a : BitVec 4) (d e : BitVec 6) (t : BitVec 4) (s : State) : Answer :=
  .next (fire (laneOp plainHeader (fun a _ _ => laneClz a)) (form 0x1D a 0 d e t) s)

/-- POPC (R356). -/
def execPopc (a : BitVec 4) (d e : BitVec 6) (t : BitVec 4) (s : State) : Answer :=
  .next (fire (laneOp plainHeader (fun a _ _ => lanePopc a)) (form 0x1E a 0 d e t) s)

/-- BREV (R356). -/
def execBrev (a : BitVec 4) (d e : BitVec 6) (t : BitVec 4) (s : State) : Answer :=
  .next (fire (laneOp plainHeader (fun a _ _ => laneBrev a)) (form 0x1F a 0 d e t) s)

/-- BFX (R359). -/
def execBfx (a b : BitVec 4) (d e : BitVec 6) (t : BitVec 4) (s : State) : Answer :=
  .next (fire (laneOp plainHeader (fun a b _ => laneBfx a b)) (form 0x20 a b d e t) s)

/-- BFI (R359). -/
def execBfi (a b : BitVec 4) (d e : BitVec 6) (t : BitVec 4) (s : State) : Answer :=
  .next (fire (laneOp fmtAHeader (fun a b c => laneBfi a b c)) (form 0x21 a b d e t) s)

/-- ISEQ (R356). -/
def execIseq (a b : BitVec 4) (d e : BitVec 6) (t : BitVec 4) (s : State) : Answer :=
  .next (fire (laneOp compareHeader (fun a b _ => laneOfBool (a == b))) (form 0x22 a b d e t) s)

/-- ISNE (R356). -/
def execIsne (a b : BitVec 4) (d e : BitVec 6) (t : BitVec 4) (s : State) : Answer :=
  .next (fire (laneOp compareHeader (fun a b _ => laneOfBool (a != b))) (form 0x23 a b d e t) s)

/-- ISLT (R356). -/
def execIslt (a b : BitVec 4) (d e : BitVec 6) (t : BitVec 4) (s : State) : Answer :=
  .next (fire (laneOp compareHeader (fun a b _ => laneOfBool (a.slt b))) (form 0x24 a b d e t) s)

/-- ISLE (R356). -/
def execIsle (a b : BitVec 4) (d e : BitVec 6) (t : BitVec 4) (s : State) : Answer :=
  .next (fire (laneOp compareHeader (fun a b _ => laneOfBool (a.sle b))) (form 0x25 a b d e t) s)

/-- ISLTU (R356). -/
def execIsltu (a b : BitVec 4) (d e : BitVec 6) (t : BitVec 4) (s : State) : Answer :=
  .next (fire (laneOp compareHeader (fun a b _ => laneOfBool (a.ult b))) (form 0x26 a b d e t) s)

/-- ISLEU (R356). -/
def execIsleu (a b : BitVec 4) (d e : BitVec 6) (t : BitVec 4) (s : State) : Answer :=
  .next (fire (laneOp compareHeader (fun a b _ => laneOfBool (a.ule b))) (form 0x27 a b d e t) s)

end Sys2Proof.Machine
end

