-- ==== Sys2Proof/Machine/Float.lean ====
section
/-! DEFINITION. Numbers (R224 to R242): the exact value of every format's encodings, exact sums and products, and the
one rounding of a firing or a conversion. -/

namespace Sys2Proof.Machine

/-- An exact value: `fin neg m e` is (−1)^neg × m × 2^e, zero keeping its sign; `invalid` is the outcome of an invalid
operation (R232), a NaN that is counted. -/
inductive Num where
  | nan | invalid | inf (neg : Bool) | fin (neg : Bool) (m : Nat) (e : Int)
  deriving DecidableEq, Repr

/-- A rounded result: its encoding and whether it counts in NANCNT or OVFCNT (R232, R234). -/
structure Rounded where
  code : Nat
  nan  : Bool := false
  ovf  : Bool := false
  deriving DecidableEq, Repr

/-! ### Reading encodings (R225) -/

/-- A binary format: mantissa bits, bias, largest finite code, and whether the codes above it are infinities and
NaNs (`ieee`) or, in E4M3, only 0x7F is a NaN. -/
structure FloatFmt where
  width : Nat
  mbits : Nat
  bias  : Int
  top   : Nat
  deriving DecidableEq, Repr

def fp16 : FloatFmt := ⟨16, 10, 15, 0x7BFF⟩
def e4m3 : FloatFmt := ⟨8, 3, 7, 0x7E⟩
def e5m2 : FloatFmt := ⟨8, 2, 15, 0x7B⟩
def e2m1 : FloatFmt := ⟨4, 1, 1, 0x7⟩
def bf16 : FloatFmt := ⟨16, 7, 127, 0x7F7F⟩
def fp32 : FloatFmt := ⟨32, 23, 127, 0x7F7FFFFF⟩

/-- The value of an encoding of a format, subnormals at their value. Above the largest finite code stand the infinity
(its successor, but for E4M3) and the NaNs. -/
def valueOf (f : FloatFmt) (c : Nat) : Num :=
  let neg := bit c (f.width - 1)
  let mag := c % 2 ^ (f.width - 1)
  if mag > f.top then
    if f.mbits = 3 then .nan else if mag = f.top + 1 then .inf neg else .nan
  else
    let e := mag / 2 ^ f.mbits
    let m := mag % 2 ^ f.mbits
    if e = 0 then .fin neg m (1 - f.bias - f.mbits) else .fin neg (m + 2 ^ f.mbits) (e - f.bias - f.mbits)

/-- An F32 operand: a subnormal reads as zero of its sign (R232). -/
def f32 (w : Nat) : Num :=
  let w := w % 2 ^ 32
  if bits w 30 23 = 0 then .fin (bit w 31) 0 0 else valueOf fp32 w

/-- A BF16 operand (R233): extended exactly, subnormals read as zero. -/
def bf (w : Nat) : Num :=
  let w := w % 2 ^ 16
  if bits w 14 7 = 0 then .fin (bit w 15) 0 0 else valueOf bf16 w

/-- An S10 block scale (R228). -/
def s10Value (c : Nat) : Num :=
  let e := bits c 9 4
  let m := bits c 3 0
  if e = 63 then .nan else if e = 0 then .fin false m (-34) else .fin false (m + 16) ((e : Int) - 35)

/-! ### Exact arithmetic -/

/-- Sign of a product. -/
def mulNum : Num → Num → Num
  | .nan, _ => .nan
  | _, .nan => .nan
  | .invalid, _ => .invalid
  | _, .invalid => .invalid
  | .inf s, .inf t => .inf (s != t)
  | .inf s, .fin t m _ => if m = 0 then .invalid else .inf (s != t)
  | .fin t m _, .inf s => if m = 0 then .invalid else .inf (s != t)
  | .fin s m e, .fin t n g => .fin (s != t) (m * n) (e + g)

/-- A finite value as an integer multiple of 2^`lo`, for `lo` not above its exponent. -/
def scaled (lo : Int) : Num → Int
  | .fin s m e => let v : Int := m * 2 ^ (e - lo).toNat; if s then -v else v
  | _ => 0

/-- The exact sum of terms (R232, R382): a NaN term gives NaN; an invalid term or infinities of both signs are invalid;
an exact zero is +0 unless every term is −0. -/
def sumNums (ts : List Num) : Num :=
  if ts.any (· == .nan) then .nan
  else if ts.any (· == .invalid) then .invalid
  else
    let pos := ts.any (· == .inf false)
    let neg := ts.any (· == .inf true)
    if pos && neg then .invalid
    else if pos then .inf false
    else if neg then .inf true
    else
      let lo := ts.foldl (fun (a : Int) t => match t with | .fin _ m e => if m = 0 then a else min a e | _ => a) 0
      let v := ts.foldl (fun (a : Int) t => match t with
        | .fin _ m _ => if m = 0 then a else a + scaled lo t
        | _ => a) 0
      if v = 0 then
        .fin (!ts.isEmpty && ts.all fun t => match t with | .fin s m _ => s && m == 0 | _ => false) 0 0
      else .fin (v < 0) v.natAbs lo

/-- The negation of a value. -/
def negNum : Num → Num
  | .nan => .nan
  | .invalid => .invalid
  | .inf s => .inf (!s)
  | .fin s m e => .fin (!s) m e

/-! ### Rounding -/

/-- A quotient rounded to nearest, ties to even. -/
def rneDiv (n d : Nat) : Nat :=
  let q := n / d
  let r := n % d
  if 2 * r > d || (2 * r = d && q % 2 = 1) then q + 1 else q

/-- Floor of the base-2 logarithm of n / d, for positive n and d. -/
def log2Div (n d : Nat) : Int :=
  let l : Int := (log2 n : Int) - log2 d
  let less := if l < 0 then n * 2 ^ (-l).toNat < d else n < d * 2 ^ l.toNat
  if less then l - 1 else l

/-- n / d × 2^k rounded to an integer, to nearest even. -/
def rneShift (n d : Nat) (k : Int) : Nat :=
  if k < 0 then rneDiv n (d * 2 ^ (-k).toNat) else rneDiv (n * 2 ^ k.toNat) d

/-- n / d × 2^e rounded to `p` significant bits, no quantum below 2^`qmin`: the integer m and the exponent q of
m × 2^q, with m below 2^p. -/
def roundTo (p : Nat) (qmin : Option Int) (n d : Nat) (e : Int) : Nat × Int :=
  let q0 := log2Div n d + e - p + 1
  let q := match qmin with | some b => max q0 b | none => q0
  let m := rneShift n d (e - q)
  if m = 2 ^ p then (2 ^ (p - 1), q + 1) else (m, q)

/-- A positive n / d × 2^e in an 8-bit-exponent format of `p` significant bits under R232: one rounding, flush below
2^−126, infinity above the largest finite value. The code is F32's for p = 24 and BF16's for p = 8. -/
def packWide (p : Nat) (neg : Bool) (n d : Nat) (e : Int) : Rounded :=
  let sign := if neg then 2 ^ (p + 7) else 0
  let (m, q) := roundTo p none n d e
  let ex := q + (p - 1) + 127
  if ex < 1 then { code := sign }
  else if ex > 254 then { code := sign + 255 * 2 ^ (p - 1), ovf := true }
  else { code := sign + ex.toNat * 2 ^ (p - 1) + (m - 2 ^ (p - 1)) }

/-- Canonical NaN of the wide format of `p` significant bits (R226). -/
def nanWide (p : Nat) : Nat := 255 * 2 ^ (p - 1) + 2 ^ (p - 2)

/-- A value rounded once to F32 (p = 24, R232) or BF16 (p = 8, R233). -/
def roundWide (p : Nat) : Num → Rounded
  | .nan => { code := nanWide p }
  | .invalid => { code := nanWide p, nan := true }
  | .inf neg => { code := (if neg then 2 ^ (p + 7) else 0) + 255 * 2 ^ (p - 1) }
  | .fin neg m e => if m = 0 then { code := if neg then 2 ^ (p + 7) else 0 } else packWide p neg m 1 e

/-- n / d × 2^e converted to a narrow format (R234): one rounding, saturating to the largest finite code and counted
then. -/
def packNarrow (f : FloatFmt) (neg : Bool) (n d : Nat) (e : Int) : Rounded :=
  let sign := if neg then 2 ^ (f.width - 1) else 0
  if n = 0 then { code := sign }
  else
    let (m, q) := roundTo (f.mbits + 1) (some (1 - f.bias - f.mbits)) n d e
    let mag := if m < 2 ^ f.mbits then (m : Int) else (q + f.mbits + f.bias) * 2 ^ f.mbits + (m - 2 ^ f.mbits)
    if mag > f.top then { code := sign + f.top, ovf := true } else { code := sign + mag.toNat }

/-- The absolute value of a number as numerator, denominator and exponent divided by another. -/
def absDiv (m : Nat) (e : Int) (m' : Nat) (e' : Int) : Nat × Nat × Int := (m, m', e - e')

/-- The S10 value at or above n / d × 2^e (R229). -/
def s10RoundUp (n d : Nat) (e : Int) : Nat :=
  if n = 0 then 0
  else
    let ceil (k : Int) : Nat := if k < 0 then let dd := d * 2 ^ (-k).toNat; (n + dd - 1) / dd else (n * 2 ^ k.toNat + d - 1) / d
    let k := log2Div n d + e
    if k < -30 || (k = -30 && ceil (e + 34) ≤ 16) then ceil (e + 34)
    else
      let m := ceil (e - k + 4) - 16
      let (m, k) := if m = 16 then (0, k + 1) else (m, k)
      if k + 31 > 62 then 0x3EF else (k + 31).toNat * 16 + m

/-- The S10 code for an F32 or exact value (R229, R236): NaN gives 0x3FF, infinity 0x3EF. -/
def s10Of : Num → Nat
  | .nan => 0x3FF
  | .invalid => 0x3FF
  | .inf _ => 0x3EF
  | .fin _ m e => s10RoundUp m 1 e

/-! ### Comparison of wide encodings, subnormals read as zero -/

/-- An encoding of the wide format of `p` bits with a subnormal read as zero of its sign (R232). -/
def daz (p w : Nat) : Nat :=
  let w := w % 2 ^ (p + 8)
  if w % 2 ^ (p + 7) < 2 ^ (p - 1) then w / 2 ^ (p + 7) * 2 ^ (p + 7) else w

/-- Whether an encoding of the wide format is a NaN. -/
def isNanWide (p w : Nat) : Bool := w % 2 ^ (p + 7) > 255 * 2 ^ (p - 1)

/-- Rank of an encoding in increasing value, with −0 just below +0 (R365). -/
def rankWide (p w : Nat) : Int :=
  let m := daz p w % 2 ^ (p + 7)
  if bit w (p + 7) then -(m : Int) - 1 else m

/-- Rank with −0 equal to +0. -/
def rankEq (p w : Nat) : Int :=
  let m := daz p w % 2 ^ (p + 7)
  if bit w (p + 7) then -(m : Int) else m

/-- The value of an encoding of the wide format (24 F32, 8 BF16). -/
def wide (p w : Nat) : Num := if p = 24 then f32 w else bf w

/-- FMIN: the smaller, −0 below +0, x when equal; NaN gives canonical NaN (R365). -/
def minWide (p x y : Nat) : Nat :=
  if isNanWide p x || isNanWide p y then nanWide p
  else if rankWide p x ≤ rankWide p y then daz p x else daz p y

/-- FMAX: the larger, +0 above −0, x when equal; NaN gives canonical NaN (R365). -/
def maxWide (p x y : Nat) : Nat :=
  if isNanWide p x || isNanWide p y then nanWide p
  else if rankWide p y ≤ rankWide p x then daz p x else daz p y

/-! ### Rounding to integers -/

/-- A rounding mode of FRND and CVTFI: 0 nearest even, 1 toward zero, 2 down, 3 up. -/
def roundMag (mode : Nat) (neg : Bool) (m : Nat) (e : Int) : Nat :=
  if 0 ≤ e then m * 2 ^ e.toNat
  else
    let d := 2 ^ (-e).toNat
    match mode with
    | 0 => rneDiv m d
    | 1 => m / d
    | 2 => if neg then (m + d - 1) / d else m / d
    | _ => if neg then m / d else (m + d - 1) / d

/-- Integer square root by bits: the largest r below 2^k with r² ≤ n. -/
def isqrt (n : Nat) : Nat → Nat → Nat
  | 0, acc => acc
  | k + 1, acc => let t := acc + 2 ^ k; if t * t ≤ n then isqrt n k t else isqrt n k acc

end Sys2Proof.Machine
end

