-- ==== Sys2Proof/Machine/Special.lean ====
section
/-! DEFINITION. The special functions (R366, R367). RCPE and RSQE are exact roundings. EXP2, LOG2, TANH and SIGM are
free within 2 ulp: a fixed-point enclosure of the value bounds a free result that does not decrease with its input, and the points
the manual fixes are exact (notes/assumptions/5). -/

namespace Sys2Proof.Machine

/-- Bits of the fixed point. -/
def fixBits : Nat := 128

/-- ln 2 and log2 e in fixed point, rounded down. -/
def fixLn2 : Nat := 0xb17217f7d1cf79abc9e3b39803f2f6af
def fixLog2e : Nat := 0x171547652b82fe1777d0ffda0d23a7d11

/-- e^t for t below 1 in fixed point: `k` more terms of the series from term number `i`. -/
def expSeries (t : Nat) : Nat → Nat → Nat → Nat
  | 0, _, _ => 0
  | k + 1, i, term => term + expSeries t k (i + 1) (term * t / 2 ^ fixBits / (i + 1))

/-- 2^f for a fixed-point f below 1: within 4,096 units of the last place with what x itself loses. -/
def exp2Frac (f : Nat) : Nat := expSeries (f * fixLn2 / 2 ^ fixBits) 40 0 (2 ^ fixBits)

/-- The inverse hyperbolic tangent series of a fixed-point s: `k` more odd terms from power `pw`, exponent `i`. -/
def atanhSeries (s2 : Nat) : Nat → Nat → Nat → Nat
  | 0, _, _ => 0
  | k + 1, i, pw => pw / i + atanhSeries s2 k (i + 2) (pw * s2 / 2 ^ fixBits)

/-- An interval of positive values: [lo, hi] / den × 2^e. -/
structure Enclosure where
  lo  : Nat
  hi  : Nat
  den : Nat
  e   : Int
  deriving DecidableEq, Repr

/-- m × 2^e as fixed point, rounded down. -/
def toFix (m : Nat) (e : Int) : Nat :=
  let k := e + fixBits
  if k < 0 then m / 2 ^ (-k).toNat else m * 2 ^ k.toNat

/-- 2^x for x = ±m × 2^e, |x| below 2^9. -/
def encloseExp2 (neg : Bool) (m : Nat) (e : Int) : Enclosure :=
  let x := toFix m e
  let up : Nat := if neg ∧ x % 2 ^ fixBits ≠ 0 then 1 else 0
  let n : Int := if neg then -((x / 2 ^ fixBits : Nat) : Int) - up else x / 2 ^ fixBits
  let f : Nat := if neg then up * 2 ^ fixBits - x % 2 ^ fixBits else x % 2 ^ fixBits
  let v := exp2Frac f
  ⟨v - 4096, v + 4096, 2 ^ fixBits, n⟩

/-- e^x for x = ±m × 2^e. -/
def encloseExp (neg : Bool) (m : Nat) (e : Int) : Enclosure :=
  encloseExp2 neg (toFix m e * fixLog2e / 2 ^ fixBits) (-(fixBits : Int))

/-- |log2 x| for x = m × 2^e, and whether the logarithm is negative. -/
def encloseLog2 (m : Nat) (e : Int) : Bool × Enclosure :=
  let l := log2 m
  -- x = y × 2^k with y = m / 2^l, halved when above 1.4
  let big := m * 10 > 14 * 2 ^ l
  let k : Int := e + l + (if big then 1 else 0)
  let d := 2 ^ l * (if big then 2 else 1)
  let below := m < d
  let s := (if below then d - m else m - d) * 2 ^ fixBits / (m + d)
  let a := 2 * atanhSeries (s * s / 2 ^ fixBits) 30 1 s * fixLog2e / 2 ^ fixBits
  let total : Int := k * 2 ^ fixBits + (if below then -(a : Int) else a)
  (total < 0, ⟨total.natAbs - 512, total.natAbs + 512, 2 ^ fixBits, 0⟩)

/-- |tanh x| for x = m × 2^e below 10. -/
def encloseTanh (m : Nat) (e : Int) : Enclosure :=
  if e + log2 m < -12 then
    -- x − x³/3 up to x − x³/3 + 2x⁵/15, over the scale of x
    let sh := (-2 * e).toNat
    let one := 2 ^ (2 * sh)
    let sq := m * m * 2 ^ sh
    ⟨m * (15 * one - 5 * sq), m * (15 * one - 5 * sq + 2 * (m * m) * (m * m)), 15 * one, e⟩
  else
    let E := encloseExp true m (e + 1)
    let sc := 2 ^ (-E.e).toNat
    -- (1 − E) / (1 + E), with E falling in [lo, hi] / den / sc
    let d := E.den * sc
    ⟨(d - E.hi) * (d + E.lo), (d - E.lo) * (d + E.hi), (d + E.lo) * (d + E.hi), 0⟩

/-- 1 / (1 + e^−x) for x = ±m × 2^e. -/
def encloseSigm (neg : Bool) (m : Nat) (e : Int) : Enclosure :=
  let E := encloseExp true m e
  let sc := 2 ^ (-E.e).toNat
  let d := E.den * sc
  if neg then
    -- e^x / (1 + e^x)
    ⟨E.lo * (d + E.lo), E.hi * (d + E.hi), (d + E.lo) * (d + E.hi) / sc, E.e⟩
  else ⟨d * (d + E.lo), d * (d + E.hi), (d + E.lo) * (d + E.hi), 0⟩

/-- n / d × 2^−q rounded down. -/
def floorShift (n d : Nat) (q : Int) : Nat := if q < 0 then n * 2 ^ (-q).toNat / d else n / (d * 2 ^ q.toNat)

/-- n / d × 2^−q rounded up. -/
def ceilShift (n d : Nat) (q : Int) : Nat :=
  if q < 0 then (n * 2 ^ (-q).toNat + d - 1) / d else (n + d * 2 ^ q.toNat - 1) / (d * 2 ^ q.toNat)

/-- The least and the greatest F32 magnitude within 2 ulp of a value of the enclosure, the ulp being that of the
value (R366); the least may lie in the binade below, on its finer grid, but for a value of at least 2^−126 it is no zero. -/
def ulpBounds (b : Enclosure) : Nat × Nat :=
  let q := log2Div b.lo b.den - 23
  let lo2 := ceilShift b.lo b.den (q - 1) - 4
  let hi := floorShift b.hi b.den q + 2
  let lo := if 2 ^ 24 ≤ lo2 then packWide 24 false ((lo2 + 1) / 2) 1 (q + b.e) else packWide 24 false lo2 1 (q - 1 + b.e)
  let least := if -126 ≤ log2Div b.lo b.den + b.e then max lo.code (2 ^ 23) else lo.code
  (least, (packWide 24 false hi 1 (q + b.e)).code)

/-- Place of an F32 encoding in the order of values: the encodings of greater values stand higher. -/
def rankOf (w : Nat) : Nat := if bit w 31 then 2 ^ 31 - 1 - w % 2 ^ 31 else 2 ^ 31 + w % 2 ^ 31

/-- The encoding at a place. -/
def ofRank (r : Nat) : Nat := if r < 2 ^ 31 then 2 ^ 31 + (2 ^ 31 - 1 - r) else r - 2 ^ 31

/-- A free result of function `fn` for the input at place `key`, which does not decrease with `key` (R366): the results for the inputs
that agree with `key` above its lowest `k` bits lie from `lo` to `hi`, and a free value parts them between the lower and the upper half
of those inputs. -/
def freeRising (fn key : Nat) : Nat → Nat → Nat → Nat
  | 0, lo, hi => lo + (Config.specialBits (4 * 32 + fn) (BitVec.ofNat 32 key)).toNat % (hi - lo + 1)
  | k + 1, lo, hi =>
    let m := lo + (Config.specialBits (4 * k + fn) (BitVec.ofNat 32 (key / 2 ^ (k + 1)))).toNat % (hi - lo + 1)
    if bit key k then freeRising fn key k m hi else freeRising fn key k lo m

/-- The free result of special function `fn` for the input at place `key`, held between two encodings that do not decrease with the
input. -/
def specialWithin (fn key lo hi : Nat) : Rounded :=
  let c := ofRank (min (max (freeRising fn key 32 0 (2 ^ 32 - 1)) (rankOf lo)) (rankOf hi))
  let c := if c % 2 ^ 31 < 2 ^ 23 then c / 2 ^ 31 * 2 ^ 31 else c
  { code := c, ovf := c == 255 * 2 ^ 23 }

/-- The encoding of 2^k as a result (R366). -/
def pow2Code (k : Int) : Nat := (packWide 24 false 1 1 k).code

/-- The encoding of an integer. -/
def intCode (k : Int) : Nat := (roundWide 24 (.fin (k < 0) k.natAbs 0)).code

/-- RCPE (R367): 1/x rounded once to 8 significant bits. -/
def rcpe (x : Num) : Rounded :=
  match x with
  | .nan => { code := nanWide 24 }
  | .invalid => { code := nanWide 24, nan := true }
  | .inf neg => { code := if neg then 2 ^ 31 else 0 }
  | .fin neg m e =>
    if m = 0 then { code := (if neg then 2 ^ 31 else 0) + 255 * 2 ^ 23 }
    else
      let r := packWide 8 neg 1 m (-e)
      { r with code := r.code * 2 ^ 16 }

/-- RSQE (R367): 1/√x rounded once to 8 significant bits. -/
def rsqe (x : Num) : Rounded :=
  match x with
  | .nan => { code := nanWide 24 }
  | .invalid => { code := nanWide 24, nan := true }
  | .inf neg => if neg then { code := nanWide 24, nan := true } else { code := 0 }
  | .fin neg m e =>
    if m = 0 then { code := (if neg then 2 ^ 31 else 0) + 255 * 2 ^ 23 }
    else if neg then { code := nanWide 24, nan := true }
    else
      -- m × 2^e = n × 2^(2h); 1/√ = √(2^96 / n) / 2^48 × 2^−h, a sticky bit for what is cut
      let odd := e % 2 = 1
      let n := if odd then 2 * m else m
      let h := (if odd then e - 1 else e) / 2
      let r := isqrt (2 ^ 96 / n) 50 0
      let sticky := if r * r * n = 2 ^ 96 then 0 else 1
      let p := packWide 8 false (2 * r + sticky) 1 (-49 - h)
      { p with code := p.code * 2 ^ 16 }

/-- EXP2 (R367) of an F32 encoding. -/
def exp2F (w : Nat) : Rounded :=
  match f32 w with
  | .nan => { code := nanWide 24 }
  | .invalid => { code := nanWide 24, nan := true }
  | .inf neg => { code := if neg then 0 else 255 * 2 ^ 23 }
  | .fin neg m e =>
    if m = 0 then { code := 127 * 2 ^ 23 }
    else if 9 ≤ e + log2 m then (if neg then { code := 0 } else { code := 255 * 2 ^ 23, ovf := true })
    else
      let whole := 0 ≤ e || m % 2 ^ (-e).toNat = 0
      if whole then
        let k : Int := if 0 ≤ e then m * 2 ^ e.toNat else m / 2 ^ (-e).toNat
        packWide 24 false 1 1 (if neg then -k else k)
      else
        let b := encloseExp2 neg m e
        let (lo, hi) := ulpBounds b
        specialWithin 0 (rankOf w) (max lo (pow2Code b.e)) (min hi (pow2Code (b.e + 1)))

/-- LOG2 (R367) of an F32 encoding. -/
def log2F (w : Nat) : Rounded :=
  match f32 w with
  | .nan => { code := nanWide 24 }
  | .invalid => { code := nanWide 24, nan := true }
  | .inf neg => if neg then { code := nanWide 24, nan := true } else { code := 255 * 2 ^ 23 }
  | .fin neg m e =>
    if m = 0 then { code := 2 ^ 31 + 255 * 2 ^ 23 }
    else if neg then { code := nanWide 24, nan := true }
    else if isPow2 m then
      let k : Int := e + log2 m
      { code := intCode k }
    else
      let (s, b) := encloseLog2 m e
      let k : Int := e + log2 m
      let (lo, hi) := ulpBounds b
      -- between log2 of the powers of two next to x
      if s then specialWithin 1 (rankOf w) (2 ^ 31 + min hi (intCode (-k))) (2 ^ 31 + max lo (intCode (-k - 1)))
      else specialWithin 1 (rankOf w) (max lo (intCode k)) (min hi (intCode (k + 1)))

/-- The least result of a function at an input, of the bounds there and at the input below it: from one binade to the next the bound
of R366 itself may fall. -/
def leastOf (here below : Enclosure) : Nat := max (ulpBounds here).1 (ulpBounds below).1

/-- Magnitude and exponent of a finite F32 encoding, subnormals read as zero (R232). -/
def finParts (w : Nat) : Nat × Int := match f32 w with | .fin _ m e => (m, e) | _ => (0, 0)

/-- TANH (R367) of an F32 encoding; odd, since the free value is taken at the positive input. -/
def tanhF (w : Nat) : Rounded :=
  match f32 w with
  | .nan => { code := nanWide 24 }
  | .invalid => { code := nanWide 24, nan := true }
  | .inf neg => { code := (if neg then 2 ^ 31 else 0) + 127 * 2 ^ 23 }
  | .fin neg m e =>
    if m = 0 then { code := if neg then 2 ^ 31 else 0 }
    else if 4 ≤ e + log2 m || (-1 ≤ e + log2 m && 10 ≤ roundMag 1 false m e) then
      { code := (if neg then 2 ^ 31 else 0) + 127 * 2 ^ 23 }
    else
      let (m', e') := finParts (w % 2 ^ 31 - 1)
      let r := specialWithin 2 (rankOf (w % 2 ^ 31)) (if m' = 0 then (ulpBounds (encloseTanh m e)).1 else leastOf (encloseTanh m e) (encloseTanh m' e'))
        (min (ulpBounds (encloseTanh m e)).2 (127 * 2 ^ 23))
      { r with code := r.code + if neg then 2 ^ 31 else 0 }

/-- SIGM (R367) of an F32 encoding. -/
def sigmF (w : Nat) : Rounded :=
  match f32 w with
  | .nan => { code := nanWide 24 }
  | .invalid => { code := nanWide 24, nan := true }
  | .inf neg => { code := if neg then 0 else 127 * 2 ^ 23 }
  | .fin neg m e =>
    if m = 0 then { code := 126 * 2 ^ 23 }
    else if !neg && (5 ≤ e + log2 m || 18 ≤ roundMag 1 false m e) then { code := 127 * 2 ^ 23 }
    else if neg && 7 ≤ e + log2 m then { code := 0 }
    else
      let b := encloseSigm neg m e
      if neg then
        let (m', e') := finParts (w + 1)
        specialWithin 3 (rankOf w) (leastOf b (encloseSigm true m' e')) (min (ulpBounds b).2 (126 * 2 ^ 23))
      else specialWithin 3 (rankOf w) (max (ulpBounds b).1 (126 * 2 ^ 23)) (min (ulpBounds b).2 (127 * 2 ^ 23))

/-- The special function `fn` (0 EXP2, 1 LOG2, 2 TANH, 3 SIGM, 4 RCPE, 5 RSQE) of an F32 encoding. -/
def special (fn w : Nat) : Rounded :=
  match fn with
  | 0 => exp2F w
  | 1 => log2F w
  | 2 => tanhF w
  | 3 => sigmF w
  | 4 => rcpe (f32 w)
  | _ => rsqe (f32 w)

end Sys2Proof.Machine
end

