-- ==== Sys2Proof/Machine/FloatOps.lean ====
section
/-! DEFINITION. The float opcodes 0x30 to 0x43 (R361 to R367): each is one function of an element's encodings in the
firing format, with p significant bits: 24 for F32, 8 for BF16. -/

namespace Sys2Proof.Machine

/-! ### The firing format and the mould (R361, R363) -/

/-- Whether a firing computes in BF16x2 (R361): A is a token of FMT 2, or A is no token and B is one. -/
def firesBf16 (x : Firing) : Bool :=
  match x.a, x.b with
  | .tok t, _ => t.fmt == .bf16
  | .word _, .tok t => t.fmt == .bf16
  | .word _, .word _ => false

/-- Half `i` of a lane. -/
def half (w : Word) (i : Nat) : Nat := w.toNat / 2 ^ (16 * i) % 2 ^ 16

/-- A lane's result with what it counts, each at most once (R363). -/
structure LaneResult where
  word : Word
  nan  : Bool
  ovf  : Bool
  deriving DecidableEq, Repr

/-- An element function on one lane: once for F32, on both halves for BF16x2. -/
def floatLane (f : Nat → Nat → Nat → Nat → Rounded) (bf16 : Bool) (a b c : Word) : LaneResult :=
  if bf16 then
    let r (i : Nat) := f 8 (half a i) (half b i) (half c i)
    ⟨BitVec.ofNat 32 ((r 0).code + 2 ^ 16 * (r 1).code), (r 0).nan || (r 1).nan, (r 0).ovf || (r 1).ovf⟩
  else
    let r := f 24 a.toNat b.toNat c.toNat
    ⟨BitVec.ofNat 32 r.code, r.nan, r.ovf⟩

/-- Result lanes; a masked lane computes nothing and counts nothing (R363). -/
def floatLanes (f : Nat → Nat → Nat → Nat → Rounded) (x : Firing) : List LaneResult :=
  (List.range x.count).map fun j =>
    if x.mask.getLsbD j then floatLane f (firesBf16 x) (laneOf x.a j) (laneOf x.b j) (laneP x j) else ⟨0, false, false⟩

/-- FMT of the firing (R361). -/
def floatHeader (x : Firing) : Fmt × Bool × Option Word := (if firesBf16 x then .bf16 else .f32, false, none)

/-- An opcode that is an element function, with its counts. -/
def floatOp (header : Firing → Fmt × Bool × Option Word) (f : Nat → Nat → Nat → Nat → Rounded) : Op :=
  { header := header
    body := fun s x =>
      let ls := floatLanes f x
      let (fmt, pred, aux) := header x
      (emit s x [{ tok := dataTok (ls.map (·.word)) x.mask fmt pred aux }]).map fun s =>
        countFloat s x.el (ls.filter (·.nan)).length (ls.filter (·.ovf)).length }

/-! ### Element functions (R365, R367) -/

def eltAdd (p a b _c : Nat) : Rounded := roundWide p (sumNums [wide p a, wide p b])
def eltSub (p a b _c : Nat) : Rounded := roundWide p (sumNums [wide p a, negNum (wide p b)])
def eltMul (p a b _c : Nat) : Rounded := roundWide p (mulNum (wide p a) (wide p b))

/-- FMA (R365): exact product and sum, one rounding; a NaN z hides an invalid product. -/
def eltFma (p a b c : Nat) : Rounded := roundWide p (sumNums [mulNum (wide p a) (wide p b), wide p c])

def eltMin (p a b _c : Nat) : Rounded := { code := minWide p a b }
def eltMax (p a b _c : Nat) : Rounded := { code := maxWide p a b }

/-- The encoding with its sign replaced; NaN gives canonical NaN (R365). -/
def withSign (p a : Nat) (neg : Bool) : Rounded :=
  if isNanWide p a then { code := nanWide p }
  else { code := daz p a % 2 ^ (p + 7) + (if neg then 2 ^ (p + 7) else 0) }

def eltAbs (p a _b _c : Nat) : Rounded := withSign p a false
def eltNeg (p a _b _c : Nat) : Rounded := withSign p a (!bit a (p + 7))

/-- A predicate of an element. -/
def eltPred (b : Bool) : Rounded := { code := ofBit b }

/-- Whether either element is NaN. -/
def unordered (p a b : Nat) : Bool := isNanWide p a || isNanWide p b

def eltSeq (p a b _c : Nat) : Rounded := eltPred (!unordered p a b && rankEq p a == rankEq p b)
def eltSlt (p a b _c : Nat) : Rounded := eltPred (!unordered p a b && rankEq p a < rankEq p b)
def eltSle (p a b _c : Nat) : Rounded := eltPred (!unordered p a b && rankEq p a ≤ rankEq p b)
def eltSun (p a b _c : Nat) : Rounded := eltPred (unordered p a b)

/-- FSCALE (R365): x × 2^k with k the signed lane, or half, of B. -/
def eltScale (p a b _c : Nat) : Rounded :=
  let k := signed (if p = 24 then 32 else 16) b
  roundWide p (match wide p a with
    | .fin neg m e => .fin neg m (if m = 0 then 0 else e + k)
    | v => v)

/-- FRND (R365) in a mode: exact, the sign kept. -/
def eltRnd (mode : Nat) (p a _b _c : Nat) : Rounded :=
  roundWide p (match wide p a with
    | .fin neg m e => .fin neg (roundMag mode neg m e) 0
    | v => v)

/-- A special function (R366): in BF16x2 its F32 result rounded once more (R233). -/
def eltSpecial (fn p a _b _c : Nat) : Rounded :=
  if p = 24 then special fn a
  else
    let r := special fn (a * 2 ^ 16)
    let q := roundWide 8 (f32 r.code)
    { code := q.code, nan := r.nan, ovf := r.ovf || q.ovf }

/-! ### The opcodes -/

/-- FADD (R365). -/
def execFadd (a b : BitVec 4) (d e : BitVec 6) (t : BitVec 4) (s : State) : Answer :=
  .next (fire (floatOp floatHeader eltAdd) (form 0x30 a b d e t) s)

/-- FSUB (R365). -/
def execFsub (a b : BitVec 4) (d e : BitVec 6) (t : BitVec 4) (s : State) : Answer :=
  .next (fire (floatOp floatHeader eltSub) (form 0x31 a b d e t) s)

/-- FMUL (R365). -/
def execFmul (a b : BitVec 4) (d e : BitVec 6) (t : BitVec 4) (s : State) : Answer :=
  .next (fire (floatOp floatHeader eltMul) (form 0x32 a b d e t) s)

/-- FMA (R365). -/
def execFma (a b : BitVec 4) (d e : BitVec 6) (t : BitVec 4) (s : State) : Answer :=
  .next (fire (floatOp floatHeader eltFma) (form 0x33 a b d e t) s)

/-- FMIN (R365). -/
def execFmin (a b : BitVec 4) (d e : BitVec 6) (t : BitVec 4) (s : State) : Answer :=
  .next (fire (floatOp floatHeader eltMin) (form 0x34 a b d e t) s)

/-- FMAX (R365). -/
def execFmax (a b : BitVec 4) (d e : BitVec 6) (t : BitVec 4) (s : State) : Answer :=
  .next (fire (floatOp floatHeader eltMax) (form 0x35 a b d e t) s)

/-- FABS (R365). -/
def execFabs (a : BitVec 4) (d e : BitVec 6) (t : BitVec 4) (s : State) : Answer :=
  .next (fire (floatOp floatHeader eltAbs) (form 0x36 a 0 d e t) s)

/-- FNEG (R365). -/
def execFneg (a : BitVec 4) (d e : BitVec 6) (t : BitVec 4) (s : State) : Answer :=
  .next (fire (floatOp floatHeader eltNeg) (form 0x37 a 0 d e t) s)

/-- FSEQ (R365). -/
def execFseq (a b : BitVec 4) (d e : BitVec 6) (t : BitVec 4) (s : State) : Answer :=
  .next (fire (floatOp compareHeader eltSeq) (form 0x38 a b d e t) s)

/-- FSLT (R365). -/
def execFslt (a b : BitVec 4) (d e : BitVec 6) (t : BitVec 4) (s : State) : Answer :=
  .next (fire (floatOp compareHeader eltSlt) (form 0x39 a b d e t) s)

/-- FSLE (R365). -/
def execFsle (a b : BitVec 4) (d e : BitVec 6) (t : BitVec 4) (s : State) : Answer :=
  .next (fire (floatOp compareHeader eltSle) (form 0x3A a b d e t) s)

/-- FSUN (R365). -/
def execFsun (a b : BitVec 4) (d e : BitVec 6) (t : BitVec 4) (s : State) : Answer :=
  .next (fire (floatOp compareHeader eltSun) (form 0x3B a b d e t) s)

/-- FSCALE (R365). -/
def execFscale (a b : BitVec 4) (d e : BitVec 6) (t : BitVec 4) (s : State) : Answer :=
  .next (fire (floatOp floatHeader eltScale) (form 0x3C a b d e t) s)

/-- FRND (R365). -/
def execFrnd (a m : BitVec 4) (d e : BitVec 6) (t : BitVec 4) (s : State) : Answer :=
  .next (fire (floatOp floatHeader (eltRnd m.toNat)) (form 0x3D a m d e t) s)

/-- RCPE (R367). -/
def execRcpe (a : BitVec 4) (d e : BitVec 6) (t : BitVec 4) (s : State) : Answer :=
  .next (fire (floatOp floatHeader (eltSpecial 4)) (form 0x3E a 0 d e t) s)

/-- RSQE (R367). -/
def execRsqe (a : BitVec 4) (d e : BitVec 6) (t : BitVec 4) (s : State) : Answer :=
  .next (fire (floatOp floatHeader (eltSpecial 5)) (form 0x3F a 0 d e t) s)

/-- EXP2 (R367). -/
def execExp2 (a : BitVec 4) (d e : BitVec 6) (t : BitVec 4) (s : State) : Answer :=
  .next (fire (floatOp floatHeader (eltSpecial 0)) (form 0x40 a 0 d e t) s)

/-- LOG2 (R367). -/
def execLog2 (a : BitVec 4) (d e : BitVec 6) (t : BitVec 4) (s : State) : Answer :=
  .next (fire (floatOp floatHeader (eltSpecial 1)) (form 0x41 a 0 d e t) s)

/-- TANH (R367). -/
def execTanh (a : BitVec 4) (d e : BitVec 6) (t : BitVec 4) (s : State) : Answer :=
  .next (fire (floatOp floatHeader (eltSpecial 2)) (form 0x42 a 0 d e t) s)

/-- SIGM (R367). -/
def execSigm (a : BitVec 4) (d e : BitVec 6) (t : BitVec 4) (s : State) : Answer :=
  .next (fire (floatOp floatHeader (eltSpecial 3)) (form 0x43 a 0 d e t) s)

end Sys2Proof.Machine
end

