-- ==== Sys2Proof/Machine/Convert.lean ====
section
/-! DEFINITION. The conversions 0x50 to 0x5D (R368 to R376): each turns the elements of A, in packet order (R227),
into result elements, which fill lanes in order. -/

namespace Sys2Proof.Machine

/-! ### Elements and packets (R227, R368) -/

/-- Elements per lane of a format (R227). -/
def perLane : Fmt → Nat
  | .i32 => 1 | .f32 => 1 | .bf16 => 2 | .e4m3 => 4 | .e5m2 => 4 | .e2m1 => 8 | .ai8 => 4 | .ai4 => 8

/-- Element `i` of a lane that holds `n` elements. -/
def elementOf (n : Nat) (w : Word) (i : Nat) : Nat := w.toNat / 2 ^ (32 / n * i) % 2 ^ (32 / n)

/-- A lane from up to `n` elements; places not filled hold zero. -/
def laneFrom (n : Nat) (es : List Nat) : Word :=
  BitVec.ofNat 32 ((es.mapIdx fun i e => e % 2 ^ (32 / n) * 2 ^ (32 / n * i)).sum)

/-- A mask from its bits, lowest first. -/
def maskFrom (bs : List Bool) : BitVec 8 := BitVec.ofNat 8 ((bs.mapIdx fun j b => ofBit b * 2 ^ j).sum)

/-- How many lists of `n` a list of `k` entries takes. -/
def runsOf (n k : Nat) : Nat := (k + n - 1) / n

/-- The converted elements of each lane of A; none for a masked lane, whose elements hold zero. -/
def convertLanes (ns : Nat) (f : Nat → Rounded) (x : Firing) : List (Option (List Rounded)) :=
  (List.range x.count).map fun j =>
    if x.mask.getLsbD j then some ((List.range ns).map fun i => f (elementOf ns (laneOf x.a j) i)) else none

/-- Lanes of A with a counted element (R363). -/
def countedLanes (g : Rounded → Bool) (ls : List (Option (List Rounded))) : Nat :=
  (ls.filter fun l => match l with | some rs => rs.any g | none => false).length

/-- The result packets (R368): elements in order, `nr` to a lane, 8 lanes to a packet, a lane's mask bit the OR of its
sources'. -/
def convertPackets (ns nr : Nat) (fmt : Fmt) (aux : Option Word) (ls : List (Option (List Rounded))) : List Out :=
  let els : List (Nat × Bool) := ls.flatMap fun l => match l with
    | some rs => rs.map fun r => (r.code, true)
    | none => List.replicate ns (0, false)
  let lanes := (chunks nr (runsOf nr els.length) els).map fun c => (laneFrom nr (c.map (·.1)), c.any (·.2))
  (chunks 8 (runsOf 8 lanes.length) lanes).map fun c =>
    { tok := dataTok (c.map (·.1)) (maskFrom (c.map (·.2))) fmt false aux }

/-- A conversion: source and result elements per lane, result FMT, AUX word and element function, of the firing. -/
def convertOp (ns : Firing → Nat) (nr : Nat) (fmt : Fmt) (aux : Firing → Option Word) (f : Firing → Nat → Rounded) : Op :=
  { compare := false
    header := fun _ => (fmt, false, none)
    body := fun s x =>
      let ls := convertLanes (ns x) (f x) x
      (emit s x (convertPackets (ns x) nr fmt (aux x) ls)).map fun s =>
        countFloat s x.el (countedLanes (·.nan) ls) (countedLanes (·.ovf) ls) }

/-- A conversion whose function depends on no other operand. -/
def plainConvert (ns nr : Nat) (fmt : Fmt) (f : Nat → Rounded) : Op :=
  convertOp (fun _ => ns) nr fmt (fun _ => none) fun _ => f

/-! ### Element functions -/

/-- CVTFI (R370): rounding in [1:0] of the modifier, unsigned by bit 2; saturates and counts. -/
def eltToInt (m : Nat) (a : Nat) : Rounded :=
  let lo : Int := if bit m 2 then 0 else -2 ^ 31
  let hi : Int := if bit m 2 then 2 ^ 32 - 1 else 2 ^ 31 - 1
  let code (v : Int) : Nat := (v % 2 ^ 32).toNat
  match f32 a with
  | .inf neg => { code := code (if neg then lo else hi), ovf := true }
  | .fin neg n e =>
    let r : Int := roundMag (m % 4) neg n e
    let v := if neg then -r else r
    { code := code (max lo (min v hi)), ovf := v < lo || hi < v }
  | _ => { code := 0, ovf := true }

/-- CVTIF (R370): one rounding; never counts. -/
def eltFromInt (unsigned : Bool) (a : Nat) : Rounded :=
  let v : Int := if unsigned then a % 2 ^ 32 else signed 32 a
  { code := (roundWide 24 (.fin (v < 0) v.natAbs 0)).code }

/-- CVTFB (R371): a finite value beyond the BF16 maximum saturates and counts. -/
def eltToBf16 (a : Nat) : Rounded :=
  let r := roundWide 8 (f32 a)
  if r.ovf then { code := r.code / 2 ^ 15 * 2 ^ 15 + 0x7F7F, ovf := true } else r

/-- CVTBF (R371): exact, a subnormal becoming zero. -/
def eltFromBf16 (a : Nat) : Rounded := roundWide 24 (bf a)

/-- CVTFH (R371): FP16 with its subnormals. -/
def eltToFp16 (a : Nat) : Rounded :=
  match f32 a with
  | .inf neg => { code := (if neg then 0x8000 else 0) + 0x7C00 }
  | .fin neg m e => packNarrow fp16 neg m 1 e
  | _ => { code := 0x7E00 }

/-- CVTHF (R371): exact. -/
def eltFromFp16 (a : Nat) : Rounded := roundWide 24 (valueOf fp16 a)

/-- An infinite element under QE4, QE5, QE2 (R235): E5M2 keeps it, the others saturate and count. -/
def quantInf (fmt : Fmt) (g : FloatFmt) (neg : Bool) : Rounded :=
  let sign := if neg then 2 ^ (g.width - 1) else 0
  if fmt = .e5m2 then { code := sign + 0x7C } else { code := sign + g.top, ovf := true }

/-- The binary format of FMT 3 to 5. -/
def quantFormat : Fmt → FloatFmt
  | .e4m3 => e4m3 | .e5m2 => e5m2 | _ => e2m1

/-- QE4, QE5, QE2 of an element under an S10 scale (R236, R372). -/
def eltQuant (fmt : Fmt) (s10 : Nat) (a : Nat) : Rounded :=
  match s10Value s10 with
  | .fin _ sm se =>
    if sm = 0 then { code := 0 }
    else match f32 a with
      | .inf neg => quantInf fmt (quantFormat fmt) neg
      | .fin neg m e => packNarrow (quantFormat fmt) neg m sm (e - se)
      | _ => if fmt = .e2m1 then { code := 0, ovf := true } else { code := 0x7F }
  | _ => { code := 0 }

/-- QAI8, QAI4 of an element under an FP16 scale and zero point (R237, R373). Whether a NaN or an infinite element counts under a scale of
±0, where every element is zp, the rules leave open: it does not (notes/assumptions/60). -/
def eltQuantAi (qmax : Nat) (scale zp : Nat) (a : Nat) : Rounded :=
  match valueOf fp16 scale with
  | .fin sneg sm se =>
    if sm = 0 then { code := zp }
    else match f32 a with
      | .inf neg => { code := if neg == sneg then qmax else 0, ovf := true }
      | .fin neg m e =>
        let r : Int := rneShift m sm (e - se)
        let q := (if neg != sneg then -r else r) + zp
        { code := (max 0 (min q qmax)).toNat, ovf := q < 0 || (qmax : Int) < q }
      | _ => { code := zp, ovf := true }
  | _ => { code := zp }

/-- The scale of a packet of FMT 3 to 7 from its AUX word (R161). -/
def auxScale (fmt : Fmt) (aux : Nat) : Num :=
  if fmtCode fmt ≤ 5 then s10Value (aux % 2 ^ 10) else valueOf fp16 (aux % 2 ^ 16)

/-- The zero point of FMT 6 and 7 (R161). -/
def auxZp (fmt : Fmt) (aux : Nat) : Nat := if fmt = .ai4 then bits aux 19 16 else bits aux 23 16

/-- The value of an element code of FMT 3 to 7 before its scale (R239). -/
def codeValue (fmt : Fmt) (aux c : Nat) : Num :=
  match fmt with
  | .e4m3 => valueOf e4m3 c
  | .e5m2 => valueOf e5m2 c
  | .e2m1 => valueOf e2m1 c
  | _ => let d : Int := (c : Int) - auxZp fmt aux; .fin (d < 0) d.natAbs 0

/-- DQF of an element code (R374): NaN scales give NaN uncounted; an infinity under a zero scale is invalid. A zero product of an AI
element has the sign of q − zp times that of the scale, which no rule states (notes/assumptions/60). -/
def eltDequant (fmt : Fmt) (aux c : Nat) : Rounded :=
  match auxScale fmt aux with
  | .fin sneg sm se => roundWide 24 (mulNum (codeValue fmt aux c) (.fin sneg sm se))
  | _ => { code := nanWide 24 }

/-- SCALEOF (R375): the S10 value at or above |x| / fmax. -/
def eltScaleOf (m a : Nat) : Rounded :=
  let fmax := if m = 0 then 448 else if m = 1 then 57344 else 6
  match f32 a with
  | .inf _ => roundWide 24 (s10Value 0x3EF)
  | .fin _ n e => roundWide 24 (s10Value (s10RoundUp n fmax e))
  | _ => { code := nanWide 24 }

/-- Lane 0 of operand B. -/
def lane0B (x : Firing) : Nat := (laneOf x.b 0).toNat

/-- The AUX word of QAI8 and QAI4, and of RETAG to FMT 6 and 7 (R373, R376): [31:26] cleared, group code 3 written as 0,
and for FMT 7 [23:20] cleared. -/
def aiAux (fmt : Fmt) (w : Nat) : Word :=
  let g := bits w 25 24
  BitVec.ofNat 32 ((if g = 3 then 0 else g) * 2 ^ 24 + (if fmt = .ai4 then bits w 19 16 else bits w 23 16) * 2 ^ 16 + w % 2 ^ 16)

/-- QE4, QE5, QE2 (R372). -/
def quantOp (fmt : Fmt) : Op :=
  convertOp (fun _ => 1) (perLane fmt) fmt (fun x => some (BitVec.ofNat 32 (s10Of (f32 (lane0B x)))))
    fun x => eltQuant fmt (s10Of (f32 (lane0B x)))

/-- QAI8, QAI4 (R373). -/
def quantAiOp (fmt : Fmt) (qmax : Nat) : Op :=
  convertOp (fun _ => 1) (perLane fmt) fmt (fun x => some (aiAux fmt (lane0B x)))
    fun x => eltQuantAi qmax (lane0B x % 2 ^ 16) (auxZp fmt (lane0B x))

/-- AUX word of operand A; 0 where it carries none. -/
def auxOfA (x : Firing) : Nat := match x.a with | .tok t => ((t.aux.map (·.toNat)).getD 0) | .word _ => 0

/-- FMT of operand A; I32 where it is no token. -/
def fmtOfA (x : Firing) : Fmt := (fmtOfOperand x.a).getD .i32

/-- DQF (R374). -/
def dequantOp : Op :=
  convertOp (fun x => perLane (fmtOfA x)) 1 .f32 (fun _ => none) fun x => eltDequant (fmtOfA x) (auxOfA x)

/-- AUX word of RETAG (R376). -/
def retagAux (fmt : Fmt) (x : Firing) : Option Word :=
  if fmtCode fmt ≤ 2 then none
  else if fmtCode fmt ≤ 5 then some (BitVec.ofNat 32 (auxOfA x % 2 ^ 10))
  else some (aiAux fmt (auxOfA x))

/-- RETAG (R376): the lane words as they stand. -/
def retagOp (fmt : Fmt) : Op :=
  { compare := false
    header := fun _ => (fmt, false, none)
    body := fun s x => emit s x
      [{ tok := dataTok ((List.range x.count).map (laneOf x.a)) x.mask fmt false (retagAux fmt x) }] }

/-! ### The opcodes -/

/-- CVTFI (R370). -/
def execCvtfi (a m : BitVec 4) (d e : BitVec 6) (t : BitVec 4) (s : State) : Answer :=
  .next (fire (plainConvert 1 1 .i32 (eltToInt m.toNat)) (form 0x50 a m d e t) s)

/-- CVTIF (R370). -/
def execCvtif (a m : BitVec 4) (d e : BitVec 6) (t : BitVec 4) (s : State) : Answer :=
  .next (fire (plainConvert 1 1 .f32 (eltFromInt (m.getLsbD 2))) (form 0x51 a m d e t) s)

/-- CVTFB (R371). -/
def execCvtfb (a : BitVec 4) (d e : BitVec 6) (t : BitVec 4) (s : State) : Answer :=
  .next (fire (plainConvert 1 2 .bf16 eltToBf16) (form 0x52 a 0 d e t) s)

/-- CVTBF (R371). -/
def execCvtbf (a : BitVec 4) (d e : BitVec 6) (t : BitVec 4) (s : State) : Answer :=
  .next (fire (plainConvert 2 1 .f32 eltFromBf16) (form 0x53 a 0 d e t) s)

/-- CVTFH (R371). -/
def execCvtfh (a : BitVec 4) (d e : BitVec 6) (t : BitVec 4) (s : State) : Answer :=
  .next (fire (plainConvert 1 2 .i32 eltToFp16) (form 0x54 a 0 d e t) s)

/-- CVTHF (R371). -/
def execCvthf (a : BitVec 4) (d e : BitVec 6) (t : BitVec 4) (s : State) : Answer :=
  .next (fire (plainConvert 2 1 .f32 eltFromFp16) (form 0x55 a 0 d e t) s)

/-- QE4 (R372). -/
def execQe4 (a b : BitVec 4) (d e : BitVec 6) (t : BitVec 4) (s : State) : Answer :=
  .next (fire (quantOp .e4m3) (form 0x56 a b d e t) s)

/-- QE5 (R372). -/
def execQe5 (a b : BitVec 4) (d e : BitVec 6) (t : BitVec 4) (s : State) : Answer :=
  .next (fire (quantOp .e5m2) (form 0x57 a b d e t) s)

/-- QE2 (R372). -/
def execQe2 (a b : BitVec 4) (d e : BitVec 6) (t : BitVec 4) (s : State) : Answer :=
  .next (fire (quantOp .e2m1) (form 0x58 a b d e t) s)

/-- QAI8 (R373). -/
def execQai8 (a b : BitVec 4) (d e : BitVec 6) (t : BitVec 4) (s : State) : Answer :=
  .next (fire (quantAiOp .ai8 255) (form 0x59 a b d e t) s)

/-- QAI4 (R373). -/
def execQai4 (a b : BitVec 4) (d e : BitVec 6) (t : BitVec 4) (s : State) : Answer :=
  .next (fire (quantAiOp .ai4 15) (form 0x5A a b d e t) s)

/-- DQF (R374). -/
def execDqf (a : BitVec 4) (d e : BitVec 6) (t : BitVec 4) (s : State) : Answer :=
  .next (fire dequantOp (form 0x5B a 0 d e t) s)

/-- SCALEOF (R375). -/
def execScaleof (a m : BitVec 4) (d e : BitVec 6) (t : BitVec 4) (s : State) : Answer :=
  .next (fire (plainConvert 1 1 .f32 (eltScaleOf m.toNat)) (form 0x5C a m d e t) s)

/-- RETAG (R376). -/
def execRetag (a m : BitVec 4) (d e : BitVec 6) (t : BitVec 4) (s : State) : Answer :=
  .next (fire (retagOp (fmtOf m.toNat)) (form 0x5D a m d e t) s)

end Sys2Proof.Machine
end

