-- ==== Sys2Proof/Machine/Lanes.lean ====
section
/-! DEFINITION. Lane moves, reductions and VNZ, opcodes 0x60 to 0x6C (R378 to R383). -/

namespace Sys2Proof.Machine

/-- FMT, PRED and AUX word of operand A (R379). -/
def headerA (x : Firing) : Fmt × Bool × Option Word :=
  match x.a with
  | .tok t => (t.fmt, t.pred, t.aux)
  | .word _ => (.i32, false, none)

/-- PRED of operand A. -/
def predA (x : Firing) : Bool := (headerA x).2.1

/-- A result with A's header (R379). -/
def likeA (x : Firing) (ls : List Word) (m : BitVec 8) : Token :=
  let (fmt, pred, aux) := headerA x
  dataTok ls m fmt pred aux

/-- The lanes of A, `n` of them. -/
def lanesA (x : Firing) : List Word := (List.range x.count).map (laneOf x.a)

/-- A mask of `n` equal bits. -/
def fillMask (n : Nat) (b : Bool) : BitVec 8 := if b then lowMask n else 0

/-- An opcode whose results are a list computed from the firing; `drop` lanes count in LENDROP. -/
def moveOp (compare : Bool) (header : Firing → Fmt × Bool × Option Word) (outs : Firing → List Out)
    (drop : Firing → Nat := fun _ => 0) : Op :=
  { compare := compare, header := header
    body := fun s x => (emit s x (outs x)).map fun s => countLenDrop s x.el x.part x.tag.toNat x.slot (drop x) (floorOf x.toks) }

/-! ### Lane moves (R381) -/

def bcastOuts (n : Nat) (x : Firing) : List Out :=
  [{ tok := likeA x (List.replicate n (laneOf x.a 0)) (fillMask n (x.mask.getLsbD 0)) }]

/-- VLANE: beyond LEN the lane is zero with mask 0. -/
def laneOuts (k : Nat) (x : Firing) : List Out :=
  [{ tok := if k < x.count then likeA x [laneOf x.a k] (fillMask 1 (x.mask.getLsbD k)) else likeA x [0] 0 }]

/-- VINS: lane k = P[0][2:0] becomes b[0] with its mask bit. -/
def insOuts (x : Firing) : List Out :=
  let k := (laneP x 0).toNat % 8
  let n := max x.count (k + 1)
  let lanes := (List.range n).map fun j => if j = k then laneOf x.b 0 else if j < x.count then laneOf x.a j else 0
  let mask := maskFrom ((List.range n).map fun j => if j = k then maskOf x.b 0 else j < x.count && x.mask.getLsbD j)
  [{ tok := likeA x lanes mask }]

/-- Lanes and mask bits of an operand of VMERGE; a word fills the firing's LEN. -/
def mergeSide (x : Firing) : Operand → List (Word × Bool)
  | .tok t => (List.range (lanesOf t)).map fun j => (tokLane t j, t.mask.getLsbD j)
  | .word w => List.replicate x.count (w, true)

def mergeAll (x : Firing) : List (Word × Bool) := mergeSide x x.a ++ mergeSide x x.b

/-- VMERGE: up to 8 lanes; the rest is dropped and counted. -/
def mergeOuts (x : Firing) : List Out :=
  let ls := (mergeAll x).take 8
  [{ tok := likeA x (ls.map (·.1)) (maskFrom (ls.map (·.2))) }]

/-- VSPLIT: lanes 0 to k − 1 to D0 and the rest, if any, to D1. -/
def splitOuts (k : Nat) (x : Firing) : List Out :=
  let lo : Out := { tok := likeA x ((lanesA x).take k) (x.mask &&& lowMask k), d1 := false }
  if k < x.count then [lo, { tok := likeA x ((lanesA x).drop k) (x.mask >>> k), d0 := false }] else [lo]

def maskOuts (x : Firing) : List Out := [{ tok := likeA x (lanesA x) (x.mask &&& (laneOf x.b 0).setWidth 8) }]

/-- VLEN's lane from a token's header. -/
def lenWord (t : Token) : Word :=
  BitVec.ofNat 32 (lanesOf t + 2 ^ 4 * popCount 8 t.mask.toNat + 2 ^ 8 * t.mask.toNat + 2 ^ 16 * fmtCode t.fmt +
    2 ^ 19 * ofBit t.pred + 2 ^ 20 * ofBit t.aux.isSome)

/-- The token of A; the trigger where A is a word. -/
def tokA (x : Firing) : Token := match x.a with | .tok t => t | .word _ => x.head

def lenOuts (x : Firing) : List Out := [{ tok := dataTok [lenWord (tokA x)] 1 .i32 (predA x) }]

/-- VIOTA: a[0] + j. -/
def iotaOuts (n : Nat) (x : Firing) : List Out :=
  [{ tok := dataTok ((List.range n).map fun j => laneOf x.a 0 + BitVec.ofNat 32 j) (fillMask n (x.mask.getLsbD 0)) .i32
      (predA x) (headerA x).2.2 }]

/-- FMT I32 with A's PRED and no AUX word. -/
def countHeader (x : Firing) : Fmt × Bool × Option Word := (.i32, predA x, none)

/-- VBCAST (R381). -/
def execVbcast (a m : BitVec 4) (d e : BitVec 6) (t : BitVec 4) (s : State) : Answer :=
  .next (fire (moveOp false headerA (bcastOuts (m.toNat + 1))) (form 0x60 a m d e t) s)

/-- VLANE (R381). -/
def execVlane (a m : BitVec 4) (d e : BitVec 6) (t : BitVec 4) (s : State) : Answer :=
  .next (fire (moveOp false headerA (laneOuts m.toNat)) (form 0x61 a m d e t) s)

/-- VINS (R381). -/
def execVins (a b : BitVec 4) (d e : BitVec 6) (t : BitVec 4) (s : State) : Answer :=
  .next (fire (moveOp false headerA insOuts) (form 0x62 a b d e t) s)

/-- VMERGE (R381): a NULL result has the shorter LEN of the two (R162, R172). -/
def execVmerge (a b : BitVec 4) (d e : BitVec 6) (t : BitVec 4) (s : State) : Answer :=
  .next (fire { moveOp false headerA mergeOuts fun x => (mergeAll x).length - 8 with nullLanes := fun x => fewest x.toks }
    (form 0x63 a b d e t) s)

/-- VSPLIT (R381). -/
def execVsplit (a m : BitVec 4) (d e : BitVec 6) (t : BitVec 4) (s : State) : Answer :=
  .next (fire (moveOp false headerA (splitOuts m.toNat)) (form 0x64 a m d e t) s)

/-- VMASK (R381). -/
def execVmask (a b : BitVec 4) (d e : BitVec 6) (t : BitVec 4) (s : State) : Answer :=
  .next (fire (moveOp false headerA maskOuts) (form 0x65 a b d e t) s)

/-- VLEN (R381). -/
def execVlen (a : BitVec 4) (d e : BitVec 6) (t : BitVec 4) (s : State) : Answer :=
  .next (fire (moveOp false countHeader lenOuts) (form 0x6A a 0 d e t) s)

/-- VIOTA (R381). -/
def execViota (a m : BitVec 4) (d e : BitVec 6) (t : BitVec 4) (s : State) : Answer :=
  .next (fire (moveOp false (fun x => (.i32, predA x, (headerA x).2.2)) (iotaOuts (m.toNat + 1))) (form 0x6C a m d e t) s)

/-! ### Reductions (R382) -/

/-- Whether a reduction computes in I32: its first token operand has FMT 0. -/
def reducesInt (x : Firing) : Bool := ((fmtOfOperand x.a).or (fmtOfOperand x.b)) == some .i32

/-- Significant bits of the firing format. -/
def firingBits (x : Firing) : Nat := if firesBf16 x then 8 else 24

/-- The lanes that take part. -/
def liveLanes (x : Firing) : List Nat := (List.range x.count).filter x.mask.getLsbD

/-- The float elements of an operand in the lanes that take part. -/
def elementsIn (x : Firing) (o : Operand) : List Nat :=
  (liveLanes x).flatMap fun j =>
    if firesBf16 x then [half (laneOf o j) 0, half (laneOf o j) 1] else [(laneOf o j).toNat]

/-- An F32 encoding of an encoding of the firing format. -/
def widen (x : Firing) (c : Nat) : Nat := if firesBf16 x then c * 2 ^ 16 else c

def reduceSum (x : Firing) : Rounded :=
  if reducesInt x then { code := ((liveLanes x).map fun j => (laneOf x.a j).toNat).sum % 2 ^ 32 }
  else roundWide 24 (sumNums ((elementsIn x x.a).map (wide (firingBits x))))

def reduceDot (x : Firing) : Rounded :=
  if reducesInt x then { code := ((liveLanes x).map fun j => (laneOf x.a j).toNat * (laneOf x.b j).toNat).sum % 2 ^ 32 }
  else
    let p := firingBits x
    roundWide 24 (sumNums (List.zipWith (fun u v => mulNum (wide p u) (wide p v)) (elementsIn x x.a) (elementsIn x x.b)))

/-- VMAX and VMIN: the integer or float choice folded over what takes part. -/
def reducePick (int : Word → Word → Word) (flt : Nat → Nat → Nat → Nat) (x : Firing) : Rounded :=
  if reducesInt x then
    match (liveLanes x).map (laneOf x.a) with
    | w :: ws => { code := (ws.foldl int w).toNat }
    | [] => { code := 0 }
  else
    match elementsIn x x.a with
    | c :: cs => { code := widen x (cs.foldl (flt (firingBits x)) (flt (firingBits x) c c)) }
    | [] => { code := 0 }

/-- FMT of a reduction's result. -/
def reduceHeader (x : Firing) : Fmt × Bool × Option Word := (if reducesInt x then .i32 else .f32, predA x, none)

/-- A reduction: one lane, masked when no lane takes part. -/
def reduceOp (r : Firing → Rounded) : Op :=
  { header := reduceHeader
    body := fun s x =>
      let (fmt, pred, _) := reduceHeader x
      let v := if (liveLanes x).isEmpty then { code := 0 } else r x
      (emit s x [{ tok := dataTok [BitVec.ofNat 32 v.code] (fillMask 1 (!(liveLanes x).isEmpty)) fmt pred }]).map fun s =>
        countFloat s x.el (ofBit v.nan) (ofBit v.ovf) }

/-- VSUM (R382). -/
def execVsum (a : BitVec 4) (d e : BitVec 6) (t : BitVec 4) (s : State) : Answer :=
  .next (fire (reduceOp reduceSum) (form 0x66 a 0 d e t) s)

/-- VMAX (R382). -/
def execVmax (a : BitVec 4) (d e : BitVec 6) (t : BitVec 4) (s : State) : Answer :=
  .next (fire (reduceOp (reducePick laneMax maxWide)) (form 0x67 a 0 d e t) s)

/-- VMIN (R382). -/
def execVmin (a : BitVec 4) (d e : BitVec 6) (t : BitVec 4) (s : State) : Answer :=
  .next (fire (reduceOp (reducePick laneMin minWide)) (form 0x68 a 0 d e t) s)

/-- VDOT (R382). -/
def execVdot (a b : BitVec 4) (d e : BitVec 6) (t : BitVec 4) (s : State) : Answer :=
  .next (fire (reduceOp reduceDot) (form 0x69 a b d e t) s)

/-! ### VNZ (R240, R383) -/

/-- Whether an element code is nonzero (R240): an integer by all its bits, an AI code against its zero point, a float by
its magnitude bits. -/
def codeNonzero (fmt : Fmt) (aux c : Nat) : Bool :=
  match fmt with
  | .i32 => c != 0
  | .ai8 => c != auxZp fmt aux
  | .ai4 => c != auxZp fmt aux
  | _ => c % 2 ^ (32 / perLane fmt - 1) != 0

/-- Whether each element of A is nonzero, in packet order; an element of a masked lane is not. -/
def nonzeroMap (x : Firing) : List Bool :=
  let t := tokA x
  let n := perLane t.fmt
  let aux := (t.aux.map (·.toNat)).getD 0
  (List.range x.count).flatMap fun j => (List.range n).map fun i =>
    x.mask.getLsbD j && codeNonzero t.fmt aux (elementOf n (laneOf x.a j) i)

/-- 32 bits of a list of Bools from place `k`. -/
def bitsWord (bs : List Bool) (k : Nat) : Word :=
  BitVec.ofNat 32 ((((bs.drop k).take 32).mapIdx fun i b => ofBit b * 2 ^ i).sum)

def vnzOuts (map : Bool) (x : Firing) : List Out :=
  let bs := nonzeroMap x
  [{ tok := if map then dataTok [bitsWord bs 0, bitsWord bs 32] 3 .i32 (predA x)
            else dataTok [BitVec.ofNat 32 (bs.filter id).length] 1 .i32 (predA x) }]

/-- VNZ (R383). -/
def execVnz (a m : BitVec 4) (d e : BitVec 6) (t : BitVec 4) (s : State) : Answer :=
  .next (fire (moveOp false countHeader (vnzOuts (m.getLsbD 0))) (form 0x6B a m d e t) s)

end Sys2Proof.Machine
end

