-- ==== Sys2Proof/Machine/Records.lean ====
section
/-! DEFINITION. Buffer records (R191 to R195): which location a coordinate names, its bounds, and the reading and
writing of a record's lanes. -/

namespace Sys2Proof.Machine

/-- Record `idx` of a configuration's pool. -/
def recOf (s : State) (cfg idx : Nat) : Option Rec := ((graphAt s cfg).config.recs.find? (·.1 == idx)).map (·.2)

/-- A record changed: only OOBCNT and TICKET are device-written (R192). -/
def modRec (s : State) (cfg idx : Nat) (f : Rec → Rec) : State :=
  modGraphAt s cfg fun g => { g with config := { g.config with
    recs := mapVals (fun k r => if k == idx then f r else r) g.config.recs } }

/-- Lanes out of bounds counted (R194): OOBCNT saturates. -/
def countOob (s : State) (cfg idx n : Nat) : State :=
  if n = 0 then s else modRec s cfg idx fun r => { r with oobcnt := satAdd r.oobcnt n }

/-- Rights of a record: 0 read, 1 write, 2 atomic. -/
def hasRight (r : Rec) (k : Nat) : Bool := r.rights.getLsbD k

/-- A coordinate with cd = 0 for d ≥ NDIM (R193). -/
def clipCoord (r : Rec) (c : List Nat) : List Nat := (List.range 4).map fun d => if d < r.ndim then c.getD d 0 else 0

/-- The coordinate that operand A's lanes 0 to 3 give (R394). -/
def coordOf (r : Rec) (a : Token) : List Nat := clipCoord r ((List.range 4).map fun d => (tokLane a d).toNat)

/-- For FMT 3 to 7, c0 is taken down to a multiple of W (R195). -/
def snapCoord (r : Rec) (c : List Nat) : List Nat :=
  if 3 ≤ fmtCode r.fmt then (c.getD 0 0 / r.w * r.w) :: c.drop 1 else c

/-- lane_address of R193: whether lane `j` is in bounds, and its virtual address. -/
def laneAddress (r : Rec) (c : List Nat) (j : Nat) : Bool × Nat :=
  let x0 := c.getD 0 0 + j
  let inside := x0 < r.ext.getD 0 0 && (List.range r.ndim).all fun d => d == 0 || c.getD d 0 < r.ext.getD d 0
  let g := x0 + c.getD 1 0 * r.str.getD 0 0 + c.getD 2 0 * r.str.getD 1 0 + c.getD 3 0 * r.str.getD 2 0
  (inside, (r.base + 4 * g) % 2 ^ 57)

/-- The companion scale's record and address for a coordinate (R195): element ⌊c0 / W⌋ at the same c1 to c3. Out of
that record's bounds there is none: a load's AUX word is then 0, a store writes none, and nothing counts (notes/assumptions/59). -/
def companion (s : State) (cfg : Nat) (r : Rec) (c : List Nat) : Option (Rec × Nat) :=
  match recOf s cfg r.srec with
  | none => none
  | some q =>
    let (inside, va) := laneAddress q ((c.getD 0 0 / r.w) :: c.drop 1) 0
    if inside then some (q, va) else none

/-- A lane's place: none out of bounds. -/
abbrev LanePlace := Nat × Option Place

/-- The places of lanes `js` of an access, or the first translation that fails (R200: every lane is translated before
any performs). -/
def lanePlaces (s : State) (die cfg : Nat) (r : Rec) (c : List Nat) (u : Use) : List Nat → Except Xlate (List LanePlace)
  | [] => .ok []
  | j :: js =>
    let (inside, va) := laneAddress r c j
    if inside then
      match translateRec s die (cfgPart cfg) r va u with
      | .at p => (lanePlaces s die cfg r c u js).map ((j, some p) :: ·)
      | x => .error x
    else (lanePlaces s die cfg r c u js).map ((j, none) :: ·)

/-- The place of the companion's scale, where the format has one and some lane is in bounds. -/
def scalePlace (s : State) (die cfg : Nat) (r : Rec) (c : List Nat) (u : Use) (ps : List LanePlace) :
    Except Xlate (Option Place) :=
  if fmtCode r.fmt < 3 || ps.all (·.2.isNone) then .ok none
  else match companion s cfg r c with
    | none => .ok none
    | some (q, va) =>
      match translateRec s die (cfgPart cfg) q va u with
      | .at p => .ok (some p)
      | x => .error x

/-- An access to the host waits while the link is down (R24): of lanes, and of a companion's scale. -/
def linkWaits (s : State) (ps : List LanePlace) (scale : Option Place := none) : Bool :=
  !s.dev.linkUp && (ps.any (fun p => p.2.any (·.host)) || scale.any (·.host))

/-- Lanes read from a record: words, mask, AUX word and poison. -/
structure Loaded where
  lanes  : List Word
  mask   : BitVec 8
  aux    : Option Word
  poison : Bool
  oob    : Nat
  deriving DecidableEq, Repr

/-- How an access to memory ends: it waits, faults PERM, waits for a page, or has been done. -/
inductive Access (α : Type) where
  | hold | perm | page (x : Xlate) | done (a : α)
  deriving DecidableEq, Repr

/-- A failed translation as the end of an access. -/
def failed {α : Type} (x : Xlate) : Access α := match x with | .perm => .perm | x => .page x

/-- The word of a lane's place; zero out of bounds. -/
def placeWordAt (s : State) (p : Option Place) : Word := match p with | some q => loadWord s q | none => 0

/-- The places of an access's lanes and of its companion's scale. -/
abbrev RecPlaces := List LanePlace × Option Place

/-- Lanes `js` of an access to a record, and its scale, translated (R195, R200). -/
def recordPlaces (s : State) (die cfg : Nat) (r : Rec) (c : List Nat) (u : Use) (js : List Nat) : Except Xlate RecPlaces :=
  let c := snapCoord r c
  match lanePlaces s die cfg r c u js with
  | .error x => .error x
  | .ok ps => (scalePlace s die cfg r c u ps).map (ps, ·)

/-- What lanes at their places read (R194, R195): `lane` gives a lane's word and poison, `scale` the scale's. -/
def loadedFrom (r : Rec) (lane : Nat → Place → Word × Bool) (scale : Place → Word × Bool) (x : RecPlaces) : Loaded :=
  let ls := x.1.map fun p => p.2.map (lane p.1)
  let sc := x.2.map scale
  { lanes := ls.map fun l => (l.map (·.1)).getD 0
    mask := BitVec.ofNat 8 ((x.1.map fun p => ofBit p.2.isSome * 2 ^ p.1).sum)
    aux := if 3 ≤ fmtCode r.fmt then some ((sc.map (·.1)).getD 0) else none
    poison := ls.any (·.any (·.2)) || sc.any (·.2)
    oob := (x.1.filter (·.2.isNone)).length }

/-- `n` lanes of a record read from a coordinate, from a die, as a reader sees each place (R194, R195). -/
def loadRecord (s : State) (look : Place → Word × Bool) (die cfg : Nat) (r : Rec) (c : List Nat) (n : Nat) : Access Loaded :=
  match recordPlaces s die cfg r c .read (List.range n) with
  | .error x => failed x
  | .ok x => if linkWaits s x.1 x.2 then .hold else .done (loadedFrom r (fun _ => look) look x)

/-! ### Stream-cache windows (R196) -/

/-- A window declared on a die, if it finds room: 1,024 windows and 128 MiB a die. -/
def declareWindow (s : State) (w : Window) : Option State :=
  let mine := s.dev.windows.filter (·.die == w.die)
  if 1024 ≤ mine.length || 2 ^ 27 < (mine.map (·.bytes)).sum + w.bytes then none
  else some (modDev s fun d => { d with windows := d.windows ++ [w] })

/-- Accesses to the addresses consume the PREFG windows they fall in; a window ends when its length is consumed. -/
def consumeWindows (s : State) (die part : Nat) (vas : List Nat) : State :=
  let used (w : Window) : Window :=
    if w.die == die && w.part == part && w.hq.isNone then
      { w with left := w.left - 4 * (vas.filter (fun a => w.base ≤ a && a < w.base + w.bytes)).length }
    else w
  let ws := (s.dev.windows.map used).filter fun w => w.hq.isSome || 0 < w.left
  modDev s fun d => { d with windows := ws }

/-- Addresses of the in-bounds lanes of an access through a record of SPACE 0. -/
def windowAddrs (r : Rec) (c : List Nat) (js : List Nat) : List Nat :=
  if r.space != 0 then [] else (js.map (laneAddress r (snapCoord r c))).filterMap fun a => if a.1 then some a.2 else none

end Sys2Proof.Machine
end

