-- ==== Sys2Proof/Machine/Scratch.lean ====
section
/-! DEFINITION. Cluster scratch and bank modes (R186 to R190). -/

namespace Sys2Proof.Machine

/-- What a word of the cluster address space leads to (R186, R188). -/
inductive ScrTarget where
  | word (core bank idx : Nat) | fifo (core bank : Nat) | control (core bank : Nat) | miss | perm
  deriving DecidableEq, Repr

/-- Whether a partition holds the region of core `c` of a cluster. -/
def holdsCore (s : State) (n cl c : Nat) : Bool := holder s (coreRegion cl c) == n

/-- Banks 30 and 31 of a region's lowest-numbered core are its spill ring (R175). -/
def spillBank (c b : Nat) : Bool := c % 6 == 0 && 30 ≤ b

/-- Word index `w` of a cluster's scratch for partition `n` (R186, R188); a control store needs the core's region. -/
def scrTarget (s : State) (n cl : Nat) (isStore : Bool) (w : Nat) : ScrTarget :=
  let w := w % 2 ^ 25
  let c := w / 2 ^ 20
  let b := w / 2 ^ 15 % 32
  if c = 31 then
    if 24 ≤ b then .miss
    else if isStore && !holdsCore s n cl b then .perm
    else .control b (w % 32)
  else if 24 ≤ c then .miss
  else if !holdsCore s n cl c then .perm
  else if spillBank c b then .miss
  else match (bankOf s cl c b).mode with
    | .cache => .miss
    | .scratch => .word c b (w % 2 ^ 15)
    | .fifo => .fifo c b

/-- MODE of a control word. -/
def modeCode : BankMode → Nat
  | .cache => 0 | .scratch => 1 | .fifo => 2

/-- A bank's control word (R188). -/
def controlWord (b : Bank) : Word :=
  BitVec.ofNat 32 (modeCode b.mode + if b.mode == .fifo then 8 * b.entries.length else 0)

/-- The engines' writes to a bank that are on their way complete in its old mode (R203). -/
def settleBank (s : State) (cl c b : Nat) : State :=
  completeWhere s fun po => po.writes.any fun x => match x.1 with | .scratch cl' c' b' _ => cl' == cl && c' == c && b' == b | _ => false

/-- A bank's mode switched (R189): a bank in the mode already is left alone; otherwise its dirty lines are written back, its lines
invalidated, and it is cleared. The entries lost are the second result. -/
def switchBank (s : State) (cl c b : Nat) (m : BankMode) : State × Nat :=
  if (bankOf s cl c b).mode == m then (s, 0)
  else
    let s := flushWhere (settleBank s cl c b) (coreRegion cl c) fun _ l => l.core == c && l.bank == b
    (modBank s cl c b fun _ => { mode := m, emptyAt := s.dev.uptime }, (bankOf s cl c b).entries.length)

/-- The entries of a FIFO bank, with the time its last one was taken (R117). -/
def putEntries (s : State) (cl c b : Nat) (l : List Token) : State :=
  modBank s cl c b fun k => { k with entries := l, emptyAt := if l.isEmpty && !k.entries.isEmpty then s.dev.uptime else k.emptyAt }

/-- A store to a bank control word (R188, R189): the lanes written (0 where it is dropped) and what counts in SCRMISS. -/
def storeControl (s : State) (cl c b : Nat) (w : Word) : State × Nat × Nat :=
  let m := w.toNat % 4
  if spillBank c b || m = 3 then (s, 0, 1)
  else
    let (s, lost) := switchBank s cl c b (match m with | 0 => .cache | 1 => .scratch | _ => .fifo)
    (s, 1, lost)

/-- A word of a SCRATCH bank. -/
def scrWord (s : State) (cl c b i : Nat) : Word := lookup 0 (bankOf s cl c b).words i

/-- Whether a word's 64 B granule of its bank is poisoned (R202). -/
def scrPoisoned (s : State) (cl c b i : Nat) : Bool := (bankOf s cl c b).poison.contains (i / 16)

end Sys2Proof.Machine
end

