-- ==== Sys2Proof/Machine/MemoryOps.lean ====
section
/-! DEFINITION. Memory opcodes 0x80 to 0x90 (R392 to R402) and MEMORY_RESPONSE: a firing sends a request; the request
performs at its port and its answer goes to D0. -/

namespace Sys2Proof.Machine

/-! ### Order at a port (R189, R200, R207) -/

def recField (w : Nat) : Nat := bits w 11 0
def fltBit (w : Nat) : Bool := bit w 29
def unsBit (w : Nat) : Bool := bit w 30
def scrBit (w : Nat) : Bool := bit w 31

/-- The word index a scratch address names. -/
def scrBase (r : MemReq) : Nat := (tokLane r.a 0).toNat / 4

def reqPart (r : MemReq) : Nat := cfgPart r.cfg
def reqCluster (r : MemReq) : Nat := elemCluster r.el

/-- The core of a request's port, within its cluster (R184). -/
def reqCore (r : MemReq) : Nat := portCore r.region r.port

/-- An atomic (0x86 to 0x8D). -/
def isAtomic (op : Nat) : Bool := 0x86 ≤ op && op ≤ 0x8D

/-- A request acts on cluster scratch. -/
def onScratch (r : MemReq) : Bool := r.op = 0x82 || r.op = 0x83 || (isAtomic r.op && scrBit r.bsel.toNat)

/-- An element of an atomic: its lane, its data and what ATCAS expects. -/
abbrev AtomicElt := Nat × Word × Word

/-- The elements an atomic performs (R399, R400), for a packet width W: those whose P lanes are unmasked. -/
def atomicElts (op w : Nat) (p : Token) : Nat × List AtomicElt :=
  if op = 0x8D then
    let k := min (min w 4) ((lanesOf p + 1) / 2)
    (k, ((List.range k).filter fun j => p.mask.getLsbD (2 * j) && p.mask.getLsbD (2 * j + 1) && 2 * j + 1 < lanesOf p).map
      fun j => (j, p.lanes.getD (2 * j + 1) 0, p.lanes.getD (2 * j) 0))
  else
    let k := min w (lanesOf p)
    (k, ((List.range k).filter p.mask.getLsbD).map fun j => (j, p.lanes.getD j 0, 0))

/-- The lanes of a record, or of scratch (`w` is 8), that a request acts on. -/
def reqLanes (r : MemReq) (w : Nat) : List Nat :=
  let p := r.p.getD {}
  if isAtomic r.op then (atomicElts r.op w p).2.map (·.1)
  else match r.op with
    | 0x82 => List.range (r.bsel.toNat % 8 + 1)
    | 0x83 => (List.range (lanesOf p)).filter p.mask.getLsbD
    | 0x84 => List.range w
    | 0x85 => (List.range (min w (lanesOf p))).filter p.mask.getLsbD
    | 0x8F => (List.range (min w (lanesOf p))).filter p.mask.getLsbD
    | _ => []

/-- The coordinate a request accesses: APPEND's row is that of the ticket as it stands (R401). -/
def reqCoord (r : MemReq) (rc : Rec) : List Nat :=
  if r.op = 0x8F then clipCoord rc ((rc.ticket.toNat * rc.w) :: (coordOf rc r.a).drop 1) else coordOf rc r.a

/-- What an access of a port touches: a word of scratch; a bank in FIFO mode; a bank by its control word; the cache of a core; a record's
ticket counter; an element by virtual address and space; one by its place; or the elements from an address up that an APPEND
not yet performed may come to store to. -/
inductive Loc where
  | scratch (w : Nat) | bank (core bank : Nat) | control (core bank : Nat) | cache (core : Nat) | counter (cfg idx : Nat)
  | virt (space pasid va : Nat) | phys (p : Place) | rows (space pasid lo hi : Nat)
  deriving DecidableEq, Repr

/-- Two accesses meet at an address; a bank's control word meets every access to the bank, and, since the bank may be a way of it, to
its core's cache (R189). -/
def Loc.meets : Loc → Loc → Bool
  | .scratch w, .bank c b => w / 2 ^ 20 == c && w / 2 ^ 15 % 32 == b
  | .bank c b, .scratch w => w / 2 ^ 20 == c && w / 2 ^ 15 % 32 == b
  | .scratch w, .control c b => w / 2 ^ 20 == c && w / 2 ^ 15 % 32 == b
  | .control c b, .scratch w => w / 2 ^ 20 == c && w / 2 ^ 15 % 32 == b
  | .bank c b, .control c' b' => c == c' && b == b'
  | .control c b, .bank c' b' => c == c' && b == b'
  | .cache c, .control c' _ => c == c'
  | .control c _, .cache c' => c == c'
  | .cache _, .cache _ => false
  | .rows sp pa lo hi, .virt sp' pa' va => sp == sp' && pa == pa' && lo ≤ va && va < hi
  | a, b => a == b

/-- Where the lanes of a scratch access lie: a control word's access touches its bank (R189). -/
def scratchLocs (s : State) (r : MemReq) : List Loc :=
  (reqLanes r 8).map fun j =>
    let w := (scrBase r + j) % 2 ^ 25
    if w / 2 ^ 20 = 31 then .control (w / 2 ^ 15 % 32) (w % 32)
    else if (bankOf s (reqCluster r) (w / 2 ^ 20) (w / 2 ^ 15 % 32)).mode == .fifo then .bank (w / 2 ^ 20) (w / 2 ^ 15 % 32)
    else .scratch w

/-- The virtual addresses of a request's lanes in bounds, and of its companion's scale, each with its record's space and PASID. -/
def reqAddrs (s : State) (r : MemReq) (rc : Rec) : List (Nat × Nat × Nat) :=
  let c := snapCoord rc (reqCoord r rc)
  let here := (reqLanes r rc.w).filterMap fun j => let a := laneAddress rc c j; if a.1 then some (rc.space, rc.pasid, a.2) else none
  let scale := if fmtCode rc.fmt < 3 || here.isEmpty || isAtomic r.op then none else companion s r.cfg rc c
  here ++ (scale.map fun q => (q.1.space, q.1.pasid, q.2)).toList

/-- The places of the addresses that are translated now. -/
def reqPlaces (s : State) (r : MemReq) (rc : Rec) : List Loc :=
  (reqAddrs s r rc).filterMap fun a =>
    match translateRec s (elemDie r.el) (reqPart r) { space := a.1, pasid := a.2.1 } a.2.2 .read with
    | .at p => some (.phys p)
    | _ => none

/-- What a request touches as it stands. -/
def touches (s : State) (r : MemReq) : List Loc :=
  if onScratch r then scratchLocs s r
  else match recOf s r.cfg (recField r.bsel.toNat) with
    | none => []
    | some rc =>
      let counter := if r.op = 0x8E || r.op = 0x8F then [Loc.counter r.cfg (recField r.bsel.toNat)] else []
      let cache := if r.op = 0x84 || r.op = 0x85 then [Loc.cache (reqCore r)] else []
      counter ++ cache ++ (reqAddrs s r rc).map (fun a => .virt a.1 a.2.1 a.2.2) ++ reqPlaces s r rc

/-- The elements of a record from a coordinate to the end of its row. -/
def rowsFrom (rc : Rec) (c : List Nat) : Loc :=
  let lo := (laneAddress rc c 0).2
  .rows rc.space rc.pasid lo (lo + 4 * (rc.ext.getD 0 0 - c.getD 0 0))

/-- What a request that has not performed may touch: an APPEND, any row from the ticket on with its scale. -/
def mayTouch (s : State) (r : MemReq) : List Loc :=
  touches s r ++ (if r.op != 0x8F then [] else match recOf s r.cfg (recField r.bsel.toNat) with
    | none => []
    | some rc =>
      let c := reqCoord r rc
      rowsFrom rc c :: (if fmtCode rc.fmt < 3 then [] else
        ((recOf s r.cfg rc.srec).map fun q => rowsFrom q (c.getD 0 0 / rc.w :: c.drop 1)).toList))

/-- The pages of a request's addresses (R200, R201). -/
def reqPages (s : State) (r : MemReq) : List Nat :=
  if onScratch r then []
  else match recOf s r.cfg (recField r.bsel.toNat) with
    | none => []
    | some rc => (reqAddrs s r rc).filterMap fun a => match a.1 with
      | 0 => some (a.2.2 / 4096)
      | 1 => some (hostPage a.2.1 a.2.2)
      | _ => none

def samePort (a b : MemReq) : Bool := a.region == b.region && a.port == b.port

/-- A request must wait for an earlier one of its port: they meet at an address, the earlier one is parked on one of its pages, or
both were parked on a page and are replayed in their order (R200). -/
def behind (s : State) (earlier r : MemReq) : Bool :=
  samePort earlier r &&
    ((mayTouch s earlier).any (fun x => (touches s r).any x.meets) || earlier.parked.any (reqPages s r).contains ||
      (r.replay.isSome && earlier.replay == r.replay))

/-- A request parks behind one of its port that is parked on a page (R200): with a PAGE event where the page is not present. -/
def parkBehind (s : State) (page : Nat) (k : Nat) (r : MemReq) : State :=
  let s := { s with reqs := modifyAt (fun r => { r with parked := some page, replay := none }) s.reqs k }
  if s.pageFaults.any fun f => f.part == reqPart r && f.page == page then pageEvent s (elemDie r.el) (reqPart r) 0 page else s

/-- A request reaches its port: behind one that is parked on a page of its own it parks at once. -/
def reachPort (s : State) (r : MemReq) : State :=
  let s' := { s with reqs := s.reqs ++ [r], nextIdent := s.nextIdent + 1 }
  match s.reqs.findSome? fun q => if samePort q r then q.parked.filter (reqPages s r).contains else none with
  | some page => parkBehind s' page s.reqs.length r
  | none => s'

/-! ### Requests (R392 to R395) -/

/-- An operand as a packet: a word fills every lane (R392). -/
def operandTok : Operand → Token
  | .tok t => t
  | .word w => { lanes := List.replicate 8 w, mask := 0xFF }

/-- The record word in B lane 0 (R393). -/
def recordWord (x : Firing) : Nat := (laneOf x.b 0).toNat

/-- The request of a firing sent to the port that D1 names, with the header that its answer takes (R392, R394). -/
def sendRequest (s : State) (x : Firing) (bsel : Nat) : Option State :=
  match resultTag s x with
  | none => none
  | some (tag, s) =>
    let st := if stampsSeq x.form.t then takeStamp s x else (x.head.seq, s)
    let r : MemReq :=
      { op := x.form.op, el := x.el, v := x.v, slot := x.slot, cfg := x.cfg, region := elemRegion x.el
        port := bits (routeWord s x.el x.v x.form.e) 27 22, a := operandTok x.a, bsel := BitVec.ofNat 32 bsel
        p := x.p, hdr := headed x tag st.1 {}, d0 := (route s x.el x.v x.form.d).toList, ident := s.nextIdent }
    some (afterFiring (reachPort st.2 r) x)

/-- A firing that faults PERM (R195, R201). -/
def permFault (s : State) (f : Firing) : State :=
  elemFault (modElem s f.el fun e => dropEmpty e f.cfg f.tag) f.el f.v f.slot f.part f.tag 0x11

/-- The accesses by one opcode that are on their way to a FIFO bank. -/
def fifoBound (s : State) (op cl c b : Nat) : Nat :=
  (s.reqs.filter fun r => r.op == op && reqCluster r == cl && scrTarget s (reqPart r) cl (op == 0x83) (scrBase r) == .fifo c b).length

/-- An LDC of a FIFO bank with no entry for it, or an STC to one with no room for its packet, has not issued: its tokens stay in
place (R190, R411). -/
def fifoWaits (s : State) (x : Firing) : Bool :=
  let cl := elemCluster x.el
  match scrTarget s x.part cl (x.form.op == 0x83) ((laneOf x.a 0).toNat / 4) with
  | .fifo c b =>
    let n := (bankOf s cl c b).entries.length
    if x.form.op = 0x83 then Config.fifoBankEntries ≤ n + fifoBound s 0x83 cl c b else n ≤ fifoBound s 0x82 cl c b
  | _ => false

/-- The request of a scratch access, once it can issue. -/
def scratchRequest (s : State) (x : Firing) (bsel : Nat) : Option State := if fifoWaits s x then none else sendRequest s x bsel

/-- The request of a firing through the record its word names, which must exist and have the rights (R393, R195). -/
def recordRequest (rights : List Nat) (after : State → Firing → Rec → State) (s : State) (x : Firing) : Option State :=
  match recOf s x.cfg (recField (recordWord x)) with
  | none => some (permFault s x)
  | some r =>
    if !rights.all (hasRight r) then some (permFault s x)
    else (sendRequest s x (recordWord x)).map fun s => after s x r

/-- P lanes at j ≥ W are counted in LENDROP (R398). -/
def dropBeyondW (s : State) (x : Firing) (r : Rec) : State :=
  countLenDrop s x.el x.part x.tag.toNat x.slot (((x.p.map lanesOf).getD 0) - r.w) (floorOf x.toks)

/-- FMT of a record's packets. -/
def recordHeader (s : State) (x : Firing) : Fmt × Bool × Option Word :=
  (((recOf s x.cfg (recField (recordWord x))).map (·.fmt)).getD .i32, false, none)

/-- A memory opcode of a port: its answer goes to D0 alone. -/
def portOp (header : Firing → Fmt × Bool × Option Word) (body : State → Firing → Option State) : Op :=
  { compare := false, header := header, eosD1 := false, body := body }

/-! ### Performing (R186, R194, R397 to R402) -/

/-- The answer of a request. -/
def answer (r : MemReq) (fmt : Fmt) (ls : List Word) (m : BitVec 8) (aux : Option Word := none) (poison : Bool := false) :
    Token :=
  { dataTok ls m fmt false aux with
    tag := r.hdr.tag, seq := r.hdr.seq, ctx := r.hdr.ctx, v := r.hdr.v, floor := r.hdr.floor, poison := poison }

/-- An acknowledgement: the lanes written (R394). -/
def ackOf (r : MemReq) (n : Nat) : Token := answer r .i32 [BitVec.ofNat 32 n] 1

/-- Count lanes in SCRMISS. -/
def scrMiss (s : State) (r : MemReq) (n : Nat) : State := bump s r.el .scrMiss n

/-- What a lane that has performed early read (R221). -/
def earlyOf (r : MemReq) (j : Nat) : Option (Word × Bool) := (r.early.find? (·.1 == j)).map (·.2)

/-- LDC of words (R186, R397); an access whose lane 0 lies in a FIFO bank is that bank's whole, and a later lane that runs into one is a miss
(notes/assumptions/59): only lane 0 of a control word acts. A FIFO entry keeps its own V (R190: notes/assumptions/31). -/
def loadScratch (s : State) (r : MemReq) : Access (State × Token) :=
  let cl := reqCluster r
  let n := r.bsel.toNat % 8 + 1
  let target (j : Nat) := scrTarget s (reqPart r) cl false (scrBase r + j)
  if let .fifo c b := target 0 then
    match (bankOf s cl c b).entries with
    | [] => .hold
    | t :: rest =>
      .done (putEntries s cl c b rest,
        { t with tag := r.hdr.tag, seq := r.hdr.seq, ctx := r.hdr.ctx, floor := laterFloor t.floor r.hdr.floor })
  else
    let ts := (List.range n).map target
    if ts.any (· == .perm) then .perm
    else
      let lane (j : Nat) : Option (Word × Bool) := match earlyOf r j, target j with
        | some x, _ => some x
        | none, .word c b i => some (scrWord s cl c b i, scrPoisoned s cl c b i)
        | none, .control c b => if j = 0 then some (controlWord (bankOf s cl c b), false) else none
        | _, _ => none
      let ls := (List.range n).map lane
      .done (scrMiss s r (ls.filter (·.isNone)).length,
        answer r (if bit r.bsel.toNat 3 then .f32 else .i32) (ls.map fun l => (l.map (·.1)).getD 0) (maskFrom (ls.map (·.isSome))) none
          (ls.any (·.any (·.2))))

/-- One lane of an STC: the state, the lanes written and what counts in SCRMISS. -/
def storeScrLane (cl n base : Nat) (p : Token) (acc : State × Nat × Nat) (j : Nat) : State × Nat × Nat :=
  let (s, written, miss) := acc
  let w := p.lanes.getD j 0
  match scrTarget s n cl true (base + j) with
  | .word c b i => (setScrWord s cl c b i w, written + 1, miss)
  | .control c b =>
    if j = 0 then
      let (s, k, lost) := storeControl s cl c b w
      (s, written + k, miss + lost)
    else (s, written, miss + 1)
  | _ => (s, written, miss + 1)

/-- STC (R186 to R190, R397): of a control access only lane 0 acts, and faults. -/
def storeScratch (s : State) (r : MemReq) (p : Token) : Access (State × Token) :=
  let cl := reqCluster r
  let n := reqPart r
  if let .fifo c b := scrTarget s n cl true (scrBase r) then
    if Config.fifoBankEntries ≤ (bankOf s cl c b).entries.length then .hold
    else .done (putEntries s cl c b ((bankOf s cl c b).entries ++ [p]), ackOf r (lanesOf p))
  else
    let js := (List.range (lanesOf p)).filter p.mask.getLsbD
    if js.any fun j => scrTarget s n cl (j == 0) (scrBase r + j) == .perm then .perm
    else
      let (s, written, miss) := (js.filter fun j => (earlyOf r j).isNone).foldl (storeScrLane cl n (scrBase r) p) (s, r.early.length, 0)
      .done (scrMiss s r miss, ackOf r written)

/-- An access of a request ends as its translation does, or goes on once the link serves it (R24). -/
def onPlaces {α : Type} (s : State) (x : Except Xlate RecPlaces) (f : RecPlaces → α) : Access α :=
  match x with
  | .error e => failed e
  | .ok ps => if linkWaits s ps.1 ps.2 then .hold else .done (f ps)

/-- The places of a request's lanes: those it has begun with, or else as they are translated now (R200). -/
def placesOf (s : State) (r : MemReq) (rc : Rec) (u : Use) : Except Xlate RecPlaces :=
  match r.begun with
  | some x => .ok x
  | none => recordPlaces s (elemDie r.el) r.cfg rc (reqCoord r rc) u (reqLanes r rc.w)

/-- The places an access bypasses the caches to (R205): those of its lanes where the record is of SPACE 1 or 2, and of its scale
where the companion is. -/
def bypassed (s : State) (r : MemReq) (rc : Rec) (x : RecPlaces) : List Place :=
  (if rc.space != 0 then x.1.filterMap (·.2) else []) ++
    if ((recOf s r.cfg rc.srec).map (·.space)).getD 0 != 0 then x.2.toList else []

/-- A place that is read through the caches of the request's region, which its port's core may fill (R205). -/
def touchLines (s : State) (r : MemReq) (rc : Rec) (x : RecPlaces) : State :=
  let by_ := bypassed s r rc x
  let s := by_.foldl (fun s p => bypass s r.region p) s
  ((x.1.filterMap (·.2) ++ x.2.toList).filter fun p => !by_.contains p).foldl (fun s p => fillLine s r.region r.port p) s

/-- LDG (R398). -/
def loadGlobal (s : State) (r : MemReq) (rc : Rec) : Access (State × Token) :=
  onPlaces s (placesOf s r rc .read) fun x =>
    let s := touchLines s r rc x
    let look := seenWord s r.region
    let l := loadedFrom rc (fun j p => (earlyOf r j).getD (look p)) look x
    let s := countOob s r.cfg (recField r.bsel.toNat) l.oob
    (consumeWindows s (elemDie r.el) (reqPart r) (windowAddrs rc (coordOf rc r.a) (List.range rc.w)),
      answer r rc.fmt l.lanes l.mask l.aux l.poison)

/-- Words of a store at their places: what goes to host memory past the caches is accepted by the host port, and is on its way
(R206); the rest performs in the region. -/
def storeWords (s : State) (r : MemReq) (by_ : List Place) (ws : List (Place × Word)) : State :=
  let s := (ws.filter fun w => !by_.contains w.1).foldl (fun s w => storeSeen s r.region r.port w.1 w.2) s
  let out := ws.filter fun w => by_.contains w.1
  let s := out.foldl (fun s w => if (lineOf s r.region w.1).isSome then flushWhere s r.region (fun k _ => k == lineKey w.1) else s) s
  post s { owner := r.ident, port := true, part := reqPart r, queue := (regionOf s r.region).queue, region := r.region, writes := out.map fun w => (.mem w.1, w.2) }

/-- The words a store has still to write, each with its place. -/
def storeLeft (r : MemReq) (p : Token) (x : RecPlaces) : List (Place × Word) :=
  (x.1.filterMap fun l => match l.2, earlyOf r l.1 with
    | some q, none => some (q, p.lanes.getD l.1 0)
    | _, _ => none) ++ (x.2.map fun q => (q, p.aux.getD 0)).toList

/-- STG (R398): its lanes below W that are unmasked. A packet of another FMT writes nothing, and its lanes count in OOBCNT
(R195). -/
def storeGlobal (s : State) (r : MemReq) (rc : Rec) (p : Token) : Access (State × Token) :=
  let idx := recField r.bsel.toNat
  if p.fmt != rc.fmt then .done (countOob s r.cfg idx (min rc.w (lanesOf p)), ackOf r 0)
  else onPlaces s (placesOf s r rc .write) fun x =>
    let s := storeWords s r (bypassed s r rc x) (storeLeft r p x)
    let s := countOob s r.cfg idx (x.1.filter (·.2.isNone)).length
    (consumeWindows s (elemDie r.el) (reqPart r) (windowAddrs rc (coordOf rc r.a) (reqLanes r rc.w)), ackOf r (x.1.filter (·.2.isSome)).length)

/-- The new value of a location under an atomic (R399, R400), with what it counts: `m` is the old word, `d` the data,
`e` the value ATCAS expects. -/
def atomicResult (op : Nat) (flt uns : Bool) (m d e : Word) : LaneResult :=
  let plain (w : Word) : LaneResult := ⟨w, false, false⟩
  match op with
  | 0x86 => if flt then floatLane eltAdd false m d 0 else plain (m + d)
  | 0x87 => if flt then floatLane eltMin false m d 0 else plain (if uns then laneMinU m d else laneMin m d)
  | 0x88 => if flt then floatLane eltMax false m d 0 else plain (if uns then laneMaxU m d else laneMax m d)
  | 0x89 => plain (m &&& d)
  | 0x8A => plain (m ||| d)
  | 0x8B => plain (m ^^^ d)
  | 0x8C => plain d
  | _ => plain (if m == e then d else m)

/-- The atomics' running result: state, old values by lane, counts of NaN and overflow, poison. -/
structure AtomicRun where
  s : State
  olds : List (Nat × Word) := []
  nan : Nat := 0
  ovf : Nat := 0
  poison : Bool := false
  deriving DecidableEq, Repr

/-- An atomic's answer from what it has done; of FMT 3 to 7, where nothing performs, it carries the AUX word 0 (R161). -/
def atomicAnswer (r : MemReq) (fmt : Fmt) (k : Nat) (u : AtomicRun) : State × Token :=
  let old (j : Nat) : Option Word := (u.olds.find? (·.1 == j)).map (·.2)
  let ls := (List.range k).map old
  (countFloat u.s r.el u.nan u.ovf, answer r fmt (ls.map (·.getD 0)) (maskFrom (ls.map (·.isSome))) (if 3 ≤ fmtCode fmt then some 0 else none) u.poison)

/-- One element of a global atomic at its place. -/
def atomicAt (op : Nat) (flt uns : Bool) (u : AtomicRun) (e : AtomicElt × Place) : AtomicRun :=
  let m := loadWord u.s e.2
  let v := atomicResult op flt uns m e.1.2.1 e.1.2.2
  { s := saveWord u.s e.2 v.word, olds := u.olds ++ [(e.1.1, m)], nan := u.nan + ofBit v.nan, ovf := u.ovf + ofBit v.ovf
    poison := u.poison || poisoned u.s e.2 }

/-- A global atomic (R399, R400). -/
def atomicGlobal (s : State) (r : MemReq) (rc : Rec) (p : Token) : Access (State × Token) :=
  let idx := recField r.bsel.toNat
  let (k, elts) := atomicElts r.op rc.w p
  if 1 < fmtCode rc.fmt || p.fmt != rc.fmt then .done (atomicAnswer r rc.fmt k { s := countOob s r.cfg idx k })
  else
    match lanePlaces s (elemDie r.el) r.cfg rc (coordOf rc r.a) .atomic (elts.map (·.1)) with
    | .error x => failed x
    | .ok ps =>
      if linkWaits s ps then .hold
      else
        let pairs := (elts.zip ps).filterMap fun e => e.2.2.map fun q => (e.1, q)
        let s := pairs.foldl (fun s e => bypass s r.region e.2) s
        let u := pairs.foldl (atomicAt r.op (rc.fmt == .f32) (unsBit r.bsel.toNat))
          { s := countOob s r.cfg idx (ps.filter (·.2.isNone)).length }
        .done (atomicAnswer r rc.fmt k u)

/-- A scratch atomic (R399): only SCRATCH banks perform; W is 8. -/
def atomicScratch (s : State) (r : MemReq) (p : Token) : Access (State × Token) :=
  let cl := reqCluster r
  let n := reqPart r
  let (k, elts) := atomicElts r.op 8 p
  let target (e : AtomicElt) := scrTarget s n cl false (scrBase r + e.1)
  if elts.any (target · == .perm) then .perm
  else
    let flt := fltBit r.bsel.toNat
    let step (u : AtomicRun) (e : AtomicElt) : AtomicRun :=
      match target e with
      | .word c b i =>
        let m := scrWord u.s cl c b i
        let v := atomicResult r.op flt (unsBit r.bsel.toNat) m e.2.1 e.2.2
        { u with s := setScrWord u.s cl c b i v.word, olds := u.olds ++ [(e.1, m)], nan := u.nan + ofBit v.nan
                 ovf := u.ovf + ofBit v.ovf, poison := u.poison || scrPoisoned u.s cl c b i }
      | _ => { u with s := scrMiss u.s r 1 }
    .done (atomicAnswer r (if flt then .f32 else .i32) k (elts.foldl step { s := s }))

/-- TICKET (R401). -/
def takeTicket (s : State) (r : MemReq) (rc : Rec) : Access (State × Token) :=
  .done (modRec s r.cfg (recField r.bsel.toNat) fun q => { q with ticket := q.ticket + tokLane r.a 0 },
    answer r .i32 [rc.ticket] 1)

/-- APPEND (R401): the row of the ticket, which is taken when the store performs: at DEV, past the caches (R206). -/
def appendRow (s : State) (r : MemReq) (rc : Rec) (p : Token) : Access (State × Token) :=
  let idx := recField r.bsel.toNat
  let done (s : State) : State × Token := (modRec s r.cfg idx fun q => { q with ticket := q.ticket + 1 }, answer r .i32 [rc.ticket] 1)
  if p.fmt != rc.fmt then .done (done (countOob s r.cfg idx (min rc.w (lanesOf p))))
  else onPlaces s (placesOf s r rc .write) fun x =>
    let ws := storeLeft r p x
    let s := ws.foldl (fun s w => saveWord (bypass s r.region w.1) w.1 w.2) s
    done (countOob s r.cfg idx (x.1.filter (·.2.isNone)).length)

/-- The length PREFG declares (R402): lane 4 rounded up to 64 KiB and clamped. -/
def prefgBytes (a : Token) : Nat := max 0x10000 (min (roundUp (tokLane a 4).toNat 0x10000) 0x4000000)

/-- PREFG (R402). -/
def prefetch (s : State) (r : MemReq) (rc : Rec) : Access (State × Token) :=
  let n := prefgBytes r.a
  let w : Window := { die := elemDie r.el, part := reqPart r, base := (laneAddress rc (coordOf rc r.a) 0).2, bytes := n, left := n }
  if rc.space != 0 then .done (s, answer r .i32 [0] 1)
  else match declareWindow s w with
    | some s => .done (s, answer r .i32 [1] 1)
    | none => .done (modDev s fun d => { d with uncached := d.uncached + 1 }, answer r .i32 [0] 1)

/-- A request performs at its port. -/
def perform (s : State) (r : MemReq) : Access (State × Token) :=
  let p := r.p.getD {}
  if r.op = 0x82 then loadScratch s r
  else if r.op = 0x83 then storeScratch s r p
  else if 0x86 ≤ r.op && r.op ≤ 0x8D && scrBit r.bsel.toNat then atomicScratch s r p
  else match recOf s r.cfg (recField r.bsel.toNat) with
    | none => .perm
    | some rc =>
      match r.op with
      | 0x84 => loadGlobal s r rc
      | 0x85 => storeGlobal s r rc p
      | 0x8E => takeTicket s r rc
      | 0x8F => appendRow s r rc p
      | 0x90 => prefetch s r rc
      | _ => atomicGlobal s r rc p

/-! ### The answer -/

/-- Bucket of a latency (R198). -/
def latBucket (ns : Nat) : Nat := if ns < 250 then 0 else min 7 (log2 (ns / 250) + 1)

/-- A request's latency counted at its port (R198): the value itself is free. A raised maximum is a MEMCTL event (R142). -/
def countLatency (s : State) (r : MemReq) : State :=
  let (k, s) := nextMoment s
  let ns := Config.latencyNs k
  let b := latBucket ns.toNat
  let raised := (lookup {} (regionOf s r.region).lat r.port).max.toNat < ns.toNat
  let s := if raised then emitEvent s (regionDie r.region) srcCache 11 3 (cfgPart r.cfg) ((Config.latencyPlace k).toNat + 256 * (ns.toNat % 2 ^ 24)) else s
  modRegion s r.region fun g =>
    let l := lookup {} g.lat r.port
    let top := if l.max.toNat < ns.toNat then ns else l.max
    let l := { l with max := top, hist := store l.hist b (satAdd (lookup 0 l.hist b) 1) }
    { g with lat := store g.lat r.port l }

/-- The acknowledgement of a store through a record: the lines of its port's region that it went to, but for what bypassed
them (R206, R212). -/
def ackFor (s : State) (r : MemReq) : Option Ack :=
  if r.op != 0x85 then none
  else (recOf s r.cfg (recField r.bsel.toNat)).bind fun rc =>
    match placesOf s r rc .write with
    | .ok x => some { region := r.region, owner := r.ident,
                      lines := ((x.1.filterMap (·.2) ++ x.2.toList).filter fun p => !(bypassed s r rc x).contains p).map lineKey }
    | .error _ => none

/-- An answer sent, as the acknowledgement of a store where it is one. -/
def sendAck (s : State) (el : Nat) (t : Token) (ds : List Dest) (ack : Option Ack) : State :=
  let s' := sendAll s el t ds
  if ack.isNone then s'
  else { s' with net := s'.net.take s.net.length ++ (s'.net.drop s.net.length).map fun f => { f with ack := ack } }

/-- Request `k` leaves its port with an answer, which enters Q3 of its destination (R154). -/
def answerRequest (s : State) (k : Nat) (r : MemReq) (t : Token) : State :=
  sendAck (countLatency { s with reqs := dropAt s.reqs k } r) r.el t (r.d0.map viaPort) (ackFor s r)

/-- A request's turn: it is not parked, its region is its partition's, and no earlier one of its port keeps it back; one that has
begun goes on. -/
def itsTurn (s : State) (k : Nat) (r : MemReq) : Bool :=
  r.parked.isNone && (r.begun.isSome || !(s.reqs.take k).any (behind s · r)) && holder s r.region == reqPart r

/-- Request `k` parks on a page, and with it the later requests of its port to that page (R200). -/
def parkReq (s : State) (k page : Nat) (r : MemReq) : State :=
  let s := { s with reqs := modifyAt (fun r => { r with parked := some page, replay := none }) s.reqs k }
  let later := (s.reqs.zip (List.range s.reqs.length)).filter fun x => k < x.2 && samePort r x.1 && x.1.parked.isNone && x.1.begun.isNone && (reqPages s x.1).contains page
  later.foldl (fun s x => parkBehind s page x.2 x.1) s

/-- A replayed access that finds its page not present again becomes PERM (R200), with its PAGE event. -/
def replayFails (s : State) (k page : Nat) (r : MemReq) : State :=
  elemFault (pageEvent { s with reqs := dropAt s.reqs k } (elemDie r.el) (reqPart r) 2 page) r.el r.v r.slot (reqPart r) r.hdr.tag 0x11

/-- The page that a failed translation finds not present. -/
def Xlate.absentPage : Xlate → Option Nat
  | .absent _ page _ => some page
  | _ => none

/-- MEMORY_RESPONSE (R395): request `k` performs and answers, parks on a page, waits, or faults PERM. -/
def respond (s : State) (k : Nat) : State :=
  match s.reqs[k]? with
  | none => s
  | some r =>
    if !itsTurn s k r then s
    else match perform s r with
      | .hold => s
      | .done (s', t) => answerRequest s' k r t
      | .perm => elemFault { s with reqs := dropAt s.reqs k } r.el r.v r.slot (reqPart r) r.hdr.tag 0x11
      | .page x =>
        if r.replay.isSome && x.absentPage == r.replay then replayFails s k (r.replay.getD 0) r
        else match waitFor s (reqPart r) x r.hdr.tag r.region with
        | some (page, s) => parkReq s k page r
        | none => s

/-- A lane of request `k` has performed early, with what it read. -/
def noteEarly (s : State) (k j : Nat) (x : RecPlaces) (w : Word × Bool) : State :=
  { s with reqs := modifyAt (fun r => { r with begun := some x, early := store r.early j w }) s.reqs k }

/-- Lane `j` of a load or store performs before the others (R221): the lanes of one access may perform at different moments. -/
def performLane (s : State) (k j : Nat) : State :=
  match s.reqs[k]? with
  | none => s
  | some r =>
    if !itsTurn s k r || (earlyOf r j).isSome then s
    else
      let p := r.p.getD {}
      if r.op = 0x82 || r.op = 0x83 then
        match scrTarget s (reqPart r) (reqCluster r) (r.op = 0x83) (scrBase r + j) with
        | .word c b i =>
          if !(reqLanes r 8).contains j then s
          else if r.op = 0x82 then noteEarly s k j ([], none) (scrWord s (reqCluster r) c b i, scrPoisoned s (reqCluster r) c b i)
          else noteEarly (setScrWord s (reqCluster r) c b i (p.lanes.getD j 0)) k j ([], none) (0, false)
        | _ => s
      else match recOf s r.cfg (recField r.bsel.toNat) with
        | none => s
        | some rc =>
          match (if r.op = 0x84 then placesOf s r rc .read else placesOf s r rc .write) with
          | .error _ => s
          | .ok x =>
            match (x.1.find? (·.1 == j)).bind (·.2) with
            | none => s
            | some q =>
              if linkWaits s x.1 x.2 then s
              else if r.op = 0x84 then
                let s := touchLines s r rc ([(j, some q)], none)
                noteEarly s k j x (seenWord s r.region q)
              else if r.op = 0x85 && p.fmt == rc.fmt then
                noteEarly (storeWords s r (bypassed s r rc x) [(q, p.lanes.getD j 0)]) k j x (0, false)
              else s

/-- MEMORY_RESPONSE (R395). -/
def execMemoryResponse (k : Nat) (s : State) : Answer := .next (respond s k)

/-! ### The opcodes -/

/-- FMT of LDL's and LDC's answer. -/
def ldHeader (m : BitVec 4) (_ : Firing) : Fmt × Bool × Option Word := (if m.getLsbD 3 then .f32 else .i32, false, none)

/-- The local word index lane `j` uses (R185). -/
def localWord (a : Operand) (j : Nat) : Nat := ((laneOf a 0).toNat / 4 + j) % 16384

/-- LDL's answer (R185, R397); poisoned where a word comes from a poisoned granule (R202). -/
def ldlOuts (m : BitVec 4) (s : State) (x : Firing) : List Out :=
  let n := m.toNat % 8 + 1
  let bad := (List.range n).any fun j => (elemOf s x.el).localPoison.contains (localWord x.a j / 16)
  [{ tok := { dataTok ((List.range n).map fun j => lookup 0 (elemOf s x.el).localMem (localWord x.a j)) (lowMask n)
      (ldHeader m x).1 with poison := bad } }]

/-- LDL (R397). -/
def execLdl (a m : BitVec 4) (d e : BitVec 6) (t : BitVec 4) (s : State) : Answer :=
  .next (fire { compare := false, header := ldHeader m, eosD1 := false, body := fun s x => emit s x (ldlOuts m s x) } (form 0x80 a m d e t) s)

/-- The lanes an STL writes. -/
def stlLanes (x : Firing) : List Nat := match x.p with | some p => (List.range (lanesOf p)).filter p.mask.getLsbD | none => []

/-- STL's writes to the local data area (R185). -/
def storeLocal (s : State) (x : Firing) : State :=
  modElem s x.el fun e => { e with
    localMem := (stlLanes x).foldl (fun m j => store m (localWord x.a j) (laneP x j)) e.localMem }

/-- STL (R397). -/
def execStl (a : BitVec 4) (d e : BitVec 6) (t : BitVec 4) (s : State) : Answer :=
  .next (fire { compare := false, eosD1 := false
                body := fun s x => (emit s x [{ tok := dataTok [BitVec.ofNat 32 (stlLanes x).length] 1 .i32 }]).map (storeLocal · x) }
    (form 0x81 a 0 d e t) s)

/-- LDC (R397). -/
def execLdc (a m : BitVec 4) (d e : BitVec 6) (t : BitVec 4) (s : State) : Answer :=
  .next (fire (portOp (ldHeader m) fun s x => scratchRequest s x m.toNat) (form 0x82 a m d e t) s)

/-- STC (R397). -/
def execStc (a : BitVec 4) (d e : BitVec 6) (t : BitVec 4) (s : State) : Answer :=
  .next (fire (portOp plainHeader fun s x => scratchRequest s x 0) (form 0x83 a 0 d e t) s)

/-- LDG (R398). -/
def execLdg (a b : BitVec 4) (d e : BitVec 6) (t : BitVec 4) (s : State) : Answer :=
  .next (fire (portOp (recordHeader s) (recordRequest [0] fun s _ _ => s)) (form 0x84 a b d e t) s)

/-- STG (R398). -/
def execStg (a b : BitVec 4) (d e : BitVec 6) (t : BitVec 4) (s : State) : Answer :=
  .next (fire (portOp plainHeader (recordRequest [1] dropBeyondW)) (form 0x85 a b d e t) s)

/-- An atomic's request (R399): SCR needs no record. -/
def atomicRequest (s : State) (x : Firing) : Option State :=
  if scrBit (recordWord x) then sendRequest s x (recordWord x) else recordRequest [2] (fun s _ _ => s) s x

/-- FMT of an atomic's answer. -/
def atomicHeader (s : State) (x : Firing) : Fmt × Bool × Option Word :=
  if scrBit (recordWord x) then (if fltBit (recordWord x) then .f32 else .i32, false, none) else recordHeader s x

/-- ATADD (R399). -/
def execAtadd (a b : BitVec 4) (d e : BitVec 6) (t : BitVec 4) (s : State) : Answer :=
  .next (fire (portOp (atomicHeader s) atomicRequest) (form 0x86 a b d e t) s)

/-- ATMIN (R399). -/
def execAtmin (a b : BitVec 4) (d e : BitVec 6) (t : BitVec 4) (s : State) : Answer :=
  .next (fire (portOp (atomicHeader s) atomicRequest) (form 0x87 a b d e t) s)

/-- ATMAX (R399). -/
def execAtmax (a b : BitVec 4) (d e : BitVec 6) (t : BitVec 4) (s : State) : Answer :=
  .next (fire (portOp (atomicHeader s) atomicRequest) (form 0x88 a b d e t) s)

/-- ATAND (R399). -/
def execAtand (a b : BitVec 4) (d e : BitVec 6) (t : BitVec 4) (s : State) : Answer :=
  .next (fire (portOp (atomicHeader s) atomicRequest) (form 0x89 a b d e t) s)

/-- ATOR (R399). -/
def execAtor (a b : BitVec 4) (d e : BitVec 6) (t : BitVec 4) (s : State) : Answer :=
  .next (fire (portOp (atomicHeader s) atomicRequest) (form 0x8A a b d e t) s)

/-- ATXOR (R399). -/
def execAtxor (a b : BitVec 4) (d e : BitVec 6) (t : BitVec 4) (s : State) : Answer :=
  .next (fire (portOp (atomicHeader s) atomicRequest) (form 0x8B a b d e t) s)

/-- ATXCH (R399). -/
def execAtxch (a b : BitVec 4) (d e : BitVec 6) (t : BitVec 4) (s : State) : Answer :=
  .next (fire (portOp (atomicHeader s) atomicRequest) (form 0x8C a b d e t) s)

/-- ATCAS (R400). -/
def execAtcas (a b : BitVec 4) (d e : BitVec 6) (t : BitVec 4) (s : State) : Answer :=
  .next (fire (portOp (atomicHeader s) atomicRequest) (form 0x8D a b d e t) s)

/-- TICKET (R401). -/
def execTicket (a b : BitVec 4) (d e : BitVec 6) (t : BitVec 4) (s : State) : Answer :=
  .next (fire (portOp plainHeader (recordRequest [2] fun s _ _ => s)) (form 0x8E a b d e t) s)

/-- APPEND (R401). -/
def execAppend (a b : BitVec 4) (d e : BitVec 6) (t : BitVec 4) (s : State) : Answer :=
  .next (fire (portOp plainHeader (recordRequest [1, 2] dropBeyondW)) (form 0x8F a b d e t) s)

/-- PREFG (R402). -/
def execPrefg (a b : BitVec 4) (d e : BitVec 6) (t : BitVec 4) (s : State) : Answer :=
  .next (fire (portOp plainHeader (recordRequest [0] fun s _ _ => s)) (form 0x90 a b d e t) s)

end Sys2Proof.Machine
end

