-- ==== Sys2Proof/Machine/Engine.lean ====
section
/-! DEFINITION. Engine commands (R245 to R247, R332, R333, R412 to R416): the firing, the parameter lanes, engine
accesses through records and scratch, sync FIFOs (R257), answers, and the firings of the thirty opcodes. -/

namespace Sys2Proof.Machine

/-! ### The firing (R332, R412) -/

/-- SEQ of the command's answers: operand A's (R413), or the stamp of the tag action. -/
def commandSeq (s : State) (x : Firing) : BitVec 12 × State :=
  if stampsSeq x.form.t then takeStamp s x
  else (match x.a with | .tok t => t.seq | .word _ => x.head.seq, s)

/-- The command of a firing, on its way to the port that rt(48 + slot) names, with V as that entry's VSEL says (R162, R328). -/
def sendCommand (s : State) (x : Firing) : Option State :=
  match resultTag s x with
  | none => none
  | some (tag, s) =>
    let (seq, s) := commandSeq s x
    let r := elemRegion x.el
    let port := bits (routeWord s x.el x.v (48 + x.slot)) 27 22
    let vsel := vselOf (bits (routeWord s x.el x.v (48 + x.slot)) 10 9)
    let c : Cmd :=
      { op := BitVec.ofNat 8 x.form.op, hdr := BitVec.ofNat 24 (laneOf x.b 0).toNat, a := applyVsel vsel (headed x tag seq (operandTok x.a))
        p := x.p, el := x.el, v := x.v, slot := x.slot, cfg := x.cfg, region := r, port := port
        queue := (regionOf s r).queue, d0 := (route s x.el x.v x.form.d).toList, d1 := (route s x.el x.v x.form.e).toList
        ident := s.nextIdent }
    let fl : Flight := { tok := c.a, dest := .engine r port .keep, src := x.el, cmd := some c, slot := some (key16 x.v x.slot) }
    some (afterFiring { s with net := s.net ++ [fl], nextIdent := s.nextIdent + 1 } x)

/-- The opcode of an engine command: NULL and EOS go to D0 and D1, and send no command. -/
def engineOp : Op := { compare := false, body := sendCommand }

/-- The firing of an engine command. -/
def fireCommand (op : Nat) (a b : BitVec 4) (d e : BitVec 6) (t : BitVec 4) (s : State) : State :=
  fire engineOp (form op a b d e t) s

/-! ### Parameters (R332, R333) -/

/-- Parameter lane `j`; a masked or absent lane is read as 0. -/
def param (c : Cmd) (j : Nat) : Nat := (tokLane c.a j).toNat

def Cmd.mods (c : Cmd) : Nat := bits c.hdr.toNat 11 0
def Cmd.waitf (c : Cmd) : Nat := bits c.hdr.toNat 19 16
def Cmd.sigf (c : Cmd) : Nat := bits c.hdr.toNat 15 12
def Cmd.part (c : Cmd) : Nat := cfgPart c.cfg
def Cmd.tag (c : Cmd) : Tag := c.a.tag
def Cmd.cluster (c : Cmd) : Nat := c.region / 4
def Cmd.code (c : Cmd) : Nat := c.op.toNat
def Cmd.rel (c : Cmd) : Bool := bit c.hdr.toNat 22
def Cmd.core (c : Cmd) : Nat := coreId c.cluster (portCore c.region c.port)

/-- The command may be cut where it stands (R124): every step leaves it between two rows, visits or pieces, and of the matrix
core's commands only MXSTR and the sender of MXDRP (R265) stop between two rows; the others run to their end. -/
def cutHere (c : Cmd) : Bool :=
  !c.issued || c.finished || c.parked.isSome || c.code < 0xC0 || 0xC7 < c.code || c.code = 0xC2 || c.code = 0xC4 || c.row = 0

/-- The accesses of a command that wait for pages: its own, and a descent's, one for each row and one for each node (R275). -/
def Cmd.pages (c : Cmd) : List Nat :=
  let ws : List Walker := match c.descent with | some d => d.walkers.filter (·.parked.isSome) | none => []
  let key (w : Walker) := (w.parked.getD 0, w.row.isNone, if w.row.isNone then w.j else w.node)
  c.parked.toList ++ (ws.map key).eraseDups.map fun x => x.1

/-- The accesses of a command that wait for a page, as another waits. -/
def Cmd.mapPages (f : Option Nat → Option Nat) (c : Cmd) : Cmd :=
  { c with
    parked := f c.parked
    descent := c.descent.map fun d => { d with walkers := d.walkers.map fun w => { w with parked := f w.parked } } }

/-- Commands with no completion (R413 to R427): SHIDX computes, and PACKR with MARKS sends marks instead. -/
def noCompletion (c : Cmd) : Bool :=
  [0xB3, 0xB8, 0xD3, 0xD4, 0xDA, 0xDB, 0xE2].contains c.code || (c.code == 0xE0 && c.mods % 4 == 0) ||
    (c.code == 0xE1 && bit c.mods 1)

/-- Whether a parameter lane that names a record has [31:12] zero and, where there is such a record, it satisfies a test
(R414, R415). -/
def recParam (s : State) (c : Cmd) (j : Nat) (ok : Rec → Bool) : Bool :=
  param c j < 4096 && (match recOf s c.cfg (param c j) with | some r => ok r | none => true)

/-! ### Running with the region (R108, R124) -/

/-- The command's queue holds its region, which runs, and its engine does not stall for the swap of its control store (R47). -/
def cmdRuns (s : State) (c : Cmd) : Bool :=
  regionRuns s c.region c.part && (regionOf s c.region).queue == c.queue && !engineStalls s c.region c.port

/-- A command of a queue that is being saved goes on to its boundary (R124). -/
def toBoundary (s : State) (c : Cmd) : Bool :=
  let g := regionOf s c.region
  g.owner == c.part && g.queue == c.queue && g.state == .saving && !c.saved && !cutHere c && !engineStalls s c.region c.port

/-- A command that has issued goes on. -/
def cmdGoes (s : State) (c : Cmd) : Bool := cmdRuns s c || toBoundary s c

/-! ### Answers (R413, R414) -/

/-- An answer token of a command; the lanes stand as given. -/
def answerCmd (c : Cmd) (fmt : Fmt) (ls : List Word) (m : BitVec 8) (poison : Bool := false) : Token :=
  { fmt := fmt, lanes := ls, mask := m, tag := c.a.tag, seq := c.a.seq, ctx := c.a.ctx, v := c.a.v, floor := c.a.floor
    poison := poison }

/-- The ILLEGAL token. -/
def illegalTok (c : Cmd) : Token := { answerCmd c .i32 [0xFFFFFFFF#32] 1 with pred := true }

/-- ENGINE event of a command. -/
def cmdEvent (s : State) (c : Cmd) (code : Nat) : State := engineEvent s c.region c.port code c.code c.part c.tag.toNat c.a.floor

/-- An answer sent, entering Q3 of its destination (R245). -/
def sendAnswer (s : State) (c : Cmd) (t : Token) (ds : List Dest) : State := sendAll s c.el t (ds.map viaPort)

/-- The answer of a command that is ILLEGAL (R414): nothing else acts. -/
def answerIllegal (s : State) (c : Cmd) : State :=
  cmdEvent (sendAnswer s c (illegalTok c) (if noCompletion c then c.d0 else c.d1)) c 5

/-- A fault of a command (R130, R132): the command ends unanswered. -/
def cmdFault (s : State) (c : Cmd) (code : Byte) : State :=
  elemFault { s with cmds := s.cmds.filter (·.ident != c.ident) } c.el c.v c.slot c.part c.tag code

/-- A command whose work is over: its completion lanes. -/
def finish (c : Cmd) (ls : List Word) (answers : List Token := []) (poison : Bool := false) : Cmd :=
  { c with finished := true, done := some ls, answers := c.answers ++ answers, donePoison := poison, parked := none }

/-- A command with no completion whose work is over. -/
def finishSilent (c : Cmd) (answers : List Token) : Cmd :=
  { c with finished := true, answers := c.answers ++ answers, parked := none }

/-! ### Sync FIFOs (R257) -/

def fifoOf (s : State) (c : Cmd) (f : Nat) : List (Nat × Token) := lookup [] (clusterOf s c.cluster).fifos (16 * c.part + f)
def putFifo (s : State) (c : Cmd) (f : Nat) (l : List (Nat × Token)) : State :=
  modCluster s c.cluster fun k => { k with fifos := store k.fifos (16 * c.part + f) l }

/-- Whether the FIFO a command pushes is full, which holds its retirement. -/
def sigfFull (s : State) (c : Cmd) : Bool := c.sigf != 0 && 64 ≤ (fifoOf s c c.sigf).length

/-- A command whose work is over but whose push finds its FIFO full holds the engine. -/
def holdsEngine (s : State) (c : Cmd) : Bool := c.finished && sigfFull s c && cmdRuns s c

/-! ### Accesses of engines (R193 to R195, R202, R415) -/

/-- One access after another. -/
def Access.andThen {α β : Type} (x : Access α) (f : α → Access β) : Access β :=
  match x with
  | .done a => f a
  | .hold => .hold
  | .perm => .perm
  | .page p => .page p

/-- An access for each entry of a list, in order. -/
def eachAccess {α β : Type} (f : β → α → Access β) : β → List α → Access β
  | b, [] => .done b
  | b, a :: as => (f b a).andThen fun b => eachAccess f b as

/-- The distinct poisoned granules among places (R262). -/
def addGranules (s : State) (gs : List (Bool × Nat)) (ps : List Place) : List (Bool × Nat) :=
  ps.foldl (fun gs p => if poisoned s p && !gs.contains (p.host, p.addr / 64) then gs ++ [(p.host, p.addr / 64)] else gs) gs

/-- A record of a command with the rights asked for; PERM without (R415). -/
def recFor (s : State) (cfg idx : Nat) (rights : List Nat) : Access Rec :=
  match recOf s cfg idx with
  | none => .perm
  | some r => if rights.all (hasRight r) then .done r else .perm

/-- Lanes read from a record: the word of each, none out of bounds, their places, and the companion's scale. -/
structure Span where
  words : List (Option Word)
  places : List Place
  aux : Option Word
  deriving DecidableEq, Repr

/-- `n` lanes of record `idx` from a coordinate, accessed from a die, each out-of-bounds lane counted; `scaled` takes them as a packet of the
record, with its companion's scale for FMT 3 to 7 (R195). -/
def readSpan (s : State) (die cfg idx : Nat) (r : Rec) (c : List Nat) (n : Nat) (scaled : Bool) : Access (State × Span) :=
  let c := clipCoord r c
  let c := if scaled then snapCoord r c else c
  match lanePlaces s die cfg r c .read (List.range n) with
  | .error x => failed x
  | .ok ps =>
    match (if scaled then scalePlace s die cfg r c .read ps else .ok none) with
    | .error x => failed x
    | .ok sc =>
      if linkWaits s ps sc then .hold
      else
        let s := if ps.any (·.2.any (·.host)) || sc.any (·.host) then pushHost s none else s
        .done (countOob s cfg idx (ps.filter (·.2.isNone)).length,
        { words := ps.map fun p => p.2.map (loadWord s), places := ps.filterMap (·.2) ++ sc.toList
          aux := if 3 ≤ fmtCode r.fmt then some (placeWordAt s sc) else none })

/-- Who writes: the command or copy, its partition and region, and the region whose caches see the write perform (R216). -/
structure Sender where
  owner : Nat
  part : Nat
  queue : Nat
  region : Nat
  near : Option Nat := none
  copy : Bool := false
  deriving DecidableEq, Repr

def senderOf (c : Cmd) : Sender := { owner := c.ident, part := c.part, queue := c.queue, region := c.region }

/-- A word of each granule that words at places cover whole, where the places follow one another (R202). -/
def wholeOf (ps : List Place) : List Target :=
  match ps with
  | [] => []
  | p :: _ =>
    if ps == (List.range ps.length).map (fun i => (⟨p.host, p.addr + 4 * i⟩ : Place))
    then (wholeGranules p.addr (4 * ps.length)).map fun g => .mem ⟨p.host, 64 * g⟩ else []

/-- A place in the window of a peer's BAR2, which no copy uses while FEATACT.PEERCOPY is 0 (R16, R36). -/
def peerBarred (s : State) (p : Place) : Bool :=
  p.host && !featOn s 14 && s.dev.peers.any fun w => w.1 ≤ p.addr && p.addr < w.1 + w.2

/-- Words sent to their places (R214): they are on their way from then on, with the pages whose translations they use. -/
def sendWords (s : State) (by_ : Sender) (hits : List (Place × Word)) (mark : Bool) (pages : List Nat) : State :=
  post s { pages := pages, owner := by_.owner, part := by_.part, queue := by_.queue, region := by_.region, writes := hits.map fun h => (.mem h.1, h.2)
           whole := wholeOf (hits.map (·.1)), poison := mark, near := by_.near }

/-- The partition's pages that an access to lanes of a record is translated by. -/
def spanPages (r : Rec) (c js : List Nat) : List Nat :=
  if r.space != 0 then []
  else (js.filterMap fun j => let a := laneAddress r c j; if a.1 then some (a.2 / 4096) else none).eraseDups

/-- Lanes (number and word) written to record `idx` at a coordinate: the state and the lanes stored. Out-of-bounds lanes
are counted; `mark` writes the granules poisoned (R202, R262). -/
def writeSpan (s : State) (by_ : Sender) (die cfg idx : Nat) (r : Rec) (c : List Nat) (ws : List (Nat × Word)) (mark : Bool) :
    Access (State × Nat) :=
  match lanePlaces s die cfg r (clipCoord r c) .write (ws.map (·.1)) with
  | .error x => failed x
  | .ok ps =>
    let hits := (ps.zip ws).filterMap fun q => q.1.2.map fun p => (p, q.2.2)
    if by_.copy && hits.any (peerBarred s ·.1) then .perm
    else if linkWaits s ps then .hold
    else .done (sendWords (countOob s cfg idx (ps.filter (·.2.isNone)).length) by_ hits mark (spanPages r (clipCoord r c) (ws.map (·.1))),
      hits.length)

/-- A scratch word as an engine reaches it (R186, R418): none outside a SCRATCH bank; PERM in a region the partition does
not hold. -/
def engineWord (s : State) (n cl w : Nat) : Access (Option (Nat × Nat × Nat)) :=
  let w := w % 2 ^ 25
  if 24 ≤ w / 2 ^ 20 then .done none
  else match scrTarget s n cl false w with
    | .word c b i => .done (some (c, b, i))
    | .perm => .perm
    | _ => .done none

/-! ### The opcodes -/

/-- CPARM (R417 to R419): the command is sent to its engine. -/
def execCparm (a b : BitVec 4) (d e : BitVec 6) (t : BitVec 4) (s : State) : Answer :=
  .next (fireCommand 0xB0 a b d e t s)

/-- CPDIS (R417 to R419): the command is sent to its engine. -/
def execCpdis (a b : BitVec 4) (d e : BitVec 6) (t : BitVec 4) (s : State) : Answer :=
  .next (fireCommand 0xB1 a b d e t s)

/-- CPGO (R417 to R419): the command is sent to its engine. -/
def execCpgo (a b : BitVec 4) (d e : BitVec 6) (t : BitVec 4) (s : State) : Answer :=
  .next (fireCommand 0xB2 a b d e t s)

/-- GATHER (R417 to R419): the command is sent to its engine. -/
def execGather (a b : BitVec 4) (d e : BitVec 6) (t : BitVec 4) (s : State) : Answer :=
  .next (fireCommand 0xB3 a b d e t s)

/-- SCATTER (R417 to R419): the command is sent to its engine. -/
def execScatter (a b : BitVec 4) (d e : BitVec 6) (t : BitVec 4) (s : State) : Answer :=
  .next (fireCommand 0xB4 a b d e t s)

/-- SCATADD (R417 to R419): the command is sent to its engine. -/
def execScatadd (a b : BitVec 4) (d e : BitVec 6) (t : BitVec 4) (s : State) : Answer :=
  .next (fireCommand 0xB5 a b d e t s)

/-- TILELD (R417 to R419): the command is sent to its engine. -/
def execTileld (a b : BitVec 4) (d e : BitVec 6) (t : BitVec 4) (s : State) : Answer :=
  .next (fireCommand 0xB6 a b d e t s)

/-- TILEST (R417 to R419): the command is sent to its engine. -/
def execTilest (a b : BitVec 4) (d e : BitVec 6) (t : BitVec 4) (s : State) : Answer :=
  .next (fireCommand 0xB7 a b d e t s)

/-- OOBRD (R417 to R419): the command is sent to its engine. -/
def execOobrd (a b : BitVec 4) (d e : BitVec 6) (t : BitVec 4) (s : State) : Answer :=
  .next (fireCommand 0xB8 a b d e t s)

/-- MXLW (R420): the command is sent to its engine. -/
def execMxlw (a b : BitVec 4) (d e : BitVec 6) (t : BitVec 4) (s : State) : Answer :=
  .next (fireCommand 0xC0 a b d e t s)

/-- MXSWAP (R420): the command is sent to its engine. -/
def execMxswap (a b : BitVec 4) (d e : BitVec 6) (t : BitVec 4) (s : State) : Answer :=
  .next (fireCommand 0xC1 a b d e t s)

/-- MXSTR (R420): the command is sent to its engine. -/
def execMxstr (a b : BitVec 4) (d e : BitVec 6) (t : BitVec 4) (s : State) : Answer :=
  .next (fireCommand 0xC2 a b d e t s)

/-- MXZERO (R420): the command is sent to its engine. -/
def execMxzero (a b : BitVec 4) (d e : BitVec 6) (t : BitVec 4) (s : State) : Answer :=
  .next (fireCommand 0xC3 a b d e t s)

/-- MXDRP (R420): the command is sent to its engine. -/
def execMxdrp (a b : BitVec 4) (d e : BitVec 6) (t : BitVec 4) (s : State) : Answer :=
  .next (fireCommand 0xC4 a b d e t s)

/-- MXDRS (R420): the command is sent to its engine. -/
def execMxdrs (a b : BitVec 4) (d e : BitVec 6) (t : BitVec 4) (s : State) : Answer :=
  .next (fireCommand 0xC5 a b d e t s)

/-- MXDRM (R420): the command is sent to its engine. -/
def execMxdrm (a b : BitVec 4) (d e : BitVec 6) (t : BitVec 4) (s : State) : Answer :=
  .next (fireCommand 0xC6 a b d e t s)

/-- MXQP (R420): the command is sent to its engine. -/
def execMxqp (a b : BitVec 4) (d e : BitVec 6) (t : BitVec 4) (s : State) : Answer :=
  .next (fireCommand 0xC7 a b d e t s)

/-- TDCFG (R423, R424): the command is sent to its engine. -/
def execTdcfg (a b : BitVec 4) (d e : BitVec 6) (t : BitVec 4) (s : State) : Answer :=
  .next (fireCommand 0xD0 a b d e t s)

/-- TDSC (R423, R424): the command is sent to its engine. -/
def execTdsc (a b : BitVec 4) (d e : BitVec 6) (t : BitVec 4) (s : State) : Answer :=
  .next (fireCommand 0xD1 a b d e t s)

/-- TDGRP (R423, R424): the command is sent to its engine. -/
def execTdgrp (a b : BitVec 4) (d e : BitVec 6) (t : BitVec 4) (s : State) : Answer :=
  .next (fireCommand 0xD2 a b d e t s)

/-- TDPTR (R423, R424): the command is sent to its engine. -/
def execTdptr (a b : BitVec 4) (d e : BitVec 6) (t : BitVec 4) (s : State) : Answer :=
  .next (fireCommand 0xD3 a b d e t s)

/-- TDNODE (R423, R424): the command is sent to its engine. -/
def execTdnode (a b : BitVec 4) (d e : BitVec 6) (t : BitVec 4) (s : State) : Answer :=
  .next (fireCommand 0xD4 a b d e t s)

/-- BRCFG (R423, R424): the command is sent to its engine. -/
def execBrcfg (a b : BitVec 4) (d e : BitVec 6) (t : BitVec 4) (s : State) : Answer :=
  .next (fireCommand 0xD8 a b d e t s)

/-- BRIN (R423, R424): the command is sent to its engine. -/
def execBrin (a b : BitVec 4) (d e : BitVec 6) (t : BitVec 4) (s : State) : Answer :=
  .next (fireCommand 0xD9 a b d e t s)

/-- BRRET (R423, R424): the command is sent to its engine. -/
def execBrret (a b : BitVec 4) (d e : BitVec 6) (t : BitVec 4) (s : State) : Answer :=
  .next (fireCommand 0xDA a b d e t s)

/-- BRSTAT (R423, R424): the command is sent to its engine. -/
def execBrstat (a b : BitVec 4) (d e : BitVec 6) (t : BitVec 4) (s : State) : Answer :=
  .next (fireCommand 0xDB a b d e t s)

/-- BRPIN (R423, R424): the command is sent to its engine. -/
def execBrpin (a b : BitVec 4) (d e : BitVec 6) (t : BitVec 4) (s : State) : Answer :=
  .next (fireCommand 0xDC a b d e t s)

/-- SHIDX (R425 to R427): the command is sent to its engine. -/
def execShidx (a b : BitVec 4) (d e : BitVec 6) (t : BitVec 4) (s : State) : Answer :=
  .next (fireCommand 0xE0 a b d e t s)

/-- PACKR (R425 to R427): the command is sent to its engine. -/
def execPackr (a b : BitVec 4) (d e : BitVec 6) (t : BitVec 4) (s : State) : Answer :=
  .next (fireCommand 0xE1 a b d e t s)

/-- The firing of the slot in hand, where it forwards an EOS (R171). -/
def eosFiring (o : Op) (fm : Form) (s : State) : Option Firing :=
  match slotInHand s, opInfo fm.op with
  | some h, some i =>
    match gather s h fm (readFields i fm) o.compare with
    | .eos f _ => if roomFor s h.el h.v fm then some f else none
    | _ => none
  | _, _ => none

/-- SEGID commands of a tag are on their way to the ingress unit of a die, or in it. -/
def segidsUnderWay (s : State) (die n : Nat) (t : Tag) : Bool :=
  let mine (c : Cmd) := c.code == 0xE2 && c.part == n && c.tag == t && regionDie c.region == die && !c.finished
  s.cmds.any mine || s.net.any fun f => f.cmd.any mine

/-- The counter of a tag, where the unit holds one, at 0 (R98); it stays held until its tag is freed (R427). -/
def zeroSegid (s : State) (die n : Nat) (t : Tag) : State :=
  let key := 65536 * n + t.toNat
  modIngress s die fun i => if (lookup none i.segids key).isSome then { i with segids := store i.segids key (some 0) } else i

/-- SEGID (R425 to R427): the command is sent to its engine; an EOS resets the counter of the tag that the stream's commands count
under, which is that of its results, once those before it have counted (R98). -/
def execSegid (a b : BitVec 4) (d e : BitVec 6) (t : BitVec 4) (s : State) : Answer :=
  let s' := fireCommand 0xE2 a b d e t s
  match (eosFiring engineOp (form 0xE2 a b d e t) s).bind fun f => (resultTag s f).map fun r => (f, r.1) with
  | some (f, u) => .next (if segidsUnderWay s (elemDie f.el) f.part u then s else zeroSegid s' (elemDie f.el) f.part u)
  | none => .next s'

end Sys2Proof.Machine
end

