-- ==== Sys2Proof/Machine/Broker.lean ====
section
/-! DEFINITION. The broker (R276 to R286, R424): query descriptors, counters and routing, symmetric joins, and the work
of the commands 0xD8 to 0xDC. -/

namespace Sys2Proof.Machine

/-! ### A broker at work -/

/-- A broker in the middle of an event: its slots, what it sends (slot, place word, record), and the moment free values
are taken at. -/
structure BrRun where
  slots : Sparse (Option BrSlot)
  sends : List (Nat × Word × BrRec) := []
  moment : Nat
  deriving DecidableEq, Repr

def brSlot (b : BrRun) (q : Nat) : Option BrSlot := lookup none b.slots q
def modBrSlot (b : BrRun) (q : Nat) (f : BrSlot → BrSlot) : BrRun :=
  match brSlot b q with
  | some x => { b with slots := store b.slots q (some (f x)) }
  | none => b

/-- Records outstanding at the broker (R276): a waiting output is not. -/
def brOutstanding (slots : Sparse (Option BrSlot)) : Nat :=
  (slots.map fun x => match x.2 with | some b => (b.recs.filter (!·.waiting)).length | none => 0).sum

/-- Operator `i` of a slot. -/
def brOp (b : BrSlot) (i : Nat) : BrOp := b.ops.getD i {}

/-! ### Choosing (R278, R279) -/

/-- Operators a record may visit next. -/
def eligible (b : BrSlot) (r : BrRec) : List Nat :=
  (List.range 8).filter fun i => b.req.getLsbD i && !r.done.getLsbD i && (brOp b i).pre &&& ~~~r.done == 0

/-- The cost total of an operator. -/
def brCost (b : BrSlot) (i : Nat) : Nat := if b.measured then (brOp b i).cm.toNat else (brOp b i).v.toNat * (brOp b i).cost

/-- The operator the broker chooses, of the eligible ones. -/
def choose (b : BrSlot) (r : BrRec) (el : List Nat) : Nat :=
  let first := el.headD 0
  match b.pin.find? (el.contains ·) with
  | some i => i
  | none =>
    match el.find? fun i => (brOp b i).warm < 8 with
    | some i => i
    | none =>
      if b.e != 0 && r.n % b.e == 0 then first
      else el.foldl (fun best i =>
        if (brOp b best).d.toNat * brCost b i < (brOp b i).d.toNat * brCost b best then i else best) first

/-- A completed visit counted (R278). -/
def countVisit (b : BrSlot) (i : Nat) (drop : Bool) (cycles : Nat) : BrSlot :=
  let f (o : BrOp) : BrOp := { o with
    v := satAdd o.v 1, d := satAdd o.d (ofBit drop), warm := min 8 (o.warm + 1), cm := if b.measured then satAdd o.cm cycles else o.cm }
  { b with ops := modifyAt f b.ops i }

/-- Halving before a record is routed whose n is a multiple of H. -/
def halve (b : BrSlot) : BrSlot :=
  if b.n % 2 ^ b.hlog2 != 0 then b
  else { b with ops := b.ops.map fun o => { o with v := o.v >>> 1, d := o.d >>> 1, cm := o.cm >>> 1 } }

/-! ### Records (R280, R284) -/

/-- The least admission number whose records have not all finished. -/
def brLow (b : BrSlot) : Nat :=
  (b.brins.filter fun x => b.recs.any (·.brin == x.cmd)).foldl (fun a x => min a x.n) (b.n + 1)

/-- Entries beyond every window removed (R284). -/
def pruneTable (b : BrSlot) : BrSlot :=
  { b with table := b.table.filter fun e => brLow b ≤ e.n + (brOp b e.op).window }

/-- A record ends (0 exits, 1 dropped, 2 consumed by a join). -/
def endRecord (b : BrSlot) (r : BrRec) (fate : Nat) : BrSlot :=
  let brin (x : BrIn) : BrIn := if x.cmd == r.brin then
      { x with exits := x.exits + ofBit (fate == 0), fate := if r.output then x.fate else some fate }
    else x
  pruneTable { b with
    recs := b.recs.filter (·.seq != r.seq), brins := b.brins.map brin
    exits := if fate == 0 then satAdd b.exits 1 else b.exits
    drops := if fate == 1 then satAdd b.drops 1 else b.drops
    table := if fate == 1 && !r.output then b.table.filter (·.seq != r.seq) else b.table }

/-- The done bits of a record changed: its entries follow it. -/
def setDone (b : BrSlot) (r : BrRec) (d : BitVec 8) : BrSlot :=
  { b with table := if r.output then b.table else b.table.map fun e => if e.seq == r.seq then { e with done := d } else e
           recs := b.recs.map fun x => if x.seq == r.seq then { x with done := d } else x }

/-- Four lanes of a record's token from lane `h`, with their mask bits. -/
def halfOf (t : Token) (h : Nat) : List (Word × Bool) := (List.range 4).map fun j => (tokLane t (h + j), t.mask.getLsbD (h + j))

/-- The half a probing record gives to an output: its own half where it is an output itself. -/
def probeHalf (r : BrRec) : List (Word × Bool) := halfOf r.tok (if r.output && r.sideB then 4 else 0)

/-- A join output (R284). -/
def joinOutput (r : BrRec) (i : Nat) (seq : BitVec 24) (e : BrEntry) : BrRec :=
  let theirs := (List.range 4).map fun j => (e.lanes.getD j 0, e.mask.getLsbD j)
  let both := if r.sideB then theirs ++ probeHalf r else probeHalf r ++ theirs
  { r with
    tok := { r.tok with lanes := both.map (·.1), mask := maskFrom (both.map (·.2)) }
    seq := seq, done := r.done ||| e.done ||| (1 <<< i), visit := none, output := true, waiting := true }

/-- A join visit (R284): outputs are made and wait to be routed; the probing record is consumed. -/
def visitJoin (b : BrSlot) (r : BrRec) (i : Nat) : BrSlot :=
  let same := b.table.filter fun e => e.op == i && e.sideB != r.sideB && e.key == r.keys.getD i 0
  let hits := same.filter fun e => e.n < r.n && r.n - e.n ≤ (brOp b i).window
  let outs := hits.mapIdx fun k e => joinOutput r i (b.seq + BitVec.ofNat 24 k) e
  endRecord { countVisit b i hits.isEmpty (2 + same.length + hits.length) with
    seq := b.seq + BitVec.ofNat 24 hits.length, recs := b.recs ++ outs } r 2

/-- A record routed (R280). -/
def routeRecord (b : BrRun) (q : Nat) (r : BrRec) : BrRun :=
  match brSlot b q with
  | none => b
  | some x =>
    if r.done == x.req then { modBrSlot b q fun x => endRecord x r 0 with sends := b.sends ++ [(q, x.exit, r)] }
    else
      let i := choose x r (eligible x r)
      if (brOp x i).join then modBrSlot b q fun x => visitJoin x r i
      else { modBrSlot b q fun x => { x with recs := x.recs.map fun y => if y.seq == r.seq then { y with visit := some i } else y } with
             sends := b.sends ++ [(q, (brOp x i).target, r)] }

/-- The first output that waits, by slot. -/
def firstWaiting (b : BrRun) : Option (Nat × BrRec) :=
  (List.range 4).findSome? fun q => ((brSlot b q).bind fun x => x.recs.find? (·.waiting)).map fun r => (q, r)

/-- Outputs routed while fewer than 1,024 records are outstanding, at most `k` of them. -/
def flushOutputs : Nat → BrRun → BrRun
  | 0, b => b
  | k + 1, b =>
    if Config.brokerRecords ≤ brOutstanding b.slots then b
    else match firstWaiting b with
      | none => b
      | some (q, r) =>
        let b := modBrSlot b q fun x => { x with recs := x.recs.map fun y => if y.seq == r.seq then { y with waiting := false } else y }
        flushOutputs k (routeRecord b q { r with waiting := false })

/-- Enough rounds for every output that can come of those waiting: an output with k operators to go makes at most one
output per table entry, each with fewer to go. -/
def flushRounds (b : BrRun) : Nat :=
  let entries := (b.slots.map fun x => match x.2 with | some s => s.table.length | none => 0).sum
  let waiting := (b.slots.map fun x => match x.2 with | some s => (s.recs.filter (·.waiting)).length | none => 0).sum
  waiting * (entries + 1) ^ 8 + 1

def flushBroker (b : BrRun) : BrRun := flushOutputs (flushRounds b) b

/-! ### The state around it -/

def brokerOf (s : State) (cl : Nat) : BrRun := { slots := (clusterOf s cl).broker, moment := s.moment }

/-- The element, slot and field a place word names in a configuration's footprint. -/
def placeDest (p : Placement) (w : Word) : Dest :=
  let x := w.toNat
  .slot (elemAt p.cluster (p.x0 + bits x 7 0) (p.y0 + bits x 15 8)) (bits x 19 16) (bits x 21 20) .keep true

/-- A record on its way out: its AUX word holds the done bits and the arrival sequence (R161). -/
def recordTok (p : Placement) (r : BrRec) : Token :=
  { r.tok with v := p.v, aux := some (BitVec.ofNat 32 (r.done.toNat + 256 * r.seq.toNat)) }

/-- What a broker's event leaves. -/
def putBroker (s : State) (cl : Nat) (b : BrRun) : State :=
  let send (s : State) (x : Nat × Word × BrRec) : State :=
    match (brSlot b x.1).bind fun sl => placementIn s sl.cfg sl.region with
    | some p => let d := placeDest p x.2.1; sendTok s (match d with | .slot el _ _ _ _ => el | _ => 0) (recordTok p x.2.2) d
    | none => s
  b.sends.foldl send { modCluster s cl fun k => { k with broker := b.slots } with moment := b.moment }

/-! ### Descriptors (R277) -/

/-- A place word within a footprint, with a field below 3 and [31:22] zero. -/
def placeOk (w h t : Nat) : Bool := bits t 7 0 < w && bits t 15 8 < h && bits t 21 20 < 3 && t < 2 ^ 22

/-- `n` bytes of a descriptor at an offset, as a number. -/
def descField (b : List Byte) (o n : Nat) : Nat := leNat ((b.drop o).take n)

/-- Operator `i` of a descriptor, if it is in order. -/
def parseOp (w h : Nat) (b : List Byte) (req : Nat) (i : Nat) : Option BrOp :=
  let o := 16 + 16 * i
  if !bit req i then some {}
  else
    let kind := descField b o 1
    let pre := descField b (o + 1) 1
    let cost := descField b (o + 2) 2
    let target := descField b (o + 4) 4
    let ka := descField b (o + 8) 1
    let kb := descField b (o + 9) 1
    let win := descField b (o + 10) 2
    let shape := if kind = 0 then placeOk w h target && ka = 0 && kb = 0 && win = 0
      else target = 0 && ka < 8 && kb < 8 && 1 ≤ win && win ≤ 4096
    let outside := (List.range 8).any fun k => bit pre k && !bit req k
    if kind < 2 && 1 ≤ cost && !bit pre i && !outside && descField b (o + 12) 4 = 0 && shape then
      some { join := kind = 1, pre := BitVec.ofNat 8 pre, cost := cost, target := BitVec.ofNat 32 target, keyA := ka, keyB := kb, window := win }
    else none

/-- Operators whose prerequisites can be met in order, after `k` rounds. -/
def reachable (req : Nat) (ops : List BrOp) : Nat → BitVec 8 → BitVec 8
  | 0, d => d
  | k + 1, d => reachable req ops k ((List.range 8).foldl (fun d i =>
      if bit req i && (ops.getD i {}).pre &&& ~~~d == 0 then d ||| (1 <<< i) else d) d)

/-- Table space of the join operators of a slot. -/
def joinSpace (ops : List BrOp) : Nat := ((ops.filter (·.join)).map fun o => 2 * (o.window + 1024)).sum

/-- A descriptor as a slot; none where it is ILLEGAL. `others` is the join space of the other slots. -/
def parseQuery (c : Cmd) (w h others : Nat) (b : List Byte) : Option BrSlot :=
  let req := descField b 0 1
  let mode := descField b 1 1
  let ops := (List.range 8).map (parseOp w h b req)
  if 2 ≤ mode || descField b 4 1 < 4 || 12 < descField b 4 1 || descField b 5 3 != 0 || !placeOk w h (descField b 8 4) ||
      descField b 12 4 != 0 || ops.any (·.isNone) then none
  else
    let os := ops.map (·.getD {})
    if (reachable req os 8 0).toNat != req || 16384 < others + joinSpace os then none
    else some
      { part := c.part, cfg := c.cfg, region := c.region, req := BitVec.ofNat 8 req, measured := mode = 1, e := descField b 2 2
        hlog2 := descField b 4 1, exit := BitVec.ofNat 32 (descField b 8 4), ops := os }

/-! ### ILLEGAL (R276, R280, R414, R424) -/

/-- The query slot that MODS[1:0] names. -/
def Cmd.query (c : Cmd) : Nat := c.mods % 4

/-- The arrival sequence a BRRET's AUX word names. -/
def retSeq (c : Cmd) : BitVec 24 := BitVec.ofNat 24 (((c.a.aux.map (·.toNat)).getD 0) / 256)

/-- The outstanding visit a BRRET answers, if no earlier one claims it. -/
def visitFor (s : State) (c : Cmd) (b : BrSlot) : Option BrRec :=
  let claimed := s.cmds.any fun d => d.code == 0xDA && d.cluster == c.cluster && d.query == c.query && retSeq d == retSeq c && !d.finished && d.ident != c.ident
  if claimed then none else b.recs.find? fun r => r.seq == retSeq c && r.visit.isSome

/-- The operators a BRPIN lists, in lane order of the set mask bits. -/
def pinList (c : Cmd) : List Nat := ((List.range (lanesOf c.a)).filter c.a.mask.getLsbD).map (param c)

/-- Whether a list names every operator of REQ exactly once. -/
def pinOk (req : BitVec 8) (l : List Nat) : Bool :=
  (List.range 8).all (fun i => l.count i == ofBit (req.getLsbD i)) && l.all (· < 8)

def brokerIllegal (s : State) (c : Cmd) : Bool :=
  let slot := brSlot (brokerOf s c.cluster) c.query
  let other := match slot with | some b => b.part != c.part | none => false
  if c.code = 0xD8 then 4 ≤ c.mods || other || !recParam s c 0 (·.fmt == .i32)
  else match slot with
    | none => true
    | some b =>
      other || (match c.code with
        | 0xD9 => 8 ≤ c.mods || c.a.fmt != .i32
        | 0xDA => 8 ≤ c.mods || c.a.aux.isNone || (visitFor s c b).isNone
        | 0xDB => 32 ≤ c.mods
        | _ => 4 ≤ c.mods || !((pinList c).isEmpty || pinOk b.req (pinList c)))

/-- A BRRET that answers no visit discards its record, counted at the sender (R280). -/
def brokerDrop (s : State) (c : Cmd) : State := if c.code = 0xDA then bump s c.el .dropCnt 1 else s

/-! ### The commands -/

/-- Words of a descriptor from element `k` on. -/
def queryWords (s : State) (c : Cmd) (r : Rec) (k n : Nat) : Access (State × List Word) :=
  (readSpan s (regionDie c.region) c.cfg (param c 0) r [param c 1 + k] n false).andThen fun x => .done (x.1, x.2.words.map (·.getD 0))

/-- The bytes of a descriptor: element 0 alone where REQ is 0, and of the operators those of REQ alone (R277, R320); those of others
stand as zeros. -/
def readQuery (s : State) (c : Cmd) : Access (State × List Byte) :=
  (recFor s c.cfg (param c 0) [0]).andThen fun r => (queryWords s c r 0 1).andThen fun x =>
    let req := (x.2.getD 0 0).toNat % 256
    let operator (acc : State × List Word) (i : Nat) : Access (State × List Word) :=
      if !bit req i then .done (acc.1, acc.2 ++ [0, 0, 0, 0])
      else (queryWords acc.1 c r (4 + 4 * i) 4).andThen fun y => .done (y.1, acc.2 ++ y.2)
    let all := if req = 0 then .done x
      else (queryWords x.1 c r 1 3).andThen fun y => eachAccess operator (y.1, x.2 ++ y.2) (List.range 8)
    all.andThen fun x => .done (x.1, x.2.flatMap fun w => leBytes 4 w.toNat)

/-- A command of the broker that finds its slot another partition's, or no longer configured, by the time it acts (R276). -/
def endIllegal (c : Cmd) : Cmd := { c with finished := true, illegal := true }

/-- The slot that a command names, where it belongs to the command's own partition (R276). -/
def ownSlot (s : State) (c : Cmd) : Option BrSlot := (brSlot (brokerOf s c.cluster) c.query).filter (·.part == c.part)

/-- The query slot that a BRCFG names has a record outstanding (R277). -/
def queryBusy (s : State) (c : Cmd) : Bool :=
  match brSlot (brokerOf s c.cluster) c.query with | some x => !x.recs.isEmpty || !x.brins.isEmpty | none => false

/-- A descriptor as the slot of a BRCFG would take it. -/
def queryOf (s : State) (c : Cmd) (bytes : List Byte) : Option BrSlot :=
  let g := (graphAt s c.cfg).config
  let others := ((brokerOf s c.cluster).slots.map fun y => match y.2 with
    | some z => if y.1 == c.query then 0 else joinSpace z.ops
    | none => 0).sum
  parseQuery c g.w g.h others bytes

/-- A BRCFG is ILLEGAL for its slot's partition (R276) or for what its descriptor holds (R277), once the slot has no record
outstanding. -/
def queryIllegal (s : State) (c : Cmd) : Access Bool :=
  if (brSlot (brokerOf s c.cluster) c.query).isSome && (ownSlot s c).isNone then .done true
  else if queryBusy s c then .hold
  else (readQuery s c).andThen fun x => .done (descField x.2 0 1 != 0 && (queryOf s c x.2).isNone)

/-- BRCFG's work: the descriptor is read and takes effect. -/
def workBrcfg (s : State) (c : Cmd) : Access (State × Cmd) :=
  if queryBusy s c then .hold
  else (readQuery s c).andThen fun x =>
    let put (v : Option BrSlot) : State := modCluster x.1 c.cluster fun k => { k with broker := store k.broker c.query v }
    if descField x.2 0 1 = 0 then .done (put none, finish c [0])
    else match queryOf x.1 c x.2 with
      | some q => .done (put (some q), finish c [0])
      | none => .done (x.1, endIllegal c)

/-- The entries a record makes at its admission (R284), one for each join of REQ. -/
def newEntries (b : BrSlot) (r : BrRec) : List BrEntry :=
  ((List.range 8).filter fun i => b.req.getLsbD i && (brOp b i).join).map fun i =>
    { op := i, sideB := r.sideB, key := r.keys.getD i 0, lanes := (halfOf r.tok 0).map (·.1), mask := maskFrom ((halfOf r.tok 0).map (·.2))
      n := r.n, seq := r.seq, done := 0 }

/-- A record admitted (R280): numbered, inserted, then routed. -/
def admitRecord (b : BrRun) (c : Cmd) : BrRun :=
  match brSlot b c.query with
  | none => b
  | some x =>
    let side := bit c.mods 2
    let key (i : Nat) : Word := tokLane c.a (if side then (brOp x i).keyB else (brOp x i).keyA)
    let r : BrRec := { tok := { c.a with aux := none }, n := x.n + 1, seq := x.seq, brin := c.ident, sideB := side, keys := (List.range 8).map key }
    let b := modBrSlot b c.query fun x =>
      let x := halve { x with n := x.n + 1, seq := x.seq + 1, recs := x.recs ++ [r], brins := x.brins ++ [{ cmd := c.ident, seq := r.seq, n := r.n }] }
      { x with table := x.table ++ newEntries x r }
    flushBroker (routeRecord b c.query r)

/-- BRIN's work: admission while fewer than 1,024 records are outstanding, in arrival order; over once the record and all
that derive from it have ended. -/
def workBrin (s : State) (c : Cmd) : Access (State × Cmd) :=
  let b := brokerOf s c.cluster
  if c.row = 0 then
    if (ownSlot s c).isNone then .done (s, endIllegal c)
    else if Config.brokerRecords ≤ brOutstanding b.slots then .hold
    else .done (putBroker s c.cluster (admitRecord b c), { c with row := 1 })
  else match brSlot b c.query with
    | none => .done (s, finish c [0, 0, 0])
    | some x =>
      match x.brins.find? (·.cmd == c.ident) with
      | none => .hold
      | some i =>
        if x.recs.any (·.brin == c.ident) then .hold
        else
          let s := putBroker s c.cluster (modBrSlot b c.query fun x => { x with brins := x.brins.filter (·.cmd != c.ident) })
          .done (s, finish c [BitVec.ofNat 32 i.exits, i.seq.setWidth 32, BitVec.ofNat 32 (i.fate.getD 0)])

/-- A return accepted (R280): the record takes the lanes that came back; a pass routes it again, a drop ends it. -/
def returnRecord (b : BrRun) (c : Cmd) (r : BrRec) : BrRun :=
  let i := r.visit.getD 0
  let drop := bit c.mods 2
  let r := { r with tok := { r.tok with lanes := c.a.lanes, mask := c.a.mask }, visit := none }
  let cycles := (Config.visitCycles b.moment).toNat
  let b := { b with moment := b.moment + 1 }
  let b := modBrSlot b c.query fun x =>
    countVisit { x with recs := x.recs.map fun y => if y.seq == r.seq then r else y } i drop cycles
  if drop then flushBroker (modBrSlot b c.query fun x => endRecord x r 1)
  else
    let d := r.done ||| (1 <<< i)
    flushBroker (routeRecord (modBrSlot b c.query fun x => setDone x r d) c.query { r with done := d })

/-- BRRET's work. -/
def workBrret (s : State) (c : Cmd) : Access (State × Cmd) :=
  let b := brokerOf s c.cluster
  match (ownSlot s c).bind (visitFor s c) with
  | some r => .done (putBroker s c.cluster (returnRecord b c r), finishSilent c [])
  | none => .done (brokerDrop s c, endIllegal c)

/-- BRSTAT's answer (R283). -/
def statLanes (x : BrSlot) (i : Nat) : List Word :=
  let o := brOp x i
  [o.v, o.d, o.cm, BitVec.ofNat 32 o.warm, BitVec.ofNat 32 x.n, x.exits, x.drops, BitVec.ofNat 32 (x.recs.filter (!·.output)).length]

/-- BRSTAT's work. -/
def workBrstat (s : State) (c : Cmd) : Access (State × Cmd) :=
  match ownSlot s c with
  | some x => .done (s, finishSilent c [answerCmd c .i32 (statLanes x (bits c.mods 4 2)) 0xFF])
  | none => .done (s, endIllegal c)

/-- BRPIN's work (R282): the list names every operator of REQ as the slot then holds it. -/
def workBrpin (s : State) (c : Cmd) : Access (State × Cmd) :=
  if (ownSlot s c).all fun b => !((pinList c).isEmpty || pinOk b.req (pinList c)) then .done (s, endIllegal c)
  else .done (putBroker s c.cluster (modBrSlot (brokerOf s c.cluster) c.query fun x => { x with pin := pinList c }), finish c [0])

/-- The broker's work on a command. -/
def brokerWork (s : State) (c : Cmd) : Access (State × Cmd) :=
  match c.code with
  | 0xD8 => workBrcfg s c
  | 0xD9 => workBrin s c
  | 0xDA => workBrret s c
  | 0xDB => workBrstat s c
  | _ => workBrpin s c

end Sys2Proof.Machine
end

