-- ==== Sys2Proof/Machine/CopyOps.lean ====
section
/-! DEFINITION. The copy engine (R258 to R262, R417, R418): templates, hardware queues, copies piece by piece, channel
counts and windows, and the work of the commands 0xB0 to 0xB2 and 0xB6 to 0xB8. -/

namespace Sys2Proof.Machine

/-! ### Shapes -/

/-- Elements of a tile (R344). -/
def volume (shape : List Nat) : Nat := shape.foldl (· * ·) 1

/-- Rows of a tile along dimension 0. -/
def tileRows (shape : List Nat) : Nat := volume (shape.drop 1)

/-- The coordinate of row `r` of a tile whose origin is `c`. -/
def rowCoord (shape c : List Nat) (r : Nat) : List Nat :=
  let t1 := max 1 (shape.getD 1 1)
  let t2 := max 1 (shape.getD 2 1)
  [c.getD 0 0, c.getD 1 0 + r % t1, c.getD 2 0 + r / t1 % t2, c.getD 3 0 + r / t1 / t2]

/-- A coordinate moved along dimension 0. -/
def along (c : List Nat) (j : Nat) : List Nat := (c.getD 0 0 + j) :: c.drop 1

/-- The place within its 64 B granule, in words, of a row's first element at an endpoint. -/
def rowOffset (s : State) (cfg : Nat) (shape : List Nat) (e : CopyEnd) (r : Nat) : Nat :=
  match e with
  | .record idx c => match recOf s cfg idx with
    | some q => (laneAddress q (clipCoord q (rowCoord shape c r)) 0).2 / 4 % 16
    | none => 0
  | .scratch w => (w + r * shape.getD 0 1) % 16
  | _ => 0

/-- The endpoint whose granules cut the pieces: the destination's, or the source's where the destination is none. -/
def cutEnd (cp : Copy) : CopyEnd := match cp.dst with | .stream _ _ => cp.src | e => e

/-- Pieces in a row: at most one for each granule it touches. -/
def piecesPerRow (cp : Copy) : Nat := cp.shape.getD 0 1 / 16 + 2

/-- The first element and the number of elements of a piece in its row. -/
def pieceSpan (s : State) (cp : Copy) (p : Nat) : Nat × Nat :=
  let off := rowOffset s cp.cfg cp.shape (cutEnd cp) (p / piecesPerRow cp)
  let k := p % piecesPerRow cp
  let lo := 16 * k - off
  (lo, min (cp.shape.getD 0 1) (16 * (k + 1) - off) - lo)

/-- A copy with its pieces laid out: the granules of its rows, or the packets of a destination stream. A copy from a
stream has none. -/
def layOut (s : State) (cp : Copy) : Copy :=
  let ps := match cp.src, cp.dst with
    | .input _, _ => []
    | _, .stream _ w => List.range ((volume cp.shape + w - 1) / w)
    | _, _ => (List.range (tileRows cp.shape * piecesPerRow cp)).filter fun p => (pieceSpan s cp p).2 != 0
  { cp with left := ps.map fun p => (p, none) }

/-! ### Windows (R196) -/

/-- A window over a record's tile from a coordinate, kept until `key` ends it. -/
def openWindow (s : State) (die part : Nat) (cfg idx : Nat) (c shape : List Nat) (key : Nat) : State :=
  match recOf s cfg idx with
  | some r =>
    let n := max 0x10000 (min (roundUp (4 * volume shape) 0x10000) 0x4000000)
    if r.space != 0 then s
    else match declareWindow s { die := die, part := part, base := (laneAddress r (clipCoord r c) 0).2, bytes := n, left := n, hq := some key } with
      | some s => s
      | none => modDev s fun d => { d with uncached := d.uncached + 1 }
  | none => s

def closeWindow (s : State) (key : Nat) : State := modDev s fun d => { d with windows := d.windows.filter (·.hq != some key) }

/-- Window keys: an armed hardware queue, and a command. -/
def hqKey (cl q : Nat) : Nat := 64 * cl + q
def cmdKey (ident : Nat) : Nat := 1024 + ident

/-! ### Lanes of an endpoint -/

/-- What is read for a piece: a word for each element that takes part, and the elements that come from poisoned granules. -/
abbrev Lanes := List (Nat × Word) × List (Nat × Granule)

/-- Of the lanes of a span, those read from poisoned granules. -/
def taintedLanes (s : State) (x : Span) : List (Nat × Granule) :=
  let here := (x.words.mapIdx fun j w => (j, w)).filter (·.2.isSome)
  ((here.map (·.1)).zip x.places).filterMap fun y => if poisoned s y.2 then some (y.1, y.2.host, y.2.addr / 64) else none

/-- Lanes of a piece numbered in the tile from element `base`. -/
def fromElement (base : Nat) (l : List (Nat × Granule)) : List (Nat × Granule) := l.map fun y => (base + y.1, y.2)

/-- The distinct granules among tainted elements (R262). -/
def granulesOf (l : List (Nat × Granule)) : List Granule := (l.map (·.2)).eraseDups

/-- The scratch words from a word address, those outside SCRATCH banks none. -/
def scratchRun (s : State) (n cl w : Nat) : List Nat → Access (List (Option (Nat × Nat × Nat)))
  | [] => .done []
  | j :: js => (engineWord s n cl (w + j)).andThen fun x => (scratchRun s n cl w js).andThen fun xs => .done (x :: xs)

/-- The elements `lo` to `lo + n - 1` of row `r` of a source. Out of bounds, zero is read (R194). -/
def readPiece (s : State) (cp : Copy) (r lo n : Nat) : Access (State × Lanes) :=
  match cp.src with
  | .record idx c =>
    (recFor s cp.cfg idx [0]).andThen fun q =>
      (readSpan s (regionDie cp.region) cp.cfg idx q (along (rowCoord cp.shape c r) lo) n false).andThen fun x =>
        if x.2.places.any (peerBarred s) then .perm
        else .done (x.1, x.2.words.mapIdx (fun j w => (j, w.getD 0)), taintedLanes x.1 x.2)
  | .scratch w =>
    let cl := cp.region / 4
    (scratchRun s cp.part cl (w + r * cp.shape.getD 0 1 + lo) (List.range n)).andThen fun xs =>
      let here := xs.mapIdx fun j x => (j, x)
      let words := here.filterMap fun x => x.2.map fun q => (x.1, scrWord s cl q.1 q.2.1 q.2.2)
      let bad := here.filterMap fun x => match x.2 with
        | some (c, b, i) => if scrPoisoned s cl c b i then some (x.1, false, 2 ^ 62 + 2 ^ 21 * cl + (w + r * cp.shape.getD 0 1 + lo + x.1) % 2 ^ 25 / 16) else none
        | none => none
      .done (s, words, bad)
  | _ => .done (s, [], [])

/-- The element that a copy's channel is bound to (R169). -/
def channelElem (s : State) (cp : Copy) : Option Nat :=
  match cp.chan, placementIn s cp.cfg cp.region with
  | some (x, y, _, _), some p => some (elemAt p.cluster (p.x0 + x) (p.y0 + y))
  | _, _ => none

/-- Who a copy's writes are of: its command, or the copy itself; the caches of the bound element's region see them (R216). -/
def copySender (s : State) (cp : Copy) : Sender :=
  { owner := cp.cmd.getD cp.ident, part := cp.part, queue := cp.queue, region := cp.region, near := (channelElem s cp).map elemRegion,
    copy := true }

/-- Scratch words sent to their places; a granule stored whole loses its poison, and takes it when marked (R202, R262). -/
def sendScratch (s : State) (by_ : Sender) (cl : Nat) (ws : List ((Nat × Nat × Nat) × Word)) (mark : Bool) : State :=
  let gs := (ws.map fun x => (x.1.1, x.1.2.1, x.1.2.2 / 16)).eraseDups
  let whole := gs.filter fun g => (ws.filter fun x => x.1.1 == g.1 && x.1.2.1 == g.2.1 && x.1.2.2 / 16 == g.2.2).length == 16
  post s { owner := by_.owner, part := by_.part, queue := by_.queue, region := by_.region, poison := mark
           writes := ws.map fun x => (.scratch cl x.1.1 x.1.2.1 x.1.2.2, x.2)
           whole := whole.map fun g => .scratch cl g.1 g.2.1 (16 * g.2.2) }

/-- Elements of row `r`, numbered from `lo`, written to a destination; the number stored. -/
def writePiece (s : State) (cp : Copy) (r lo : Nat) (ws : List (Nat × Word)) (mark : Bool) : Access (State × Nat) :=
  match cp.dst with
  | .record idx c =>
    (recFor s cp.cfg idx [1]).andThen fun q => writeSpan s (copySender s cp) (regionDie cp.region) cp.cfg idx q (along (rowCoord cp.shape c r) lo) ws mark
  | .scratch w =>
    let cl := cp.region / 4
    (scratchRun s cp.part cl (w + r * cp.shape.getD 0 1 + lo) (ws.map (·.1))).andThen fun xs =>
      let hits := (xs.zip ws).filterMap fun x => x.1.map fun q => (q, x.2.2)
      .done (sendScratch s (copySender s cp) cl hits mark, hits.length)
  | _ => .done (s, 0)

/-- One piece of a copy between storages. -/
def copyPiece (s : State) (cp : Copy) (p : Nat) : Access (State × Copy) :=
  let r := p / piecesPerRow cp
  let (lo, n) := pieceSpan s cp p
  (readPiece s cp r lo n).andThen fun x =>
    let (s, ws, bad) := x
    (writePiece s cp r lo ws (!bad.isEmpty)).andThen fun y =>
      .done (y.1, { cp with bytes := cp.bytes + 4 * y.2, tainted := cp.tainted ++ fromElement (r * cp.shape.getD 0 1 + lo) bad })

/-! ### Destination streams (R260) -/

/-- A token of a copy to its destination stream. -/
def streamTok (s : State) (cp : Copy) (fmt : Fmt) (ls : List Word) (m : BitVec 8) (aux : Option Word) (poison : Bool) :
    Token :=
  let v := match placementIn s cp.cfg cp.home with | some p => p.v | none => cp.tok.v
  { fmt := fmt, lanes := ls, mask := m, tag := cp.tok.tag, seq := BitVec.ofNat 12 cp.sent, ctx := cp.part, v := v
    aux := if 3 ≤ fmtCode fmt then some (aux.getD 0) else none, floor := cp.tok.floor, poison := poison }

/-- A copy's token sent, if its destination has room (R166). -/
def sendStream (s : State) (d : Dest) (t : Token) : Option State :=
  if hasRoom s d then some (sendTok s (match d with | .slot el _ _ _ _ => el | _ => 0) t d) else none

/-- Packet `q` of a copy from a record to a stream. -/
def copyPacket (s : State) (cp : Copy) (d : Dest) (w q : Nat) : Access (State × Copy) :=
  match cp.src with
  | .record idx c =>
    (recFor s cp.cfg idx [0]).andThen fun rc =>
      let t0 := max 1 (cp.shape.getD 0 1)
      let at_ (e : Nat) := along (rowCoord cp.shape c (e / t0)) (e % t0)
      let es := (List.range (min w (volume cp.shape - w * q))).map (w * q + ·)
      let one (acc : State × List (Option Word) × List (Nat × Granule)) (e : Nat) : Access (State × List (Option Word) × List (Nat × Granule)) :=
        (readSpan acc.1 (regionDie cp.region) cp.cfg idx rc (at_ e) 1 false).andThen fun x =>
          if x.2.places.any (peerBarred s) then .perm
          else .done (x.1, acc.2.1 ++ x.2.words, acc.2.2 ++ fromElement e (taintedLanes x.1 x.2))
      (eachAccess one (s, [], []) es).andThen fun x =>
        (readSpan s (regionDie cp.region) cp.cfg idx rc (at_ (w * q)) 1 true).andThen fun a =>
          let (s, ws, lanes) := x
          let bad := lanes ++ (addGranules s [] a.2.places).map fun g => (w * q, g)
          let tok := streamTok s cp rc.fmt (ws.map (·.getD 0)) (maskFrom (ws.map (·.isSome))) a.2.aux (!bad.isEmpty)
          match sendStream s d tok with
          | some s => .done (s, { cp with sent := cp.sent + 1, tainted := cp.tainted ++ bad })
          | none => .hold
  | _ => .done (s, cp)

/-! ### Source streams (R246, R260) -/

/-- The lanes of a stream's token. -/
def streamLanes (t : Token) : List StreamLane :=
  t.lanes.mapIdx fun j w => ⟨w, t.mask.getLsbD j, t.fmt, t.aux, t.poison⟩

/-- A poisoned token of the source stream, which counts as one granule, noted at the elements its lanes stand for (R262). -/
def taintToken (cp : Copy) (t : Token) : Copy :=
  if t.poison then
    let g : Granule := (true, 2 ^ 64 * (cp.ident + 1) + cp.taken)
    { cp with taken := cp.taken + 1, tainted := cp.tainted ++ (List.range (lanesOf t)).map fun j => (cp.pos + j, g) }
  else { cp with taken := cp.taken + 1 }

/-- The oldest token of the copy's source stream taken out. -/
def dropInput (s : State) (cp : Copy) (port : Nat) : State :=
  modRegion s cp.region fun g => { g with streams := store g.streams port ((lookup [] g.streams port).drop 1) }

/-- The lanes of a token written at their elements of the tile; a masked lane is not written, nor is one beyond the
tile. -/
def storeStream (s : State) (cp : Copy) (t : Token) : Access (State × Copy) :=
  let t0 := max 1 (cp.shape.getD 0 1)
  let lanes := ((streamLanes t).mapIdx fun j l => (cp.pos + j, l)).filter fun x => x.2.valid && x.1 < volume cp.shape
  let one (acc : State × Nat) (x : Nat × StreamLane) : Access (State × Nat) :=
    (writePiece acc.1 cp (x.1 / t0) (x.1 % t0) [(0, x.2.word)] t.poison).andThen fun y => .done (y.1, acc.2 + y.2)
  (eachAccess one (s, 0) lanes).andThen fun y =>
    .done (y.1, { cp with pos := cp.pos + lanesOf t, bytes := cp.bytes + 4 * y.2 })

/-- A full packet, or at the end what is left, sent from the lanes taken. -/
def flushStream (s : State) (cp : Copy) (d : Dest) (w : Nat) : Option (State × Copy) :=
  match cp.buf.take w with
  | [] => none
  | l :: ls =>
    if cp.buf.length < w && !cp.ended then none
    else
      let all := l :: ls
      (sendStream s d (streamTok s cp l.fmt (all.map fun x => if x.valid then x.word else 0) (maskFrom (all.map (·.valid))) l.aux
        (all.any (·.poison)))).map fun s => (s, { cp with buf := cp.buf.drop w, sent := cp.sent + 1 })

/-- One move of a copy from a stream: a packet sent, or a token taken. -/
def streamMove (s : State) (cp : Copy) (port : Nat) : Access (State × Copy) :=
  let viaDest := match cp.dst with | .stream d w => flushStream s cp d w | _ => none
  match viaDest with
  | some x => .done x
  | none =>
    if cp.ended then .hold
    else match lookup [] (regionOf s cp.region).streams port with
      | [] => .hold
      | t :: _ =>
        if t.kind == .eos then .done (dropInput s cp port, { cp with ended := true })
        else
          let cp := taintToken cp t
          match cp.dst with
          | .stream _ w =>
            if cp.buf.length < w then .done (dropInput s cp port, { cp with buf := cp.buf ++ streamLanes t, pos := cp.pos + lanesOf t }) else .hold
          | _ => (storeStream s cp t).andThen fun y => .done (dropInput y.1 y.2 port, y.2)

/-! ### Channels (R216, R261) -/

/-- A channel sum: bytes counted, and those that came from poisoned granules, by their place. -/
abbrev ChannelSum := Nat × List (Nat × Granule)

/-- Tokens of a channel sum of `cnt` bytes each: the rest of the sum, and for each token the distinct poisoned granules among the
bytes it counts (R261, R262). -/
def channelTokens (cnt : Nat) : Nat → ChannelSum → ChannelSum × List Nat
  | 0, x => (x, [])
  | k + 1, (b, l) =>
    if cnt = 0 || b < cnt then ((b, l), [])
    else
      let (here, later) := l.partition (·.1 < cnt)
      let (rest, out) := channelTokens cnt k (b - cnt, later.map fun y => (y.1 - cnt, y.2))
      (rest, (granulesOf here).length :: out)

/-- The bytes of a copy added to a sum, in element order; every byte of the tile counts. -/
def addPosting (x : ChannelSum) (cp : Copy) : ChannelSum :=
  (x.1 + 4 * volume cp.shape, x.2 ++ (cp.tainted.filter (·.1 < volume cp.shape)).map fun y => (x.1 + 4 * y.1, y.2))

/-- A copy's count posted to its channel binding. -/
def postChannel (s : State) (cp : Copy) : State :=
  match cp.chan, placementIn s cp.cfg cp.home with
  | some (x, y, slot, cnt), some p =>
    let el := elemAt p.cluster (p.x0 + x) (p.y0 + y)
    let key := 65536 * key16 p.v slot + cp.tok.tag.toNat
    let (rest, out) := channelTokens cnt (volume cp.shape + 1) (addPosting (lookup (0, []) (elemOf s el).sums key) cp)
    let s := modElem s el fun e => { e with sums := if rest == (0, []) then erase e.sums key else store e.sums key rest }
    let tok (g : Nat) : Token := { lanes := [BitVec.ofNat 32 g], mask := 1, tag := cp.tok.tag, ctx := cp.part, v := p.v, floor := cp.tok.floor }
    out.foldl (fun s g => sendTok s el (tok g) (.slot el slot 0 .keep true)) s
  | _, _ => s

/-! ### A copy's life -/

/-- Whether a copy's queue holds its region, which runs. -/
def copyRuns (s : State) (cp : Copy) : Bool :=
  regionRuns s cp.region cp.part && (regionOf s cp.region).queue == cp.queue && !engineStalls s cp.region 6

/-- The pieces a pass leaves, with the state, the copy, and whether a permission fault ends it. -/
structure Pass where
  s : State
  cp : Copy
  left : List (Nat × Option Nat)
  perm : Bool
  deriving DecidableEq, Repr

/-- One piece of a pass: a piece that waits for a page is left to wait alone (R265). -/
def passPiece (f : State → Copy → Nat → Access (State × Copy)) (a : Pass) (x : Nat × Option Nat) : Pass :=
  if a.perm || x.2.isSome then { a with left := a.left ++ [x] }
  else match f a.s a.cp x.1 with
    | .done y => { a with s := y.1, cp := y.2 }
    | .hold => { a with left := a.left ++ [x] }
    | .perm => { a with perm := true, left := a.left ++ [x] }
    | .page e => match waitFor a.s a.cp.part e a.cp.tok.tag a.cp.region with
      | some (page, s) => { a with s := s, left := a.left ++ [(x.1, some page)] }
      | none => { a with left := a.left ++ [x] }

/-- A pass over what is left: all pieces between storages; the next packet to a stream; the next move of a source
stream. -/
def copyPass (s : State) (cp : Copy) : Pass :=
  match cp.src, cp.dst with
  | .input port, _ =>
    match cp.left with
    | [x] => passPiece (fun s cp _ => streamMove s cp port) ⟨s, cp, [], false⟩ x
    | _ => passPiece (fun s cp _ => streamMove s cp port) ⟨s, cp, [], false⟩ (0, none)
  | _, .stream d w =>
    match cp.left with
    | x :: rest => let a := passPiece (fun s cp q => copyPacket s cp d w q) ⟨s, cp, [], false⟩ x; { a with left := a.left ++ rest }
    | [] => ⟨s, cp, [], false⟩
  | _, _ => cp.left.foldl (passPiece copyPiece) ⟨s, cp, [], false⟩

/-- Whether a copy has nothing left to move. -/
def copyDone (cp : Copy) : Bool := match cp.src with | .input _ => cp.ended && cp.buf.isEmpty | _ => cp.left.isEmpty

/-- The EOS that a template asks for after its destination stream; none while there is no room. -/
def sendEos (s : State) (cp : Copy) : Option State :=
  match cp.dst with
  | .stream d _ =>
    if cp.eos then sendStream s d { streamTok s cp .i32 [] 0 none false with kind := .eos } else some s
  | _ => some s

/-- The poisoned granules and tokens a copy counts. -/
def poisonCount (cp : Copy) : Nat := (granulesOf cp.tainted).length

/-- A copy's command takes its completion. -/
def finishCopyCmd (s : State) (cp : Copy) : State :=
  match cp.cmd with
  | none => s
  | some id =>
    let done (c : Cmd) := if c.ident == id then finish c [BitVec.ofNat 32 (poisonCount cp), BitVec.ofNat 32 cp.bytes] else c
    closeWindow { s with cmds := s.cmds.map done } (cmdKey id)

/-- The attachment element of the copy engine's port (R112), at which a triggered copy's fault is placed
(notes/assumptions/10). -/
def copyAttach (r : Nat) : Nat := elemAt (r / 4) (16 * (r % 2) + 8) (8 * (r % 4 / 2) + 7)

/-- A copy that faults PERM: its command with it. -/
def copyFault (s : State) (cp : Copy) : State :=
  match s.cmds.find? fun c => some c.ident == cp.cmd with
  | some c => cmdFault s c 0x11
  | none => elemFault s (copyAttach cp.region) cp.tok.v 0 cp.part cp.tok.tag 0x11

/-- The command of a copy carries REL. -/
def copyReleases (s : State) (cp : Copy) : Bool := s.cmds.any fun c => some c.ident == cp.cmd && c.rel

/-- A copy whose writes must have performed before its count is posted (R216): they do, but for those that wait for the link. -/
def copySettles (s : State) (cp : Copy) : Option State :=
  if cp.chan.isNone && !copyReleases s cp then some s
  else
    let s := completeWhere s (·.owner == (copySender s cp).owner)
    if s.posted.any (·.owner == (copySender s cp).owner) then none else some s

/-- Piece `p` of copy `k` between storages moves by itself (R222): a page that is not there stops it alone (R265). -/
def runPiece (s : State) (k p : Nat) : State :=
  match s.copies[k]? with
  | none => s
  | some cp =>
    match cp.src, cp.dst, cp.left.any (· == (p, none)) with
    | .input _, _, _ => s
    | _, .stream _ _, _ => s
    | _, _, false => s
    | _, _, true =>
      if !copyRuns s cp then s
      else
        let a := passPiece copyPiece ⟨s, cp, [], false⟩ (p, none)
        if a.perm then copyFault { a.s with copies := dropAt a.s.copies k } cp
        else { a.s with copies := modifyAt (fun _ => { a.cp with left := cp.left.filter (· != (p, none)) ++ a.left }) a.s.copies k }

/-- COPY_RETIRE (R261): copy `k` goes on as far as it can; when its last write is done it posts its count and, for a
command, gives the completion. -/
def runCopy (s : State) (k : Nat) : State :=
  match s.copies[k]? with
  | none => s
  | some cp =>
    if !copyRuns s cp then s
    else
      let a := copyPass s cp
      let cp := { a.cp with left := a.left }
      let without := { a.s with copies := dropAt a.s.copies k }
      if a.perm then copyFault without cp
      else
        let cp := { cp with left := match cp.src, cp.left with | .input _, [(_, none)] => [] | _, l => l }
        if copyDone cp then
          match (copySettles without cp).bind fun s => sendEos s cp with
          | some s => finishCopyCmd (postChannel s cp) cp
          | none => { a.s with copies := modifyAt (fun _ => cp) a.s.copies k }
        else { a.s with copies := modifyAt (fun _ => cp) a.s.copies k }

/-- COPY_RETIRE (R261). -/
def execCopyRetire (k : Nat) (s : State) : Answer := .next (runCopy s k)

/-! ### Templates (R258, R259, R344) -/

/-- The copy a template makes, for a trigger or the parameter packet of a CPGO (R259). -/
def copyOf (s : State) (cfg queue region home : Nat) (t : Template) (tok : Token) (cmd hq : Option Nat) : Copy :=
  let off (b : List Nat) (k : Nat) := (List.range 4).map fun d => (b.getD d 0 + (tokLane tok (k + d)).toNat) % 2 ^ 32
  let el := match placementIn s cfg home with | some p => elemAt p.cluster (p.x0 + t.dsX) (p.y0 + t.dsY) | none => 0
  layOut s
    { ident := s.nextIdent, part := cfgPart cfg, queue := queue, cfg := cfg, region := region, home := home, tok := tok, cmd := cmd, hq := hq
      src := (if t.skind = 0 then CopyEnd.record t.src (off t.sc 0) else CopyEnd.input t.src)
      dst := if t.dkind = 0 then .record t.drec (off t.dc 4) else .stream (.slot el t.dsSlot t.dsField .keep true) t.dsW
      shape := t.tile, eos := t.flags.getLsbD 1
      chan := if t.flags.getLsbD 2 then some (t.chX, t.chY, t.chSlot, t.cnt) else none }

/-- The window a template's flag declares on its source (R196). -/
def templateWindow (s : State) (cfg region : Nat) (t : Template) (key : Nat) : State :=
  if t.flags.getLsbD 0 && t.skind = 0 then openWindow s (regionDie region) (cfgPart cfg) cfg t.src t.sc t.tile key else s

/-- The region of hardware queue `q` of a cluster (R245). -/
def hqRegion (cl q : Nat) : Nat := 4 * cl + q / 16

def hwqOf (s : State) (cl q : Nat) : HwQueue := lookup {} (clusterOf s cl).hwq q
def modHwq (s : State) (cl q : Nat) (f : HwQueue → HwQueue) : State :=
  modCluster s cl fun k => { k with hwq := store k.hwq q (f (lookup {} k.hwq q)) }

/-- COPY_TRIGGER (R259): the oldest trigger of an armed queue fires its template once. -/
def fireTrigger (s : State) (cl q : Nat) : State :=
  let h := hwqOf s cl q
  match h.armed, h.triggers with
  | some (cfg, lq, t), tok :: rest =>
    if regionRuns s (hqRegion cl q) (cfgPart cfg) && !engineStalls s (hqRegion cl q) 6 then
      let cp := copyOf s cfg lq (hqRegion cl q) h.home t tok none (some (hqKey cl q))
      { modHwq s cl q fun h => { h with triggers := rest } with copies := s.copies ++ [cp], nextIdent := s.nextIdent + 1 }
    else s
  | _, _ => s

/-- COPY_TRIGGER (R259). -/
def execCopyTrigger (cl hq : Nat) (s : State) : Answer := .next (fireTrigger s cl hq)

/-- Every trigger waiting at an armed queue fired, in order. -/
def fireAllTriggers (s : State) (cl q : Nat) : Nat → State
  | 0 => s
  | k + 1 => fireAllTriggers (fireTrigger s cl q) cl q k

/-! ### The commands -/

def templateOf (s : State) (c : Cmd) (i : Nat) : Option Template := (graphAt s c.cfg).config.tmpls[i]?

/-- The hardware queue that MODS[11:6] names. -/
def Cmd.hwq (c : Cmd) : Nat := bits c.mods 11 6
def Cmd.tmpl (c : Cmd) : Nat := bits c.mods 5 0

/-- ILLEGAL at the copy engine (R258, R414, R417, R418). -/
def copyIllegal (s : State) (c : Cmd) : Bool :=
  let region := hqRegion c.cluster c.hwq
  let notHeld := (regionOf s region).owner != c.part || (regionOf s region).queue != c.queue
  match c.code with
  | 0xB0 => (templateOf s c c.tmpl).isNone || notHeld || (hwqOf s c.cluster c.hwq).armed.isSome
  | 0xB1 => c.tmpl != 0 || notHeld
  | 0xB2 => c.hwq != 0 || (templateOf s c c.tmpl).isNone
  | 0xB7 => c.mods != 0 || !recParam s c 0 fun _ => true
  | _ => 2 ≤ c.mods || !recParam s c 0 fun _ => true

/-- CPARM's work: a queue that has been armed since acceptance refuses it (R258). -/
def workCparm (s : State) (c : Cmd) : Access (State × Cmd) :=
  if (hwqOf s c.cluster c.hwq).armed.isSome then .done (s, { c with finished := true, illegal := true })
  else match templateOf s c c.tmpl with
    | some t =>
      let s := modHwq s c.cluster c.hwq fun h => { h with armed := some (c.cfg, c.queue, t), home := c.region }
      .done (templateWindow s c.cfg c.region t (hqKey c.cluster c.hwq), finish c [0])
    | none => .perm

/-- CPDIS's work: the triggers that wait at the armed queue have been triggered and start; the queue is disarmed; the
completion waits for every copy of the queue. -/
def workCpdis (s : State) (c : Cmd) : Access (State × Cmd) :=
  let key := hqKey c.cluster c.hwq
  if c.row = 0 then
    let h := hwqOf s c.cluster c.hwq
    let s := fireAllTriggers s c.cluster c.hwq h.triggers.length
    let s := closeWindow (modHwq s c.cluster c.hwq fun h => { h with armed := none }) key
    .done (s, { c with row := 1 + ofBit h.armed.isSome })
  else if s.copies.any fun cp => cp.hq == some key && cp.part == c.part && cp.queue == c.queue then .hold
  else .done (s, finish c [BitVec.ofNat 32 (c.row - 1)])

/-- CPGO's work: its copy begins, and gives the completion when it ends. -/
def workCpgo (s : State) (c : Cmd) : Access (State × Cmd) :=
  if c.row = 1 then .hold
  else match templateOf s c c.tmpl with
    | some t =>
      let cp := copyOf s c.cfg c.queue c.region c.region t c.a (some c.ident) none
      .done (templateWindow { s with copies := s.copies ++ [cp], nextIdent := s.nextIdent + 1 } c.cfg c.region t (cmdKey c.ident), { c with row := 1 })
    | none => .perm

/-- TILELD's and TILEST's work (R418): a copy of the record's tile to or from scratch words. -/
def workTile (s : State) (c : Cmd) : Access (State × Cmd) :=
  if c.row = 1 then .hold
  else
    let isStore := c.code = 0xB7
    (recFor s c.cfg (param c 0) [if isStore then 1 else 0]).andThen fun r =>
      let shape := (List.range 4).map fun d => if d < r.ndim then r.tile.getD d 1 else 1
      let org := (List.range 4).map fun d => param c (1 + d)
      let cp : Copy :=
        { ident := s.nextIdent, part := c.part, queue := c.queue, cfg := c.cfg, region := c.region, home := c.region, tok := c.a, cmd := some c.ident, shape := shape
          src := if isStore then .scratch (param c 5 / 4) else .record (param c 0) org
          dst := if isStore then .record (param c 0) org else .scratch (param c 5 / 4) }
      let s := { s with copies := s.copies ++ [layOut s cp], nextIdent := s.nextIdent + 1 }
      let s := if bit c.mods 0 then openWindow s (regionDie c.region) c.part c.cfg (param c 0) org shape (cmdKey c.ident) else s
      .done (s, { c with row := 1 })

/-- OOBRD's work (R418): both counters at one instant, and CLEAR. -/
def workOobrd (s : State) (c : Cmd) : Access (State × Cmd) :=
  (recFor s c.cfg (param c 0) []).andThen fun r =>
    let s := if bit c.mods 0 then modRec s c.cfg (param c 0) fun r => { r with oobcnt := 0 } else s
    .done (s, finishSilent c [answerCmd c .i32 [r.oobcnt, r.ticket] 3])

/-- The copy engine's work on a command. -/
def copyWork (s : State) (c : Cmd) : Access (State × Cmd) :=
  match c.code with
  | 0xB0 => workCparm s c
  | 0xB1 => workCpdis s c
  | 0xB2 => workCpgo s c
  | 0xB8 => workOobrd s c
  | _ => workTile s c

end Sys2Proof.Machine
end

