-- ==== Sys2Proof/Machine/Descent.lean ====
section
/-! DEFINITION. The tree descent unit (R266 to R275, R423): tree slots and path registers, node scores, and the work of
the commands 0xD0 to 0xD4. -/

namespace Sys2Proof.Machine

/-! ### Slots and registers (R267, R270) -/

/-- The tree slot that MODS[4:3] names. -/
def Cmd.tree (c : Cmd) : Nat := bits c.mods 4 3

def treeOf (s : State) (c : Cmd) (t : Nat) : Option TreeSlot := lookup none (clusterOf s c.cluster).trees (64 * c.part + t)
def pathOf (s : State) (c : Cmd) (p : Nat) : PathReg := lookup {} (clusterOf s c.cluster).paths (64 * c.part + p)
def putPath (s : State) (c : Cmd) (p : Nat) (r : PathReg) : State :=
  modCluster s c.cluster fun k => { k with paths := store k.paths (64 * c.part + p) { r with queue := c.queue } }

/-- A TDCFG accepted for a slot and not yet done (R274). -/
def treePending (s : State) (c : Cmd) (t : Nat) : Bool :=
  s.cmds.any fun d => d.code == 0xD0 && d.part == c.part && d.cluster == c.cluster && d.tree == t && !d.finished && d.ident != c.ident

/-- Lanes that hold `n` values of a record's format. -/
def valueLanes (f : Fmt) (n : Nat) : Nat := if f == .bf16 then (n + 1) / 2 else n

/-- The first `n` values of lanes (R268): F32 and BF16 subnormals read as zero. -/
def valuesOf (f : Fmt) (n : Nat) (ws : List (Option Word)) : List Num :=
  let vs := if f == .bf16 then ws.flatMap fun w => let x := (w.getD 0).toNat; [bf x, bf (x / 2 ^ 16)] else ws.map fun w => f32 (w.getD 0).toNat
  vs.take n

/-! ### Scores (R268) -/

/-- The sum of the products block by block of 32, one rounding each. -/
def dotBlocks : Nat → Word → List Num → List Num → Word
  | 0, acc, _, _ => acc
  | k + 1, acc, w, x =>
    let p := sumNums (((w.take 32).zip (x.take 32)).map fun q => mulNum q.1 q.2)
    dotBlocks k (BitVec.ofNat 32 (roundWide 24 (sumNums [f32 acc.toNat, p])).code) (w.drop 32) (x.drop 32)

/-- A node's score. -/
def nodeScore (n : Nat) (w x : List Num) (bias : Word) : Word :=
  let acc := dotBlocks ((n + 31) / 32) 0 w x
  BitVec.ofNat 32 (roundWide 24 (sumNums [f32 acc.toNat, f32 bias.toNat])).code

/-- A score sends the input right when it is above zero and no NaN. -/
def goesRight (score : Word) : Bool := !isNanWide 24 score.toNat && !score.getLsbD 31 && score.toNat % 2 ^ 31 != 0

/-! ### ILLEGAL (R267, R269, R271 to R273, R414, R423) -/

/-- The batch of a TDSC or TDGRP: b of 1 to 64 registers from P0. -/
def batchOk (c : Cmd) : Bool := 1 ≤ param c 2 && param c 2 ≤ 64 && param c 3 + param c 2 ≤ 64

def isWide (r : Rec) : Bool := r.fmt == .f32 || r.fmt == .bf16

def descentIllegal (s : State) (c : Cmd) : Bool :=
  let nodes := 2 ^ param c 2 - 1
  match c.code with
  | 0xD0 =>
    c.mods % 8 != 0 || 32 ≤ c.mods || param c 2 < 1 || 16 < param c 2 || param c 3 < 1 || 16384 < param c 3 ||
      !recParam s c 0 (fun r => isWide r && r.ndim == 2 && nodes ≤ r.ext.getD 1 0 && valueLanes r.fmt (param c 3) ≤ r.ext.getD 0 0) ||
      !recParam s c 1 (fun r => r.fmt == .f32 && nodes ≤ r.ext.getD 0 0)
  | 0xD1 =>
    c.mods % 8 != 0 || 32 ≤ c.mods || !batchOk c || !recParam s c 0 isWide || ((treeOf s c c.tree).isNone && !treePending s c c.tree)
  | 0xD2 =>
    16 ≤ c.mods || 5 < c.mods % 8 || !batchOk c || !recParam s c 0 isWide ||
      !recParam s c 4 (fun r => match recOf s c.cfg (param c 0) with
        | some i => r.fmt == i.fmt && i.ext.getD 0 0 ≤ r.ext.getD 0 0
        | none => true) ||
      (bit c.mods 3 && !recParam s c 6 fun r => r.fmt == .i32 && r.w == 1)
  | 0xD3 => 3 ≤ c.mods || 64 ≤ param c 0
  | _ => 32 ≤ c.mods || 5 < c.mods % 8 || ((treeOf s c c.tree).isNone && !treePending s c c.tree)

/-- TDCFG's records must be there and readable when it is accepted (R267). -/
def descentPerm (s : State) (c : Cmd) : Bool :=
  c.code == 0xD0 && [0, 1].any fun j => match recOf s c.cfg (param c j) with | some r => !hasRight r 0 | none => true

/-! ### TDCFG and TDSC -/

/-- A command of a tree slot as it would issue: it waits for a TDCFG that is still to configure the slot, and is ILLEGAL where none
is and none has (R269, R272, R275). -/
def treeCheck (s : State) (c : Cmd) : Access Bool :=
  if (treeOf s c c.tree).isSome then .done false else if treePending s c c.tree then .hold else .done true

/-- TDCFG's work. -/
def workTdcfg (s : State) (c : Cmd) : Access (State × Cmd) :=
  let t : TreeSlot := { cfg := c.cfg, wrec := param c 0, brec := param c 1, depth := param c 2, n := param c 3 }
  .done (modCluster s c.cluster fun k => { k with trees := store k.trees (64 * c.part + c.tree) (some t) }, finish c [0])

/-- An input moved one level by a score. -/
def advanceWalker (depth : Nat) (score : Word) (w : Walker) : Walker :=
  let right := goesRight score
  let node := 2 * w.node + 1 + ofBit right
  let atLeaf := w.level + 1 == depth
  { w with
    level := w.level + 1, node := node, ended := atLeaf
    reg := { w.reg with
      path := if right then w.reg.path ||| (1 <<< w.level) else w.reg.path
      nanb := if isNanWide 24 score.toNat then w.reg.nanb ||| (1 <<< w.level) else w.reg.nanb
      dots := store w.reg.dots w.level score
      valid := atLeaf, leaf := if atLeaf then BitVec.ofNat 16 (node - (2 ^ depth - 1)) else 0 } }

/-- An input that a poisoned read stops (R275). -/
def stopWalker (w : Walker) : Walker := { w with ended := true, reg := { w.reg with poison := true } }

/-- A descent with its state. -/
abbrev DescentRun := State × Descent

/-- The inputs a test selects changed. -/
def Descent.mapWalkers (d : Descent) (sel : Walker → Bool) (f : Walker → Walker) : Descent :=
  { d with walkers := d.walkers.map fun w => if sel w then f w else w }

/-- One access of a descent, made for the inputs a test selects (R275): where its page is absent, those alone park; where it holds,
they wait. -/
def descentAccess {α : Type} (c : Cmd) (sel : Walker → Bool) (d : DescentRun) (x : Access α) (f : α → DescentRun) : Access DescentRun :=
  match x with
  | .done a => .done (f a)
  | .hold => .done d
  | .perm => .perm
  | .page e => match waitFor d.1 c.part e c.tag c.region with
    | some (page, s) => .done (s, d.2.mapWalkers sel fun w => { w with parked := some page })
    | none => .done d

/-- The input has its row still to be read. -/
def rowWanted (w : Walker) : Bool := w.row.isNone && w.parked.isNone && !w.ended

/-- The row of input `j` read: it stops before level 0 when the row is poisoned. -/
def readInput (c : Cmd) (r : Rec) (d : DescentRun) (j : Nat) : Access DescentRun :=
  let sel (w : Walker) := w.j == j
  descentAccess c sel d
    (readSpan d.1 (regionDie c.region) c.cfg (param c 0) r [0, param c 1 + j] (valueLanes r.fmt d.2.tree.n) false) fun x =>
      (x.1, d.2.mapWalkers sel fun w =>
        let w := { w with row := some x.2.words }
        if x.2.places.any (poisoned x.1) then stopWalker w else w)

/-- A node's weights and bias read together. -/
def readNode (s : State) (c : Cmd) (t : TreeSlot) (node : Nat) : Access (State × Span × Span) :=
  (recFor s t.cfg t.wrec [0]).andThen fun wr => (recFor s t.cfg t.brec [0]).andThen fun br =>
    (readSpan s (regionDie c.region) t.cfg t.wrec wr [0, node] (valueLanes wr.fmt t.n) false).andThen fun w =>
      (readSpan w.1 (regionDie c.region) t.cfg t.brec br [node] 1 false).andThen fun b => .done (b.1, w.2, b.2)

/-- The input stands at a level, free to go on. -/
def standsAt (level : Nat) (w : Walker) : Bool := !w.ended && w.parked.isNone && w.row.isSome && w.level == level

/-- The inputs at one node of a level scored and moved (R269); a poisoned read stops them (R275). -/
def visitNode (c : Cmd) (r : Rec) (level : Nat) (d : DescentRun) (node : Nat) : Access DescentRun :=
  let t := d.2.tree
  let wfmt := match recOf d.1 t.cfg t.wrec with | some wr => wr.fmt | none => .f32
  let sel (w : Walker) := standsAt level w && w.node == node
  descentAccess c sel d (readNode d.1 c t node) fun x =>
    let (s, ws, b) := x
    let fetched := { d.2 with fetches := d.2.fetches + 1 }
    if (ws.places ++ b.places).any (poisoned s) then (s, fetched.mapWalkers sel stopWalker)
    else
      let score (w : Walker) : Word :=
        nodeScore t.n (valuesOf wfmt t.n ws.words) (valuesOf r.fmt t.n (w.row.getD [])) ((b.words.getD 0 none).getD 0)
      (s, { fetched.mapWalkers sel fun w => advanceWalker t.depth (score w) w with
            nans := d.2.nans + (d.2.walkers.filter fun w => sel w && isNanWide 24 (score w).toNat).length })

/-- The least level at which an input stands that is free to go on. -/
def nextLevel (d : Descent) : Option Nat := (List.range d.tree.depth).find? fun l => d.walkers.any (standsAt l)

/-- A descent as a TDSC begins it. -/
def beginDescent (c : Cmd) (t : TreeSlot) : Descent :=
  { tree := t
    walkers := (List.range (param c 2)).map fun j =>
      { j := j, reg := { depth := BitVec.ofNat 5 t.depth, input := BitVec.ofNat 6 j, slot := BitVec.ofNat 2 c.tree, tag := c.tag } } }

/-- A descent goes on by the rows that can be read, or by one level: each distinct node once (R269). -/
def descendOnce (c : Cmd) (r : Rec) (d : DescentRun) : Access DescentRun :=
  match (d.2.walkers.filter rowWanted).map (·.j) with
  | j :: js => eachAccess (readInput c r) d (j :: js)
  | [] => match nextLevel d.2 with
    | some l => eachAccess (visitNode c r l) d ((d.2.walkers.filter (standsAt l)).map (·.node)).eraseDups
    | none => .hold

/-- A descent that has ended: its registers are written, and the command is over (R269, R270). -/
def endDescent (s : State) (c : Cmd) (d : Descent) : State × Cmd :=
  let ok := (d.walkers.filter (·.reg.valid)).length
  (d.walkers.foldl (fun s w => putPath s c (param c 3 + w.j) w.reg) s,
    finish { c with descent := none } [BitVec.ofNat 32 d.nans, BitVec.ofNat 32 ok, BitVec.ofNat 32 d.fetches] [] (d.walkers.any (·.reg.poison)))

/-- TDSC's work (R269, R270, R275): the rows, or one level, at a time. -/
def workTdsc (s : State) (c : Cmd) : Access (State × Cmd) :=
  match c.descent.or ((treeOf s c c.tree).map (beginDescent c)) with
  | none => .done (s, { c with finished := true, illegal := true })
  | some d =>
    if d.walkers.all (·.ended) then .done (endDescent s c d)
    else (recFor s c.cfg (param c 0) [0]).andThen fun r =>
      (descendOnce c r (s, d)).andThen fun x => .done (x.1, { c with descent := some x.2 })

/-! ### TDGRP (R273) -/

/-- A regrouping in progress: state, rows written, groups, and the group tokens. -/
structure Regroup where
  s : State
  row : Nat := 0
  groups : Nat := 0
  toks : List Token := []
  deriving DecidableEq, Repr

/-- A destination row written, padded with zeros to the record's width, with its permutation element. -/
def putRow (c : Cmd) (dst : Rec) (g : Regroup) (ws : List Word) (perm : Word) (mark : Bool) : Access Regroup :=
  let row := param c 5 + g.row
  (writeSpan g.s (senderOf c) (regionDie c.region) c.cfg (param c 4) dst [0, row] ((List.range (dst.ext.getD 0 0)).map fun k => (k, ws.getD k 0)) mark).andThen fun x =>
    if !bit c.mods 3 then .done { g with s := x.1, row := g.row + 1 }
    else
      (recFor x.1 c.cfg (param c 6) [1]).andThen fun p =>
        (writeSpan x.1 (senderOf c) (regionDie c.region) c.cfg (param c 6) p [row] [(0, perm)] false).andThen fun y => .done { g with s := y.1, row := g.row + 1 }

/-- Input `j`'s row copied. -/
def copyRow (c : Cmd) (inp dst : Rec) (g : Regroup) (j : Nat) : Access Regroup :=
  (readSpan g.s (regionDie c.region) c.cfg (param c 0) inp [0, param c 1 + j] (inp.ext.getD 0 0) false).andThen fun x =>
    putRow c dst { g with s := x.1 } (x.2.words.map (·.getD 0)) (BitVec.ofNat 32 j) (x.2.places.any (poisoned x.1))

/-- The inputs of one leaf, its padding rows, and its token. -/
def groupLeaf (c : Cmd) (inp dst : Rec) (batch : List (Nat × PathReg)) (g : Regroup) (leaf : Nat) : Access Regroup :=
  let first := g.row
  (eachAccess (copyRow c inp dst) g ((batch.filter fun x => x.2.valid && x.2.leaf.toNat == leaf).map (·.1))).andThen fun g =>
    let count := g.row - first
    let al := 2 ^ (c.mods % 8)
    (eachAccess (fun g _ => putRow c dst g [] 0xFFFFFFFF#32 false) g (List.range ((al - g.row % al) % al))).andThen fun g =>
      let lanes := [leaf, first, count, g.row - first].map (BitVec.ofNat 32)
      .done { g with groups := g.groups + 1, toks := g.toks ++ [{ answerCmd c .i32 lanes 0xF with seq := BitVec.ofNat 12 g.groups }] }

/-- A number put in its place in an ascending list, once. -/
def insertOnce (x : Nat) : List Nat → List Nat
  | [] => [x]
  | y :: ys => if x < y then x :: y :: ys else if x = y then y :: ys else y :: insertOnce x ys

/-- Numbers in ascending order, each once. -/
def ascending (xs : List Nat) : List Nat := xs.foldl (fun l x => insertOnce x l) []

/-- The permutation record's rights, where PERM asks for one (R415, R423). -/
def permRights (s : State) (c : Cmd) : Access Unit :=
  if bit c.mods 3 then (recFor s c.cfg (param c 6) [1]).andThen fun _ => .done () else .done ()

/-- TDGRP's work. -/
def workTdgrp (s : State) (c : Cmd) : Access (State × Cmd) :=
  (recFor s c.cfg (param c 0) [0]).andThen fun inp =>
    (recFor s c.cfg (param c 4) [1]).andThen fun dst => (permRights s c).andThen fun _ =>
      let batch := (List.range (param c 2)).map fun j => (j, pathOf s c (param c 3 + j))
      let valid := batch.filter (·.2.valid)
      (eachAccess (groupLeaf c inp dst batch) { s := s } (ascending (valid.map (·.2.leaf.toNat)))).andThen fun g =>
        .done (g.s, finish c [BitVec.ofNat 32 g.groups, BitVec.ofNat 32 g.row, BitVec.ofNat 32 (batch.length - valid.length)] g.toks)

/-! ### TDPTR and TDNODE (R271, R272) -/

/-- A TDSC accepted earlier that still writes the register (R274). -/
def pathBusy (s : State) (c : Cmd) (p : Nat) : Bool :=
  (s.cmds.takeWhile (·.ident != c.ident)).any fun d =>
    d.code == 0xD1 && d.part == c.part && d.cluster == c.cluster && !d.finished && param d 3 ≤ p && p < param d 3 + param d 2

/-- Bits [127:0] of a path register as four lanes (R270). -/
def pathWords (r : PathReg) : List Word :=
  [BitVec.ofNat 32 (r.path.toNat + 2 ^ 16 * r.depth.toNat + 2 ^ 21 * ofBit r.valid + 2 ^ 22 * ofBit r.poison),
   BitVec.ofNat 32 (r.nanb.toNat + 2 ^ 16 * r.leaf.toNat),
   BitVec.ofNat 32 (r.input.toNat + 2 ^ 6 * r.slot.toNat + 2 ^ 16 * r.tag.toNat), 0]

/-- TDPTR's answer. -/
def pathPage (c : Cmd) (r : PathReg) : Token :=
  if c.mods = 0 then answerCmd c .i32 (pathWords r) 0xF
  else
    let l (i : Nat) := 8 * (c.mods - 1) + i
    answerCmd c .f32 ((List.range 8).map fun i => if l i < r.depth.toNat then lookup 0 r.dots (l i) else 0)
      (maskFrom ((List.range 8).map fun i => l i < r.depth.toNat))

/-- TDPTR's work. -/
def workTdptr (s : State) (c : Cmd) : Access (State × Cmd) :=
  if pathBusy s c (param c 0) then .hold else .done (s, finishSilent c [pathPage c (pathOf s c (param c 0))])

/-- A tree index function of depth `d` (R272); none outside its domain. -/
def treeFn (f d i : Nat) : Option Nat :=
  let dec := 2 ^ d - 1
  let top := 2 ^ (d + 1) - 1
  match f with
  | 0 => if i < dec then some (2 * i + 1) else none
  | 1 => if i < dec then some (2 * i + 2) else none
  | 2 => if 1 ≤ i && i < top then some ((i - 1) / 2) else none
  | 3 => if i < top then some (log2 (i + 1)) else none
  | 4 => if dec ≤ i && i < top then some (i - dec) else none
  | _ => if i < 2 ^ d then some (i + dec) else none

/-- TDNODE's work: a masked lane is read as 0 (R332). -/
def workTdnode (s : State) (c : Cmd) : Access (State × Cmd) :=
  match treeOf s c c.tree with
  | none => .done (s, { c with finished := true, illegal := true })
  | some t =>
    let js := List.range (lanesOf c.a)
    let v (j : Nat) : Option Nat := treeFn (c.mods % 8) t.depth (param c j)
    let word (j : Nat) : Word := match v j with
      | some x => BitVec.ofNat 32 x
      | none => if c.a.mask.getLsbD j then 0xFFFFFFFF#32 else 0
    .done (s, finishSilent c [answerCmd c .i32 (js.map word) (maskFrom (js.map fun j => (v j).isSome))])

/-- The tree descent unit's work on a command. -/
def descentWork (s : State) (c : Cmd) : Access (State × Cmd) :=
  match c.code with
  | 0xD0 => workTdcfg s c
  | 0xD1 => workTdsc s c
  | 0xD2 => workTdgrp s c
  | 0xD3 => workTdptr s c
  | _ => workTdnode s c

end Sys2Proof.Machine
end

