-- ==== Sys2Proof/Machine/IndexOps.lean ====
section
/-! DEFINITION. The index engine (R263, R264, R419): GATHER, SCATTER and SCATADD. -/

namespace Sys2Proof.Machine

/-- EXTd of a record, 1 beyond NDIM (R263). -/
def extOf (r : Rec) (d : Nat) : Nat := if d < r.ndim then r.ext.getD d 0 else 1

/-- Elements across a record's extents. -/
def extVolume (r : Rec) : Nat := extOf r 0 * extOf r 1 * extOf r 2 * extOf r 3

/-- The coordinate an index numbers (R263). -/
def indexCoord (r : Rec) (i : Nat) : List Nat :=
  let e0 := extOf r 0
  let e1 := extOf r 1
  let e2 := extOf r 2
  [i % e0, i / e0 % e1, i / (e0 * e1) % e2, i / (e0 * e1 * e2)]

/-- The lanes an index command takes: below the shorter LEN, masked in neither operand (R419). -/
def indexLanes (c : Cmd) : List Nat :=
  let p := c.p.getD {}
  let n := if c.code = 0xB3 then lanesOf c.a else min (lanesOf c.a) (lanesOf p)
  (List.range n).filter fun j => c.a.mask.getLsbD j && (c.code = 0xB3 || p.mask.getLsbD j)

/-- The places of lanes whose indices are in range, all translated before any performs (R200). -/
def indexPlaces (s : State) (c : Cmd) (r : Rec) (u : Use) : List Nat → Except Xlate (List LanePlace)
  | [] => .ok []
  | j :: js =>
    match translateRec s (regionDie c.region) c.part r (laneAddress r (indexCoord r (param c j)) 0).2 u with
    | .at p => (indexPlaces s c r u js).map ((j, some p) :: ·)
    | x => .error x

/-- ILLEGAL at the index engine (R263, R412, R419). -/
def indexIllegal (s : State) (c : Cmd) : Bool :=
  c.a.fmt != .i32 || (match recOf s c.cfg c.mods with
    | some r => 3 ≤ fmtCode r.fmt || (c.code = 0xB5 && r.fmt == .bf16)
    | none => false)

/-- The sum SCATADD stores (R263, R232): counted nowhere. -/
def scatSum (fmt : Fmt) (m d : Word) : Word := if fmt == .f32 then (floatLane eltAdd false m d 0).word else m + d

/-- GATHER's value token: the lanes read, and its mask. -/
def gatherAnswer (s : State) (c : Cmd) (r : Rec) (ps : List LanePlace) : Token :=
  let at_ (j : Nat) : Option Place := (ps.find? (·.1 == j)).bind (·.2)
  let js := List.range (lanesOf c.a)
  answerCmd c r.fmt (js.map fun j => placeWordAt s (at_ j)) (maskFrom (js.map fun j => (at_ j).isSome)) ((ps.filterMap (·.2)).any (poisoned s))

/-- Of words for one place the last stands (R263). -/
def lastAt : List (Place × Word) → List (Place × Word)
  | [] => []
  | h :: hs => if hs.any (·.1 == h.1) then lastAt hs else h :: lastAt hs

/-- The index engine's work on a command. -/
def indexWork (s : State) (c : Cmd) : Access (State × Cmd) :=
  let right := match c.code with | 0xB3 => 0 | 0xB4 => 1 | _ => 2
  let use := match c.code with | 0xB3 => Use.read | 0xB4 => Use.write | _ => Use.atomic
  (recFor s c.cfg c.mods [right]).andThen fun r =>
    let p := c.p.getD {}
    if c.code != 0xB3 && p.fmt != r.fmt then
      .done (countOob s c.cfg c.mods (min (lanesOf c.a) (lanesOf p)), finish c [0])
    else
      let js := indexLanes c
      let ok := js.filter fun j => param c j < extVolume r
      match indexPlaces s c r use ok with
      | .error x => failed x
      | .ok ps =>
        if linkWaits s ps then .hold
        else
          let s := countOob s c.cfg c.mods (js.length - ok.length)
          let hits := ps.filterMap fun q => q.2.map fun pl => (pl, p.lanes.getD q.1 0)
          if c.code = 0xB4 then
            .done (sendWords s (senderOf c) (lastAt hits) false (if r.space != 0 then [] else ok.map fun j => (laneAddress r (indexCoord r (param c j)) 0).2 / 4096), finish c [BitVec.ofNat 32 ps.length])
          else
            let s := if hits.any (·.1.host) then pushHost s none else s
            if c.code = 0xB3 then .done (s, finishSilent c [gatherAnswer s c r ps])
            else
              let add (s : State) (h : Place × Word) : State := saveWord s h.1 (scatSum r.fmt (loadWord s h.1) h.2)
              .done (hits.foldl add s, finish c [BitVec.ofNat 32 ps.length])

end Sys2Proof.Machine
end

