-- ==== Sys2Proof/Machine/Shake.lean ====
section
/-! DEFINITION. SHAKE256 (R38, R95), from its standard: the Keccak permutation on five planes of five 64-bit lanes, at a rate of
136 bytes. Its tables are derived by the standard's own rules. -/

namespace Sys2Proof.Machine

/-- The five planes, by y; each holds its lanes by x. -/
abbrev Planes := List (List DWord)

/-- A list turned to start at its place `n`. -/
def turnList {α : Type} (n : Nat) (l : List α) : List α := l.drop n ++ l.take n

def xorLanes (a b : List DWord) : List DWord := (a.zip b).map fun p => p.1 ^^^ p.2

/-- The byte register that gives the round constants' bits, moved `k` steps. -/
def lfsrAfter : Nat → Nat → Nat
  | 0, r => r
  | k + 1, r => lfsrAfter k (if r < 128 then 2 * r else Nat.xor (2 * r % 256) 0x71)

/-- A round's constant: bit j of the register's output for the round stands at place 2^j - 1. -/
def roundConst (round : Nat) : DWord :=
  BitVec.ofNat 64 (((List.range 7).map fun j => lfsrAfter (7 * round + j) 1 % 2 * 2 ^ (2 ^ j - 1)).sum)

/-- The lanes after (0, 0), in the order of the rotation walk from (1, 0): each with the rotation it gets. -/
def rhoWalk : Nat → Nat → Nat × Nat → List ((Nat × Nat) × Nat)
  | 0, _, _ => []
  | k + 1, t, (x, y) => ((x, y), (t + 1) * (t + 2) / 2 % 64) :: rhoWalk k (t + 1) (y, (2 * x + 3 * y) % 5)

def rhoTable : List ((Nat × Nat) × Nat) := rhoWalk 24 0 (1, 0)

def rhoOf (x y : Nat) : Nat := match rhoTable.find? (·.1 == (x, y)) with | some e => e.2 | none => 0

/-- Each lane takes the parity of the column before it and, turned by one bit, of the column after it. -/
def thetaStep (p : Planes) : Planes :=
  let parity := p.foldl xorLanes (List.replicate 5 0)
  let mix := xorLanes (turnList 4 parity) ((turnList 1 parity).map (·.rotateLeft 1))
  p.map (xorLanes mix)

/-- The lanes rotated. -/
def rhoStep (p : Planes) : Planes := p.mapIdx fun y plane => plane.mapIdx fun x w => w.rotateLeft (rhoOf x y)

/-- The lanes moved: plane y takes, at x, the lane that stood at (x + 3y, x). -/
def piStep (p : Planes) : Planes :=
  (List.range 5).map fun y => p.mapIdx fun x plane => (turnList (3 * y % 5) plane).getD x 0

/-- The lanes of a plane mixed along x. -/
def chiStep (p : Planes) : Planes :=
  p.map fun plane => xorLanes plane (((turnList 1 plane).zip (turnList 2 plane)).map fun q => ~~~q.1 &&& q.2)

/-- The round's constant put into lane (0, 0). -/
def iotaStep (round : Nat) (p : Planes) : Planes :=
  match p with
  | (w :: ws) :: planes => ((w ^^^ roundConst round) :: ws) :: planes
  | p => p

/-- The permutation: 24 rounds. -/
def keccak (p : Planes) : Planes := (List.range 24).foldl (fun p r => iotaStep r (chiStep (piStep (rhoStep (thetaStep p))))) p

/-- A block of up to 136 bytes added into the planes, lane by lane. -/
def absorbBlock (p : Planes) (block : List Byte) : Planes :=
  keccak (p.mapIdx fun y plane => plane.mapIdx fun x w => w ^^^ BitVec.ofNat 64 (leNat ((block.drop (8 * (5 * y + x))).take 8)))

/-- The message padded to whole blocks: its last bytes carry 0x1F first and 0x80 last. -/
def shakePad (m : List Byte) : List Byte :=
  let room := 136 - m.length % 136
  m ++ if room = 1 then [0x9F] else 0x1F :: (List.replicate (room - 2) 0 ++ [0x80])

/-- Bytes squeezed from `k` blocks. -/
def squeeze : Nat → Planes → List Byte
  | 0, _ => []
  | k + 1, p => (p.flatten.flatMap fun w => leBytes 8 w.toNat).take 136 ++ squeeze k (keccak p)

/-- The first `n` bytes of SHAKE256 of a message. -/
def shake256 (m : List Byte) (n : Nat) : List Byte :=
  let padded := shakePad m
  let planes := (chunks 136 (padded.length / 136) padded).foldl absorbBlock (List.replicate 5 (List.replicate 5 0))
  (squeeze ((n + 135) / 136) planes).take n

end Sys2Proof.Machine
end

