-- ==== Sys2Proof/Machine/Packing.lean ====
section
/-! DEFINITION. The shuffle (R95) and the packer (R94, R96, R97), which the data rings and the commands of the ingress
unit share. -/

namespace Sys2Proof.Machine

/-! ### The shuffle (R95) -/

/-- Bits a number takes. -/
def bitWidth (v : Nat) : Nat := if v = 0 then 0 else log2 v + 1

/-- h: half the even width the walk works on. -/
def shuffleHalf (n : Nat) : Nat := (max 2 (bitWidth (n - 1)) + 1) / 2

/-- The four round keys of a seed and an epoch. -/
def shuffleKeys (seed epoch : Nat) : List Word :=
  (chunks 4 4 (shake256 (leBytes 8 seed ++ leBytes 4 epoch) 16)).map fun b => BitVec.ofNat 32 (leNat b)

/-- perm of R95. -/
def shufflePerm (h : Nat) (ks : List Word) (x : Nat) : Nat :=
  let (hi, lo) := ks.foldl (fun (p : Nat × Nat) k =>
    (p.2, p.1 ^^^ ((p.2 ^^^ k.toNat) * 0x7A3C52E9 % 2 ^ 32 / 2 ^ (32 - h)))) (x / 2 ^ h, x % 2 ^ h)
  hi * 2 ^ h + lo

/-- The walk until a number falls below n. -/
def shuffleWalk (h n : Nat) (ks : List Word) : Nat → Nat → Nat
  | 0, y => y
  | k + 1, y => if n ≤ y then shuffleWalk h n ks k (shufflePerm h ks y) else y

/-- shidx of R95: the walk is a cycle of a bijection on 2^(2h) numbers. -/
def shidx (n : Nat) (ks : List Word) (i : Nat) : Nat :=
  let h := shuffleHalf n
  shuffleWalk h n ks (2 ^ (2 * h)) (shufflePerm h ks i)

/-! ### Packing (R96, R97) -/

/-- A sample's element before it has a mark. -/
abbrev SampleElt := Word × Bool × Bool

/-- A mark word (R97). -/
def markWord (cont : Bool) (segno pos : Nat) : Word := BitVec.ofNat 32 (2 ^ 31 * ofBit cont + 2 ^ 16 * (segno % 2 ^ 15) + pos % 2 ^ 16)

/-- A row closed: padded to its length. -/
def closeRow (p : Packer) : Packer × List PackElt :=
  ({ p with seg := 0, row := [], rows := p.rows + 1 }, p.row ++ List.replicate (p.rowLen - p.row.length) ⟨0, false, 0, false⟩)

/-- Elements of a sample put from position `pos` on, in at most `k` pieces. A piece begins with the sample or with a row; it
continues an earlier row where the sample is further on than the row is full. -/
def packPieces : Nat → Packer → List SampleElt → Nat → Packer × List (Nat × List PackElt)
  | 0, p, _, _ => (p, [])
  | k + 1, p, es, pos =>
    match es with
    | [] => (p, [])
    | _ =>
      let n := min es.length (p.rowLen - p.row.length)
      let g := if pos = 0 || p.row.isEmpty then p.seg + 1 else p.seg
      let put := (es.take n).mapIdx fun e x => (⟨x.1, x.2.1, markWord (p.row.length < pos) g (pos + e), x.2.2⟩ : PackElt)
      let p := { p with seg := g, row := p.row ++ put }
      if p.row.length = p.rowLen then
        let (q, row) := closeRow p
        let (q, rows) := packPieces k q (es.drop n) (pos + n)
        (q, (p.rows, row) :: rows)
      else packPieces k p (es.drop n) (pos + n)

/-- Elements of a sample of `len` elements packed next-fit from position `pos` on (R96): the packer, and the rows closed with
their numbers. A sample that does not fit in the open row, but in one of its own, closes it first. -/
def packPart (p : Packer) (len pos : Nat) (es : List SampleElt) : Packer × List (Nat × List PackElt) :=
  let closes := pos = 0 && len ≤ p.rowLen && p.rowLen - p.row.length < len
  let (p, first) := if closes then let (q, row) := closeRow p; (q, [(p.rows, row)]) else (p, [])
  let (p, rest) := packPieces (es.length + 1) p es pos
  (p, first ++ rest)

/-- A whole sample packed. -/
def packSample (p : Packer) (es : List SampleElt) : Packer × List (Nat × List PackElt) := packPart p es.length 0 es

/-- A FLUSH's rows (R96): the open row, if it holds an element. -/
def flushRow (p : Packer) : Packer × List (Nat × List PackElt) :=
  if p.row.isEmpty then (p, []) else let (q, row) := closeRow p; (q, [(p.rows, row)])

/-- The data tokens of a row (R94, R100). -/
def rowTokens (fmt : Fmt) (n : Nat) (row : List PackElt) : List Token :=
  (chunks 8 (row.length / 8) row).map fun es =>
    { fmt := fmt, lanes := es.map fun e => if e.valid then e.word else 0, mask := BitVec.ofNat 8 ((es.mapIdx fun j e => ofBit e.valid * 2 ^ j).sum)
      seq := BitVec.ofNat 12 n, poison := es.any (·.poison) }

/-- The mark tokens of a row (R94). -/
def markTokens (n : Nat) (row : List PackElt) : List Token :=
  (chunks 8 (row.length / 8) row).map fun es => { lanes := es.map (·.mark), mask := 0xFF, seq := BitVec.ofNat 12 n }

end Sys2Proof.Machine
end

