-- ==== Sys2Proof/Machine/IngressOps.lean ====
section
/-! DEFINITION. The ingress unit's commands (R98, R425 to R427): SHIDX, PACKR and SEGID. -/

namespace Sys2Proof.Machine

/-- The ingress unit of a command's die, and the key of its tag there. -/
def Cmd.die (c : Cmd) : Nat := regionDie c.region
def Cmd.tagKey (c : Cmd) : Nat := 65536 * c.part + c.tag.toNat

/-- The key set that MODS[3:2] selects. -/
def Cmd.keySet (c : Cmd) : Nat := 4 * c.part + bits c.mods 3 2

def keySetOf (s : State) (c : Cmd) : Option KeySet := lookup none (ingressOf s c.die).keys c.keySet
def packerOf (s : State) (c : Cmd) : Option Packer := lookup none (ingressOf s c.die).packers c.tagKey
def segidOf (s : State) (c : Cmd) : Option Word := lookup none (ingressOf s c.die).segids c.tagKey

def rowLenOk (l : Nat) : Bool := l % 8 == 0 && 8 ≤ l && l ≤ 16384

/-! ### ILLEGAL (R414, R425 to R427) -/

/-- Commands of an opcode that the ingress unit has accepted for a partition and not done yet, in order. -/
def ahead (s : State) (c : Cmd) (op : Nat) : List Cmd :=
  s.cmds.filter fun d => d.code == op && d.part == c.part && d.die == c.die && !d.finished && d.ident != c.ident

/-- The row length of a tag's packer once the PACKRs accepted for it are done; none where it is not open then (R426). -/
def rowLenThen (s : State) (c : Cmd) (key : Nat) : Option Nat :=
  ((ahead s c 0xE1).filter (·.tagKey == key)).foldl (fun l d => if bit d.mods 0 then none else l.or (some (param d 4)))
    ((lookup none (ingressOf s c.die).packers key).map (·.rowLen))

/-- The tags whose packers, or counters, a partition holds in a unit or is to hold once the commands accepted are done. -/
def packersHeld (s : State) (c : Cmd) : Nat :=
  let keys := (((ingressOf s c.die).packers.map (·.1)).filter (· / 65536 == c.part) ++ (ahead s c 0xE1).map (·.tagKey)).eraseDups
  (keys.filter fun k => (rowLenThen s c k).isSome).length
def segidKeys (s : State) (c : Cmd) : List Nat :=
  (((ingressOf s c.die).segids.filter fun e => e.1 / 65536 == c.part && e.2.isSome).map (·.1) ++ (ahead s c 0xE2).map (·.tagKey)).eraseDups

def ingressIllegal (s : State) (c : Cmd) : Bool :=
  match c.code with
  | 0xE0 => 16 ≤ c.mods || (match c.mods % 4 with
      | 0 => (keySetOf s c).isNone
      | 3 => true
      | _ => param c 0 = 0)
  | 0xE1 => 4 ≤ c.mods || (!bit c.mods 0 &&
      (!recParam s c 0 (fun r => r.fmt == .i32 || r.fmt == .f32) || param c 3 < 1 || 32767 < param c 3 || !rowLenOk (param c 4) ||
        (match rowLenThen s c c.tagKey with
          | some l => l != param c 4
          | none => 16 ≤ packersHeld s c)))
  | _ => 2 ≤ c.mods || (!(segidKeys s c).contains c.tagKey && 64 ≤ (segidKeys s c).length)

/-! ### SHIDX -/

/-- A compute's answer: a lane at or beyond n, or masked, is all ones with its mask bit clear. -/
def shuffleAnswer (c : Cmd) (k : KeySet) : Token :=
  let js := List.range (lanesOf c.a)
  let ok (j : Nat) : Bool := c.a.mask.getLsbD j && param c j < k.n
  answerCmd c .i32 (js.map fun j => if ok j then BitVec.ofNat 32 (shidx k.n k.k (param c j)) else 0xFFFFFFFF#32) (maskFrom (js.map ok))

/-- SHIDX's work. -/
def workShidx (s : State) (c : Cmd) : Access (State × Cmd) :=
  let put (k : KeySet) : State := modIngress s c.die fun i => { i with keys := store i.keys c.keySet (some k) }
  match c.mods % 4 with
  | 0 => match keySetOf s c with
    | some k => .done (s, finishSilent c [shuffleAnswer c k])
    | none => .done (s, { c with finished := true, illegal := true })
  | 1 => .done (put ⟨param c 0, shuffleKeys (param c 1 + 2 ^ 32 * param c 2) (param c 3)⟩, finish c [0])
  | _ => .done (put ⟨param c 0, (List.range 4).map fun j => BitVec.ofNat 32 (param c (1 + j))⟩, finish c [0])

/-! ### PACKR -/

/-- A token of a row with the command's header. -/
def cmdRowTok (c : Cmd) (t : Token) : Token := { t with tag := c.a.tag, ctx := c.a.ctx, v := c.a.v, floor := c.a.floor }

/-- Rows sent: data to D0 and, with MARKS, marks to D1 (R94, R426). -/
def sendRows (c : Cmd) (fmt : Fmt) (s : State) (rows : List (Nat × List PackElt)) : State :=
  rows.foldl (fun s r =>
    let s := (rowTokens fmt r.1 r.2).foldl (fun s t => sendAnswer s c (cmdRowTok c t) c.d0) s
    if bit c.mods 1 then (markTokens r.1 r.2).foldl (fun s t => sendAnswer s c (cmdRowTok c t) c.d1) s else s) s

/-- A PACKR whose rows are sent: with MARKS it has no completion. -/
def finishPackr (c : Cmd) (rows : Nat) : Cmd := if bit c.mods 1 then finishSilent c [] else finish c [BitVec.ofNat 32 rows]

/-- The sample a PACKR names: an element out of bounds is zero with its mask bit clear. -/
def sampleElts (s : State) (x : Span) : List SampleElt :=
  (x.words.foldl (fun (acc : List SampleElt × List Place) w => match w, acc.2 with
    | some v, p :: ps => (acc.1 ++ [(v, true, poisoned s p)], ps)
    | some v, [] => (acc.1 ++ [(v, true, false)], [])
    | none, ps => (acc.1 ++ [(0, false, false)], ps)) ([], x.places)).1

/-- PACKR's work (R426). -/
def workPackr (s : State) (c : Cmd) : Access (State × Cmd) :=
  let put (s : State) (p : Option Packer) : State := modIngress s c.die fun i => { i with packers := store i.packers c.tagKey p }
  if bit c.mods 0 then
    let p := (packerOf s c).getD { rowLen := 8 }
    let (_, rows) := flushRow p
    let s := sendRows c p.fmt (put s none) rows
    let eos := cmdRowTok c (eosTok p.fmt)
    let s := sendAnswer s c eos c.d0
    .done (if bit c.mods 1 then sendAnswer s c { eos with fmt := .i32 } c.d1 else s, finishPackr c rows.length)
  else
    (recFor s c.cfg (param c 0) [0]).andThen fun r =>
      (readSpan s (regionDie c.region) c.cfg (param c 0) r [param c 1, param c 2] (param c 3) false).andThen fun x =>
        let old := (packerOf s c).getD { rowLen := param c 4 }
        let (p, rows) := packSample { old with fmt := r.fmt } (sampleElts x.1 x.2)
        .done (sendRows c r.fmt (put x.1 (some p)) rows, finishPackr c rows.length)

/-! ### SEGID (R98, R427) -/

/-- Ids of the lanes of a mark packet, and the counter after it. -/
def segLanes (c : Cmd) (start : Word) : List Word × Word :=
  (List.range (lanesOf c.a)).foldl (fun acc j =>
    if !c.a.mask.getLsbD j then (acc.1 ++ [0], acc.2)
    else
      let m := param c j
      let k := if bits m 30 16 != 0 && bits m 15 0 = 0 then acc.2 + 1 else acc.2
      (acc.1 ++ [if bits m 30 16 = 0 then 0 else k], k)) ([], start)

/-- SEGID's work. -/
def workSegid (s : State) (c : Cmd) : Access (State × Cmd) :=
  let start := if bit c.mods 0 then 0 else (segidOf s c).getD 0
  let (ids, k) := segLanes c start
  .done (modIngress s c.die fun i => { i with segids := store i.segids c.tagKey (some k) }, finishSilent c [answerCmd c .i32 ids c.a.mask])

/-- The ingress unit's work on a command. -/
def ingressWork (s : State) (c : Cmd) : Access (State × Cmd) :=
  match c.code with
  | 0xE0 => workShidx s c
  | 0xE1 => workPackr s c
  | _ => workSegid s c

end Sys2Proof.Machine
end

