-- ==== Sys2Proof/Machine/MatrixOps.lean ====
section
/-! DEFINITION. The matrix cores (R241, R242, R248 to R256, R420 to R422, R430, R431): planes and tiles, the block sums,
and the work of the commands 0xC0 to 0xC7, a row at a time where they go by rows. -/

namespace Sys2Proof.Machine

/-! ### Formats -/

def isAi (f : Fmt) : Bool := f == .ai8 || f == .ai4

/-- K of a plane (R249). -/
def planeK (f : Fmt) : Nat := if f == .e2m1 || f == .ai4 then 512 else 256

/-- The FEATACT bit a format needs (R34, R337). -/
def fmtFeature (f : Fmt) : Nat :=
  match f with
  | .e2m1 => 3
  | .ai8 => 4
  | .ai4 => 4
  | _ => 2

/-- Packets that `k` elements of a format make, 8 lanes each (R250, R422). -/
def packetsFor (f : Fmt) (k : Nat) : Nat := k / perLane f / 8

/-- The scale of 1.0 a packet takes where none is stored (R248, R431). -/
def unitAux (f : Fmt) : Word := if isAi f then 0x3C00 else 0x1F0

/-- A packet of a format. -/
def packet (f : Fmt) (ls : List Word) (m : BitVec 8) (aux : Word) : Token :=
  { fmt := f, lanes := ls, mask := m, aux := if 3 ≤ fmtCode f then some aux else none }

/-- A packet of zero elements, present or all masked. -/
def zeroPacket (f : Fmt) (present : Bool) : Token := packet f (List.replicate 8 0) (if present then 0xFF else 0) (unitAux f)

/-! ### Block sums (R241, R242, R250) -/

/-- An element of a packet: its value before the scale, none where it is masked; and its scale. -/
abbrev Elt := Option Num × Num

/-- A packet's scale: 1 for BF16; an infinite FP16 scale counts as NaN (R242). -/
def packetScale (t : Token) : Num :=
  if t.fmt == .bf16 then .fin false 1 0
  else match auxScale t.fmt (t.aux.getD 0).toNat with
    | .inf _ => .nan
    | x => x

/-- The value of an element code; BF16 subnormals are zero (R241). -/
def eltValue (t : Token) (code : Nat) : Num := if t.fmt == .bf16 then bf code else codeValue t.fmt (t.aux.getD 0).toNat code

/-- The elements of a packet's 8 lanes, in order. -/
def packetElts (t : Token) : List Elt :=
  let sc := packetScale t
  let n := perLane t.fmt
  (List.range 8).flatMap fun j =>
    (List.range n).map fun i => (if t.mask.getLsbD j then some (eltValue t (elementOf n (t.lanes.getD j 0) i)) else none, sc)

/-- Blocks of 32 elements of consecutive packets (R250). -/
def blocksOf (ts : List Token) : List (List Elt) :=
  let es := ts.flatMap packetElts
  chunks 32 (es.length / 32) es

def allMasked (b : List Elt) : Bool := b.all (·.1.isNone)

def blockScale (b : List Elt) : Num := match b with | x :: _ => x.2 | [] => .fin false 1 0

/-- What a block adds: none where a side is wholly masked (R241, R242). An AI block whose sum is zero adds a zero with the sign that a
floating sum of its products has, which no rule states (notes/assumptions/60). -/
def blockTerm (a b : List Elt) : Option Num :=
  if allMasked a || allMasked b then none
  else
    let ps := (a.zip b).filterMap fun x => match x.1.1, x.2.1 with | some u, some v => some (mulNum u v) | _, _ => none
    some (mulNum (mulNum (sumNums ps) (blockScale a)) (blockScale b))

/-- An F32 sum of the tile with one rounding (R241). -/
def addF32 (acc : Word) (t : Num) : Word := BitVec.ofNat 32 (roundWide 24 (sumNums [f32 acc.toNat, t])).code

/-- An accumulator after the blocks of a row and a column, in increasing K. -/
def accumulate (acc : Word) (a b : List (List Elt)) : Word :=
  (a.zip b).foldl (fun acc x => match blockTerm x.1 x.2 with | some t => addF32 acc t | none => acc) acc

/-! ### Planes and tiles -/

/-- The format a plane is taken in beside activations of a format (R248). -/
def planeFmt (p : Plane) (f : Fmt) : Fmt := p.fmt.getD f

/-- The packets of a plane's column. -/
def columnOf (p : Plane) (f : Fmt) (n : Nat) : List Token :=
  let g := planeFmt p f
  (List.range (packetsFor g (planeK g))).map fun q =>
    if p.fmt.isNone then zeroPacket g true else (lookup none p.packets (64 * n + q)).getD (zeroPacket g false)

def tileWord (k : Core) (r n : Nat) : Word := lookup 0 k.tile (128 * r + n)

/-- A tile row's 128 words. -/
def tileRow (k : Core) (r : Nat) : List Word := (List.range 128).map (tileWord k r)

/-- A tile row set, and whether it is poisoned; a word of +0 is not listed. -/
def setTileRow (k : Core) (r : Nat) (ws : List Word) (poison : Bool) : Core :=
  let put (x : Sparse Word × Nat) (w : Word) := (if w = 0 then erase x.1 (128 * r + x.2) else store x.1 (128 * r + x.2) w, x.2 + 1)
  { k with tile := (ws.foldl put (k.tile, 0)).1, poisonRows := setPoison k.poisonRows r poison }

def rowPoisoned (k : Core) (r : Nat) : Bool := k.poisonRows.contains r

/-- A row of activations streamed into a tile row (R252). -/
def streamRow (k : Core) (r : Nat) (f : Fmt) (packets : List Token) (poison : Bool) : Core :=
  let a := blocksOf packets
  let ws := (List.range 128).map fun n => accumulate (tileWord k r n) a (blocksOf (columnOf k.active f n))
  setTileRow k r ws (rowPoisoned k r || poison || k.active.poison)

/-! ### Reading packets (R421, R422, R431) -/

/-- A packet read, with the poisoned granules among what was read. -/
abbrev ReadPacket := State × Token × List (Bool × Nat)

/-- A packet of a record (source 0). -/
def recordPacket (s : State) (c : Cmd) (r : Rec) (co : List Nat) : Access ReadPacket :=
  (readSpan s (regionDie c.region) c.cfg (param c 0) r co 8 true).andThen fun x =>
    .done (x.1, packet r.fmt (x.2.words.map (·.getD 0)) (maskFrom (x.2.words.map (·.isSome))) (x.2.aux.getD 0), addGranules s [] x.2.places)

/-- A scratch word read, its granule noted once among `gs` where it is poisoned (R430): none outside SCRATCH banks. -/
def scratchWord (s : State) (c : Cmd) (w : Nat) (gs : List (Bool × Nat)) : Access (Option Word × List (Bool × Nat)) :=
  (engineWord s c.part c.cluster w).andThen fun x => match x with
    | some (k, b, i) =>
      let g := (false, 2 ^ 62 + w % 2 ^ 25 / 16)
      .done (some (scrWord s c.cluster k b i), if scrPoisoned s c.cluster k b i && !gs.contains g then gs ++ [g] else gs)
    | none => .done (none, gs)

/-- The scale of a scratch packet (R431): stored at a word index, or that of 1.0. A scale that no SCRATCH bank of the partition's
regions holds reads zero. -/
def scratchScale (s : State) (c : Cmd) (f : Fmt) (scale : Option Nat) (gs : List (Bool × Nat)) : Word × List (Bool × Nat) :=
  match scale with
  | none => (unitAux f, gs)
  | some q => match scratchWord s c q gs with
    | .done x => (x.1.getD 0, x.2)
    | _ => (0, gs)

/-- A packet of a SCRATCH run (source 1): `scale` is the word index of its scale where SCALED is 1. -/
def scratchPacket (s : State) (c : Cmd) (f : Fmt) (w : Nat) (scale : Option Nat) : Access ReadPacket :=
  let one (acc : List (Option Word) × List (Bool × Nat)) (j : Nat) : Access (List (Option Word) × List (Bool × Nat)) :=
    (scratchWord s c (w + j) acc.2).andThen fun x => .done (acc.1 ++ [x.1], x.2)
  (eachAccess one ([], []) (List.range 8)).andThen fun x =>
    let (aux, gs) := scratchScale s c f scale x.2
    .done (s, packet f (x.1.map (·.getD 0)) (maskFrom (x.1.map (·.isSome))) aux, gs)

/-- The fields of MODS of MXLW and MXSTR (R420, R431). -/
def Cmd.fmt (c : Cmd) : Fmt := fmtOf (bits c.mods 2 0)
def Cmd.source (c : Cmd) : Nat := bits c.mods 4 3
def Cmd.scaled (c : Cmd) : Bool := bit c.mods 5

/-- Packet `p` of line `i` of `n` packets from source 0 or 1. -/
def linePacket (s : State) (c : Cmd) (r : Rec) (n i p : Nat) : Access ReadPacket :=
  if c.source = 0 then recordPacket s c r [param c 1 + 8 * p, param c 2 + i, param c 3, param c 4]
  else scratchPacket s c c.fmt (param c 1 / 4 + 8 * (n * i + p)) (if c.scaled then some (param c 2 / 4 + n * i + p) else none)

/-- The record of a source 0 command, with the read right. -/
def sourceRec (s : State) (c : Cmd) : Access Rec := if c.source = 0 then recFor s c.cfg (param c 0) [0] else .done {}

/-- Line `i` of `n` packets. -/
def readLine (s : State) (c : Cmd) (r : Rec) (n i : Nat) : Access (State × List Token × List (Bool × Nat)) :=
  eachAccess (fun acc p => (linePacket acc.1 c r n i p).andThen fun x => .done (x.1, acc.2.1 ++ [x.2.1], (acc.2.2 ++ x.2.2).eraseDups))
    (s, [], []) (List.range n)

/-- The core and bank whose control word MXSTR's FIFO address names (R421). -/
def fifoCore (c : Cmd) : Nat := param c 1 / 4 / 2 ^ 15 % 32
def fifoBank (c : Cmd) : Nat := param c 1 / 4 % 32

/-- The FIFO bank's entries taken for the row in hand, up to `n` packets in all: a bank not in FIFO mode gives packets
of masked zeros. -/
def takeEntries (s : State) (c : Cmd) (n : Nat) : Access (State × Cmd) :=
  let k := fifoCore c
  let b := fifoBank c
  if !holdsCore s c.part c.cluster k then .perm
  else if spillBank k b || (bankOf s c.cluster k b).mode != .fifo then
    .done (s, { c with got := c.got ++ List.replicate (n - c.got.length) (zeroPacket c.fmt false) })
  else
    let here := (bankOf s c.cluster k b).entries
    let mine := here.take (n - c.got.length)
    if mine.isEmpty then .hold
    else .done (putEntries s c.cluster k b (here.drop mine.length), { c with got := c.got ++ mine })

/-- A FIFO entry as a packet: one of another FMT gives masked zeros. -/
def entryPacket (f : Fmt) (t : Token) : Token := if t.fmt == f then { t with aux := if 3 ≤ fmtCode f then some (t.aux.getD 0) else none } else zeroPacket f false

/-! ### ILLEGAL (R247, R249, R251, R254, R255, R420, R421, R431) -/

/-- Rows named by lanes: 1 to 256 of them, within the tile. -/
def rowsOk (arow m : Nat) : Bool := 1 ≤ m && arow + m ≤ 256

/-- Lanes of arow and m of a command. -/
def arowOf (c : Cmd) : Nat := match c.code with | 0xC2 => param c 6 | 0xC6 => param c 6 | 0xC7 => param c 6 | _ => param c 0
def rowsOf (c : Cmd) : Nat := match c.code with | 0xC2 => param c 5 | 0xC6 => param c 5 | 0xC7 => param c 5 | _ => param c 1

/-- The formats of the active and shadow planes once a core's accepted commands have run, in arrival order (R253); the commands of
a queue that is away wait outside that order (R124). -/
def plannedFmts (s : State) (core : Nat) : Option Fmt × Option Fmt :=
  let k := coreOf s core
  (s.cmds.filter fun c => c.port < 6 && c.core == core && !c.finished && cmdRuns s c).foldl
    (fun f c => if c.code = 0xC0 then (f.1, some c.fmt) else if c.code = 0xC1 then (f.2, f.1) else f) (k.active.fmt, k.shadow.fmt)

/-- A format a command may name: FMT 2 to 7 with its feature. -/
def fmtOk (s : State) (f : Fmt) : Bool := 2 ≤ fmtCode f && featOn s (fmtFeature f)

/-- The source field and SCALED bit are right. -/
def sourceOk (c : Cmd) : Bool :=
  c.source != 3 && !(c.code = 0xC0 && c.source = 2) && !(c.scaled && (c.source != 1 || c.fmt == .bf16)) &&
    !(c.source = 2 && 24 ≤ fifoCore c)

/-- The target of MXDRP: rows within its tile, in a region that the same queue holds. -/
def targetOk (s : State) (c : Cmd) : Bool :=
  param c 2 ≤ 5 && param c 3 ≤ 23 && param c 4 + param c 1 ≤ 256 &&
    (let g := regionOf s (coreRegion (param c 2) (param c 3)); g.owner == c.part && g.queue == c.queue)

def matrixIllegal (s : State) (c : Cmd) : Bool :=
  let w8 (f : Fmt) (r : Rec) := r.w == 8 && r.fmt == f
  match c.code with
  | 0xC0 => 64 ≤ c.mods || !fmtOk s c.fmt || !sourceOk c || (c.source = 0 && !recParam s c 0 (w8 c.fmt))
  | 0xC1 => c.mods != 0
  | 0xC2 => 64 ≤ c.mods || !fmtOk s c.fmt || !sourceOk c || (c.source = 0 && !recParam s c 0 (w8 c.fmt)) || !rowsOk (arowOf c) (rowsOf c) ||
      (match (plannedFmts s c.core).1 with | some f => isAi f != isAi c.fmt | none => false)
  | 0xC3 => c.mods != 0 || !rowsOk (arowOf c) (rowsOf c)
  | 0xC4 => c.mods != 0 || !rowsOk (arowOf c) (rowsOf c) || !targetOk s c
  | 0xC5 => c.mods != 0 || !rowsOk (arowOf c) (rowsOf c) || !featOn s 13
  | 0xC6 => 2 ≤ c.mods || (c.mods = 1 && !featOn s (fmtFeature .bf16)) || !rowsOk (arowOf c) (rowsOf c) || !recParam s c 0 (w8 (if c.mods = 0 then .f32 else .bf16))
  | _ => 8 ≤ c.mods || fmtCode c.fmt < 3 || 5 < fmtCode c.fmt || !fmtOk s c.fmt || !rowsOk (arowOf c) (rowsOf c) || !recParam s c 0 (w8 c.fmt)

/-! ### The commands -/

/-- A command that has done a row: over when it was the last. -/
def rowDone (c : Cmd) (lane : Nat) : Cmd :=
  if c.row + 1 = rowsOf c then finish { c with row := c.row + 1, got := [] } [BitVec.ofNat 32 lane]
  else { c with row := c.row + 1, got := [] }

/-- MXLW's work: the whole plane (R251, R430). -/
def workMxlw (s : State) (c : Cmd) : Access (State × Cmd) :=
  let n := packetsFor c.fmt (planeK c.fmt)
  (sourceRec s c).andThen fun r =>
    let column (acc : State × List (Nat × Option Token) × List (Bool × Nat)) (k : Nat) :
        Access (State × List (Nat × Option Token) × List (Bool × Nat)) :=
      (readLine acc.1 c r n k).andThen fun x =>
        .done (x.1, acc.2.1 ++ x.2.1.mapIdx (fun p t => (64 * k + p, some t)), (acc.2.2 ++ x.2.2).eraseDups)
    (eachAccess column (s, [], []) (List.range 128)).andThen fun x =>
      let (s, ps, gs) := x
      .done (modCore s c.core fun k => { k with shadow := { fmt := some c.fmt, packets := ps, poison := !gs.isEmpty } },
        finish c [BitVec.ofNat 32 gs.length])

/-- MXSWAP's work. -/
def workMxswap (s : State) (c : Cmd) : Access (State × Cmd) :=
  .done (modCore s c.core fun k => { k with active := k.shadow, shadow := k.active }, finish c [0])

/-- A row of packets entered into the tile, and the command moved on. -/
def enterRow (s : State) (c : Cmd) (ts : List Token) (gs : List (Bool × Nat)) : State × Cmd :=
  let all := (c.granules ++ gs).eraseDups
  (modCore s c.core fun k => streamRow k (arowOf c + c.row) c.fmt ts (!gs.isEmpty), rowDone { c with granules := all } all.length)

/-- MXSTR's work on its next row (R252). -/
def workMxstr (s : State) (c : Cmd) : Access (State × Cmd) :=
  let n := packetsFor c.fmt (planeK (planeFmt (coreOf s c.core).active c.fmt))
  if c.source = 2 then
    (takeEntries s c n).andThen fun x =>
      let (s, c) := x
      if c.got.length < n then .done (s, c)
      else
        let bad := (c.got.filter (·.poison)).length
        .done (enterRow s c (c.got.map (entryPacket c.fmt)) ((List.range bad).map fun i => (false, 2 ^ 63 + 65536 * c.row + i)))
  else
    (sourceRec s c).andThen fun r => (readLine s c r n c.row).andThen fun x => .done (enterRow x.1 c x.2.1 x.2.2)

/-- MXZERO's work: +0, and no poison (R251, R430). -/
def workMxzero (s : State) (c : Cmd) : Access (State × Cmd) :=
  .done (modCore s c.core fun k =>
    (List.range (rowsOf c)).foldl (fun k i => setTileRow k (arowOf c + i) (List.replicate 128 0) false) k, finish c [0])

/-- The region of MXDRP's target is the queue's, and is neither being saved nor restored (R265). -/
def targetHeld (s : State) (c : Cmd) : Bool :=
  let g := regionOf s (coreRegion (param c 2) (param c 3))
  g.owner == c.part && c.part != 0 && g.queue == c.queue && [RegState.run, .draining, .loading].contains g.state

/-- MXDRP's work (R254, R265): its next row sent, while its target is held; over when every row has been added. -/
def workMxdrp (s : State) (c : Cmd) : Access (State × Cmd) :=
  if c.row = rowsOf c then
    if s.drpRows.any (·.cmd == c.ident) then .hold else .done (s, finish c [0])
  else if !targetHeld s c then .hold
  else
    let k := coreOf s c.core
    let r := arowOf c + c.row
    let row : DrpRow := { cmd := c.ident, core := coreId (param c 2) (param c 3), row := param c 4 + c.row, vals := tileRow k r, poison := rowPoisoned k r }
    .done ({ s with drpRows := s.drpRows ++ [row] }, { c with row := c.row + 1 })

/-- A row added into its target's tile with one rounding per element. -/
def addRow (k : Core) (r : DrpRow) : Core :=
  setTileRow k r.row (((tileRow k r.row).zip r.vals).map fun x => addF32 x.1 (f32 x.2.toNat)) (rowPoisoned k r.row || r.poison)

/-- MXDRP_ROW_ARRIVE (R254): row `k` on its way is added. -/
def landRow (s : State) (k : Nat) : State :=
  match s.drpRows[k]? with
  | some r => modCore { s with drpRows := dropAt s.drpRows k } r.core fun c => addRow c r
  | none => s

/-- MXDRP_ROW_ARRIVE (R254). -/
def execMxdrpRowArrive (k : Nat) (s : State) : Answer := .next (landRow s k)

/-- The slot a steering token names (R255): footprint-relative element and slot; none outside the grid. -/
def steerDest (s : State) (c : Cmd) (t : Token) : Option Dest :=
  let w := (tokLane t 0).toNat
  match placementAt s c.cfg c.el with
  | some p =>
    let x := p.x0 + bits w 7 0
    let y := p.y0 + bits w 15 8
    if x < 32 && y < 16 then some (.slot (elemAt p.cluster x y) (bits w 19 16) 0 .keep true) else none
  | none => none

/-- The packets of row `i` that MXDRS sends: 16 of 8 lanes, SEQ the row index. -/
def drainPackets (k : Core) (c : Cmd) : List Token :=
  let r := arowOf c + c.row
  (chunks 8 16 (tileRow k r)).map fun ls =>
    { answerCmd c .f32 ls 0xFF (rowPoisoned k r) with seq := BitVec.ofNat 12 c.row }

/-- MXDRS's work (R255, R422): its next row, once a steering token with its tag has come. A row to no element is
dropped. -/
def workMxdrs (s : State) (c : Cmd) : Access (State × Cmd) :=
  let k := coreOf s c.core
  let mine (t : Token) := t.tag == c.tag && t.ctx == c.part
  match k.steer.find? mine with
  | none => .hold
  | some t =>
    let finish (s : State) := if c.row + 1 = rowsOf c then
        modCore s c.core fun k => { k with steer := match findPlace mine k.steer with | some i => dropAt k.steer i | none => k.steer }
      else s
    match steerDest s c t with
    | none => .done (finish (bump s c.el .dropCnt 16), rowDone c 0)
    | some d => if hasRoom s d then .done (finish ((drainPackets k c).foldl (fun s t => sendTok s c.el t d) s), rowDone c 0) else .hold

/-- A tile row as the lanes MXDRM writes (R251, R422). -/
def drainLanes (two : Bool) (row : List Word) : List Word :=
  if two then (chunks 2 64 row).map fun p => laneFrom 2 (p.map fun w => (roundWide 8 (f32 w.toNat)).code) else row

/-- MXDRM's work on its next row. -/
def workMxdrm (s : State) (c : Cmd) : Access (State × Cmd) :=
  let k := coreOf s c.core
  let r := arowOf c + c.row
  (recFor s c.cfg (param c 0) [1]).andThen fun rc =>
    (writeSpan s (senderOf c) (regionDie c.region) c.cfg (param c 0) rc [param c 1, param c 2 + c.row, param c 3, param c 4]
      ((drainLanes (c.mods = 1) (tileRow k r)).mapIdx fun j w => (j, w)) (rowPoisoned k r)).andThen fun x => .done (x.1, rowDone c 0)

/-- The S10 code a block's element asks for (R256). -/
def blockCode (f : Fmt) (w : Word) : Nat :=
  let fmax := match f with | .e4m3 => 448 | .e5m2 => 57344 | _ => 6
  match f32 w.toNat with
  | .fin _ m e => s10RoundUp m fmax e
  | x => s10Of x

/-- A block of columns quantised (R256): its scale code and lanes. -/
def quantBlock (f : Fmt) (ws : List Word) : Nat × List Word :=
  let sc := ws.foldl (fun a w => max a (blockCode f w)) 0
  let codes := ws.map fun w => (eltQuant f sc w.toNat).code
  (sc, (chunks (perLane f) 8 codes).map (laneFrom (perLane f)))

/-- MXQP's work on its next row (R256): codes and companion scales together. -/
def workMxqp (s : State) (c : Cmd) : Access (State × Cmd) :=
  let k := coreOf s c.core
  let r := arowOf c + c.row
  let per := 8 * perLane c.fmt
  (recFor s c.cfg (param c 0) [1]).andThen fun rc =>
    let co (p : Nat) := snapCoord rc (clipCoord rc [param c 1 + 8 * p, param c 2 + c.row, param c 3, param c 4])
    let one (s : State) (b : Nat × List Word) : Access State :=
      let (sc, ls) := quantBlock c.fmt b.2
      (writeSpan s (senderOf c) (regionDie c.region) c.cfg (param c 0) rc (co b.1) (ls.mapIdx fun j w => (j, w)) (rowPoisoned k r)).andThen fun x =>
        match companion s c.cfg rc (co b.1) with
        | none => .done x.1
        | some (q, _) =>
          (writeSpan x.1 (senderOf c) (regionDie c.region) c.cfg rc.srec q ((co b.1).getD 0 0 / rc.w :: (co b.1).drop 1) [(0, BitVec.ofNat 32 sc)] (rowPoisoned k r)).andThen
            fun y => .done y.1
    (eachAccess one s ((chunks per (128 / per) (tileRow k r)).mapIdx fun p b => (p, b))).andThen fun s => .done (s, rowDone c 0)

/-- A matrix core's work on a command. -/
def matrixWork (s : State) (c : Cmd) : Access (State × Cmd) :=
  match c.code with
  | 0xC0 => workMxlw s c
  | 0xC1 => workMxswap s c
  | 0xC2 => workMxstr s c
  | 0xC3 => workMxzero s c
  | 0xC4 => workMxdrp s c
  | 0xC5 => workMxdrs s c
  | 0xC6 => workMxdrm s c
  | _ => workMxqp s c

end Sys2Proof.Machine
end

