-- ==== Sys2Proof/Machine/Issue.lean ====
section
/-! DEFINITION. The life of an engine command (R247, R253, R257, R264, R274, R276, R414 to R416): acceptance and ILLEGAL,
its turn, its issue, its work, and its retirement; and the engine events ENGINE_FIFO_ISSUE, ENGINE_RETIRE,
ENGINE_NONCOMMAND_DROP and ENGINE_BOUNDARY_SAVE. -/

namespace Sys2Proof.Machine

/-! ### The engine behind a port -/

/-- Whether a command is ILLEGAL at its port's engine (R247, R414). -/
def cmdIllegal (s : State) (c : Cmd) : Bool :=
  !portAccepts c.port c.code ||
    (if c.port < 6 then matrixIllegal s c
     else match c.port with
      | 6 => copyIllegal s c
      | 7 => indexIllegal s c
      | 8 => descentIllegal s c
      | 9 => brokerIllegal s c
      | _ => ingressIllegal s c)

/-- A command's work at its engine, as far as it goes now. -/
def cmdWork (s : State) (c : Cmd) : Access (State × Cmd) :=
  if c.port < 6 then matrixWork s c
  else match c.port with
    | 6 => copyWork s c
    | 7 => indexWork s c
    | 8 => descentWork s c
    | 9 => brokerWork s c
    | _ => ingressWork s c

/-- Two commands go to one engine: a core, a cluster's unit, or a die's ingress unit. -/
def sameEngine (c d : Cmd) : Bool :=
  if c.port < 6 then d.port < 6 && c.core == d.core
  else c.port == d.port && (if c.port = 10 then c.die == d.die else c.cluster == d.cluster)

/-! ### Order (R253, R264, R274, R276, R416) -/

/-- Admission or return `d`, which has reached the broker, comes before `c`, whichever partitions they are of and whatever `d` waits
for (R276); but returns go on while an admission waits at the limit of outstanding records, which they alone lower. -/
def brokerBefore (s : State) (d c : Cmd) : Bool :=
  let orders (x : Cmd) := x.code == 0xD9 || x.code == 0xDA
  let atLimit := Config.brokerRecords ≤ brOutstanding (brokerOf s d.cluster).slots
  orders d && orders c && d.row = 0 && !d.finished && !(d.code == 0xD9 && c.code == 0xDA && atLimit)

/-- Whether command `d`, accepted earlier at the same engine and not yet retired, keeps `c` from issuing. A TDPTR that waits for a
TDSC keeps none back (R274). -/
def holdsBack (s : State) (d c : Cmd) : Bool :=
  if c.port < 6 then
    c.code == 0xC1 || d.code != 0xC0 || c.code == 0xC0
  else match c.port with
    | 6 => !d.issued && (d.code == 0xB0 || d.code == 0xB1) && (c.code == 0xB0 || c.code == 0xB1) && d.hwq == c.hwq
    | 8 => if c.code < 0xD3 then d.code < 0xD3 else 0xD3 ≤ d.code && !(d.code = 0xD3 && pathBusy s d (param d 0))
    | 9 => brokerBefore s d c
    | 10 => d.part == c.part && d.tag == c.tag
    | _ => false

/-- A command's turn: none accepted earlier at its engine keeps it back, but for one whose queue is away (R124). -/
def hasTurn (s : State) (c : Cmd) : Bool :=
  !((s.cmds.takeWhile (·.ident != c.ident)).any fun d => sameEngine c d && cmdRuns s d && holdsBack s d c) &&
    !s.cmds.any fun d => sameEngine c d && holdsEngine s d

/-! ### Work -/

/-- A command changed where it stands. -/
def putCmd (s : State) (c : Cmd) : State := { s with cmds := s.cmds.map fun d => if d.ident == c.ident then c else d }

/-- The command goes on with its work (R124, R200): it may wait for a page, or fault PERM. -/
def advanceCmd (s : State) (c : Cmd) : State :=
  if !c.issued || c.saved || c.finished || c.parked.isSome || !cmdGoes s c then s
  else match cmdWork s c with
    | .done (s', c') => putCmd s' c'
    | .hold => s
    | .perm => cmdFault s c 0x11
    | .page x => match waitFor s c.part x c.tag c.region with
      | some (page, s) => putCmd s { c with parked := some page }
      | none => s

/-- A command that was saved at a boundary and is restored runs on, with its event (R124, R142). -/
def resumeCmd (s : State) (c : Cmd) : State := if c.saved && cmdRuns s c then putCmd (cmdEvent s c 4) { c with saved := false } else s

/-- What a command finds before it issues, by what those before it have done since its acceptance (R255, R258, R267, R272, R276,
R277): whether it is ILLEGAL, in which case it pops no FIFO (R414); or it waits, unissued. -/
def issueCheck (s : State) (c : Cmd) : Access Bool :=
  match c.code with
  | 0xB0 => .done (hwqOf s c.cluster c.hwq).armed.isSome
  | 0xC5 => if (coreOf s c.core).steer.any fun t => t.tag == c.tag && t.ctx == c.part then .done false else .hold
  | 0xD1 => treeCheck s c
  | 0xD4 => treeCheck s c
  | 0xD8 => queryIllegal s c
  | 0xD9 => .done (ownSlot s c).isNone
  | 0xDA => .done ((ownSlot s c).bind (visitFor s c)).isNone
  | 0xDB => .done (ownSlot s c).isNone
  | 0xDC => .done ((ownSlot s c).all fun b => !((pinList c).isEmpty || pinOk b.req (pinList c)))
  | 0xE0 => .done (c.mods % 4 == 0 && (keySetOf s c).isNone)
  | _ => .done false

/-- The command issues when its turn has come and its WAITF FIFO gives a token (R257); its work begins. The acquire it may
perform changes no value, since engines read past the core caches (R205). -/
def issueCmd (s : State) (c : Cmd) : State :=
  if c.issued || c.saved || c.parked.isSome || !cmdRuns s c || !hasTurn s c then s
  else if c.waitf != 0 && (fifoOf s c c.waitf).isEmpty then s
  else match issueCheck s c with
  | .hold => s
  | .perm => cmdFault s c 0x11
  | .page x => match waitFor s c.part x c.tag c.region with
    | some (page, s) => putCmd s { c with parked := some page }
    | none => s
  | .done true => brokerDrop (answerIllegal { s with cmds := s.cmds.filter (·.ident != c.ident) } c) c
  | .done false =>
    let popped := if c.waitf = 0 then [] else (fifoOf s c c.waitf).take 1
    let s := if c.waitf = 0 then s else putFifo s c c.waitf ((fifoOf s c c.waitf).drop 1)
    let c := { c with issued := true, a := { c.a with floor := laterFloor c.a.floor (floorOf (popped.map (·.2))) } }
    advanceCmd (cmdEvent (putCmd s c) c 1) c

/-- A release at a command's SCOPE (R214, R215): its writes on the way perform, but for those that wait for the link. -/
def releaseCmd (s : State) (c : Cmd) : State := if c.rel then completeWhere s (·.owner == c.ident) else s

/-- A command with REL still has writes on their way. -/
def releasePending (s : State) (c : Cmd) : Bool := c.rel && s.posted.any (·.owner == c.ident)

/-- A finished command's data tokens sent. -/
def sendAnswers (s : State) (c : Cmd) : State := c.answers.foldl (fun s t => sendAnswer s c t c.d0) s

/-- The command retires (R214, R215, R257, R413): first its data tokens, which precede its release (R316), where it has a completion;
then its release, its push and its completion. Without REL its writes may still be on their way. -/
def retireCmd (s : State) (c : Cmd) : State :=
  if !c.finished || c.saved || !cmdRuns s c then s
  else
    let gone (s : State) : State := { s with cmds := s.cmds.filter (·.ident != c.ident) }
    if c.illegal then answerIllegal (gone s) c
    else if c.done.isSome && !c.answers.isEmpty then putCmd (sendAnswers s c) { c with answers := [] }
    else if sigfFull s c || releasePending (releaseCmd s c) c then s
    else
      let gone := gone (releaseCmd s c)
      let s := if c.sigf = 0 then gone else putFifo gone c c.sigf (fifoOf s c c.sigf ++ [(c.queue, c.a)])
      let s := sendAnswers s c
      let s := match c.done with
        | some ls => sendAnswer s c (answerCmd c .i32 ls (lowMask ls.length) c.donePoison) c.d1
        | none => s
      cmdEvent s c 2

/-- The command with an identity, if it is still there. -/
def cmdNow (s : State) (id : Nat) (f : State → Cmd → State) : State :=
  match s.cmds.find? (·.ident == id) with
  | some c => f s c
  | none => s

/-! ### Acceptance (R414) -/

/-- Whether the engine takes a command now: it is not held by a push that finds its FIFO full (R257), and the index
engine has fewer than 256 in flight (R264). -/
def engineTakes (s : State) (c : Cmd) : Bool :=
  regionRuns s c.region c.part && !engineStalls s c.region c.port && !(s.cmds.any fun d => sameEngine c d && holdsEngine s d) &&
    !(c.port == 7 && 256 ≤ (s.cmds.filter fun d => sameEngine c d && cmdGoes s d).length)

/-- A command reaches its engine: it is ILLEGAL, or is accepted and issues at once when it can. -/
def acceptCmd (s : State) (c : Cmd) : State :=
  if cmdIllegal s c then brokerDrop (answerIllegal s c) c
  else if descentPerm s c then cmdFault s c 0x11
  else
    let s := cmdEvent { s with cmds := s.cmds ++ [c] } c 0
    cmdNow s c.ident issueCmd

/-! ### Tokens that are no commands (R255, R422) -/

/-- An MXDRS at a port that still awaits a steering token with this tag. -/
def steerAwaited (s : State) (r p : Nat) (t : Token) : Bool :=
  let core := coreId (r / 4) (portCore r p)
  let waiting := s.cmds.filter fun c => c.code == 0xC5 && c.core == core && c.tag == t.tag && c.part == t.ctx && !c.finished
  ((coreOf s core).steer.filter fun u => u.tag == t.tag && u.ctx == t.ctx).length < waiting.length

/-- Flight `f` comes after `g`, which its element has sent before to the same queue, engine port or egress port (R174). Results of different
slots are in no order (R159), but that none leaves before a command, which has left a cycle after it fired (R157). -/
def sameWay (f g : Flight) : Bool :=
  f.src == g.src && (f.slot == g.slot || g.cmd.isSome) && match f.dest, g.dest with
    | .slot e _ k _ p, .slot e' _ k' _ p' => e == e' && (if p then 3 else k) == (if p' then 3 else k')
    | .engine r p _, .engine r' p' _ => r == r' && p == p'
    | .egress r p _, .egress r' p' _ => r == r' && p == p'
    | _, _ => false

/-- ENGINE_NONCOMMAND_DROP (R422): flight `k`, a token at an engine port that is no command, is taken as a steering token
where one is awaited, and is dropped and counted otherwise; what its element has sent there before comes first (R174). -/
def dropNoncommand (s : State) (k : Nat) : State :=
  match s.net[k]? with
  | some f =>
    match f.dest, f.cmd with
    | .engine r p _, none =>
      if (s.net.take k).any (sameWay f) then s else
      let s' := { s with net := dropAt s.net k }
      if p < 6 && steerAwaited s r p f.tok then modCore s' (coreId (r / 4) (portCore r p)) fun c => { c with steer := c.steer ++ [f.tok] }
      else holdForTrace s (engineEvent (bump s' f.src .dropCnt 1) r p 5 0 f.tok.ctx f.tok.tag.toNat f.tok.floor) f.tok.ctx
    | _, _ => s
  | none => s

/-! ### The events -/

/-- Command `k` of those in the engines. -/
def cmdAt (s : State) (k : Nat) (f : State → Cmd → State) : State :=
  match s.cmds[k]? with
  | some c => holdForTrace s (f s c) c.part
  | none => s

/-- ENGINE_FIFO_ISSUE (R257): command `k` issues. -/
def execEngineFifoIssue (k : Nat) (s : State) : Answer :=
  .next (cmdAt s k fun s c => cmdNow (resumeCmd s c) c.ident issueCmd)

/-- ENGINE_RETIRE (R215): command `k` goes on with its work and, once that is over, retires. -/
def execEngineRetire (k : Nat) (s : State) : Answer :=
  .next (cmdAt s k fun s c => cmdNow (cmdNow (resumeCmd s c) c.ident advanceCmd) c.ident retireCmd)

/-- ENGINE_NONCOMMAND_DROP (R422). -/
def execEngineNoncommandDrop (k : Nat) (s : State) : Answer := .next (dropNoncommand s k)

/-- The queue that a command belongs to is being saved (R123, R124). -/
def beingSaved (s : State) (c : Cmd) : Bool := (queueOf s c.part c.queue).state == .saving

/-- ENGINE_BOUNDARY_SAVE (R124): command `k` of a queue being saved has reached its boundary. -/
def execEngineBoundarySave (k : Nat) (s : State) : Answer :=
  .next (cmdAt s k fun s c =>
    if beingSaved s c && !c.saved && cutHere c then putCmd (cmdEvent s c 3) { c with saved := true } else s)

end Sys2Proof.Machine
end

