-- ==== Sys2Proof/Machine/Steering.lean ====
section
/-! DEFINITION. Steering, ordered reductions, counts, ends and tags, opcodes 0x70 to 0x7D (R384 to R390). -/

namespace Sys2Proof.Machine

/-! ### Steering (R384) -/

/-- A predicate: lane 0 of P nonzero and unmasked. -/
def truth (x : Firing) : Bool := laneP x 0 != 0

/-- Operand A as it stands. -/
def wholeA (x : Firing) : Token := likeA x (lanesA x) x.mask

/-- A NULL with A's header (R172). -/
def nullA (x : Firing) : Token := let (fmt, pred, aux) := headerA x; nullTok x.count fmt pred aux

def steerOuts (nulls : Bool) (x : Firing) : List Out :=
  let taken := truth x
  let a : Out := { tok := wholeA x, d0 := taken, d1 := !taken }
  if nulls then [a, { tok := nullA x, d0 := !taken, d1 := taken }] else [a]

def gateOuts (nulls : Bool) (x : Firing) : List Out :=
  if truth x then [{ tok := wholeA x }] else if nulls then [{ tok := nullA x }] else []

/-- SEL: lane j of A where P's lane j is nonzero and unmasked, of B otherwise. -/
def selOuts (x : Firing) : List Out :=
  let pick (j : Nat) : Operand := if laneP x j != 0 then x.a else x.b
  let fmt := ((fmtOfOperand x.a).or (fmtOfOperand x.b)).getD .i32
  let js := List.range x.count
  [{ tok := dataTok (js.map fun j => laneOf (pick j) j) (maskFrom (js.map fun j => maskOf (pick j) j)) fmt }]

def selHeader (x : Firing) : Fmt × Bool × Option Word :=
  (((fmtOfOperand x.a).or (fmtOfOperand x.b)).getD .i32, false, none)

/-- PASS (R384). -/
def execPass (a : BitVec 4) (d e : BitVec 6) (t : BitVec 4) (s : State) : Answer :=
  .next (fire (moveOp false headerA fun x => [{ tok := wholeA x }]) (form 0x70 a 0 d e t) s)

/-- STEER (R384). -/
def execSteer (a m : BitVec 4) (d e : BitVec 6) (t : BitVec 4) (s : State) : Answer :=
  .next (fire (moveOp false headerA (steerOuts (m.getLsbD 0))) (form 0x71 a m d e t) s)

/-- SEL (R384). -/
def execSel (a b : BitVec 4) (d e : BitVec 6) (t : BitVec 4) (s : State) : Answer :=
  .next (fire (moveOp true selHeader selOuts) (form 0x72 a b d e t) s)

/-- GATE (R384). -/
def execGate (a m : BitVec 4) (d e : BitVec 6) (t : BitVec 4) (s : State) : Answer :=
  .next (fire (moveOp false headerA (gateOuts (m.getLsbD 0))) (form 0x73 a m d e t) s)

/-! ### MERGE (R385) -/

/-- The field MERGE takes: the one that holds a token, or of two the one it did not last take. -/
def mergeChoice (lastL : Bool) : List (Nat × Token) → Option (Nat × Token)
  | [] => none
  | [c] => some c
  | c :: c' :: _ => some (if lastL then c' else c)

/-- A token sent on unchanged but for the tag action and VSEL. -/
def sameTok (t : Token) : Token := { t with poison := false }

/-- The firing of MERGE at a slot. In stream mode an EOS stops its field until both hold one. -/
def fireMerge (fm : Form) (s : State) (h : Slot) : State :=
  let here := [0, 1].filterMap fun k => (tokenIn h.part h.slot k).map fun t => (k, t)
  let data := if h.stream then here.filter (·.2.kind != .eos) else here
  let me := key16 h.v h.slot
  match mergeChoice ((elemOf s h.el).mergeL.contains me) data with
  | some (k, t) =>
    let (moment, s1) := if fm.t == 9 then nextMoment s else (0, s)
    let s' := modElem (consume s1 h fm.op [k] [] t.floor) h.el fun e =>
      { e with mergeL := if k = 0 then me :: e.mergeL.filter (· != me) else e.mergeL.filter (· != me) }
    let f := { firingOf s h fm [(k, t)] t (lanesOf t) t.mask false with
      a := .tok t, b := if k = 1 then .tok t else .word (Config.mergeTag moment) }
    if t.poison then poisonFault s' f else (emit s' f [{ tok := sameTok t }]).getD s
  | none =>
    match here with
    | (_, t) :: _ :: _ =>
      let s' := endStream (consume s h fm.op [0, 1] [] (floorOf (here.map (·.2)))) h
      (emit s' (firingOf s h fm here t 0 0 false) [{ tok := eosTok t.fmt }]).getD s
    | _ => s

/-- MERGE (R385). -/
def execMerge (d e : BitVec 6) (t : BitVec 4) (s : State) : Answer :=
  .next (fireSlot (form 0x74 0 1 d e t) s (fireMerge (form 0x74 0 1 d e t)))

/-! ### RADD and RMAX (R386, R387) -/

/-- The open sum of a slot: its running value and the next expected SEQ. -/
def openSum (p : FramePart) (slot : Nat) : Option (Token × BitVec 12 × Bool) :=
  match fieldOf p slot 2 with
  | some (.acc v next data) => some (v, next, data)
  | _ => none

/-- The SEQ a slot's sum expects next. -/
def expectedSeq (p : FramePart) (slot : Nat) : BitVec 12 := ((openSum p slot).map (·.2.1)).getD 0

/-- A term's lane function: the I32 one, or the float one in the format of the first term. -/
def termLane (int : Word → Word → Word) (flt : Nat → Nat → Nat → Nat → Rounded) (fmt : Fmt) (acc x : Word) : LaneResult :=
  if fmt = .i32 then ⟨int acc x, false, false⟩ else floatLane flt (fmt == .bf16) acc x 0

/-- The format a sum computes in, from its first term. -/
def sumFmt (t : Token) : Fmt := match t.fmt with | .i32 => .i32 | .bf16 => .bf16 | _ => .f32

/-- Term 0 as it is taken: subnormals read as zero. -/
def firstLane (fmt : Fmt) (x : Word) : Word :=
  if fmt = .i32 then x
  else (floatLane (fun p a _ _ => roundWide p (wide p a)) (fmt == .bf16) x 0 0).word

/-- The sum after a term: the running value, what is counted, and lanes lost beyond the LEN of term 0. A NULL term adds
nothing: as term 0 it leaves zero lanes, none of them unmasked. -/
def addTerm (lane : Fmt → Word → Word → LaneResult) (sum : Option (Token × BitVec 12 × Bool)) (t : Token) :
    (Token × Bool) × List LaneResult × Nat :=
  let acc : Token := match sum with
    | some (v, _, _) => v
    | none => { fmt := sumFmt t, lanes := List.replicate (lanesOf t) 0 }
  let seen := match sum with | some (_, _, d) => d | none => false
  let n := lanesOf acc
  if t.kind == .null then ((acc, seen), [], lanesOf t - n)
  else
    let rs := (List.range n).map fun j =>
      let x := tokLane t j
      if !t.mask.getLsbD j || lanesOf t ≤ j then (⟨acc.lanes.getD j 0, false, false⟩ : LaneResult)
      else if sum.isSome then lane acc.fmt (acc.lanes.getD j 0) x
      else ⟨firstLane acc.fmt x, false, false⟩
    (({ acc with lanes := rs.map (·.word), mask := acc.mask ||| (t.mask &&& lowMask n) }, true), rs, lanesOf t - n)

/-- The completed sum as a result: DATA when any term was, with SEQ 0. -/
def sumResult (acc : Token) (data pred : Bool) : Token :=
  if data then dataTok acc.lanes acc.mask acc.fmt pred else nullTok (lanesOf acc) acc.fmt pred none

/-- The stored term with the SEQ a slot expects moved to its field L (R386). -/
def releaseTerm (s : State) (h : Slot) : State :=
  modElem s h.el fun e =>
    match findPart e h.cfg h.tag with
    | none =>
      e
    | some p =>
      let wanted (q : QTok) := q.slot == h.slot && q.tok.tag == h.tag && q.tok.v == h.v &&
        q.tok.seq == expectedSeq p h.slot
      match e.reorder.find? wanted, fieldOf p h.slot 0 with
      | some q, none =>
        { modPartOf e h.cfg h.tag fun p => putField p h.slot 0 (some (.tok q.tok)) with
          reorder := match findPlace wanted e.reorder with | some i => dropAt e.reorder i | none => e.reorder }
      | _, _ => e

/-- A stored term released after a sum has completed goes to a part again, which it needs anew when the last one has
gone (R168). -/
def reopenPart (s : State) (h : Slot) : State :=
  let e := elemOf s h.el
  if (findPart e h.cfg h.tag).isNone && e.reorder.any fun q => q.slot == h.slot && q.tok.tag == h.tag && q.tok.v == h.v && q.tok.seq == 0
  then setElem s h.el { e with parts := e.parts ++ [{ cfg := h.cfg, tag := h.tag, touch := e.clock }] }
  else s

/-- The firing of RADD and RMAX for the term in field L, whose SEQ is the one expected. B is read at each firing and
consumed by the completing one, to which alone the tag action applies. -/
def fireTerm (lane : Fmt → Word → Word → LaneResult) (fm : Form) (s : State) (h : Slot) : State :=
  let sum := openSum h.part h.slot
  match tokenIn h.part h.slot 0, (if fm.b = 1 then tokenIn h.part h.slot 1 else some {}) with
  | some t, some b =>
    if t.seq != expectedSeq h.part h.slot then s
    else
      let reads := if fm.b = 1 then [(0, t), (1, b)] else [(0, t)]
      let f := firingOf s h fm reads t (lanesOf t) t.mask false
      let n := let k := (laneOf f.b 0).toNat % 4096; if k = 0 then 4096 else k
      let last := (expectedSeq h.part h.slot).toNat + 1 == n
      let ((acc, data), rs, lost) := addTerm lane sum t
      let s' := consume s h fm.op (if last && fm.b = 1 then [0, 1] else [0]) [] (floorOf (reads.map (·.2)))
      let acc := { acc with floor := if acc.floor.toNat < t.floor.toNat then t.floor else acc.floor }
      let counted (s : State) :=
        countLenDrop (countFloat s h.el (rs.filter (·.nan)).length (rs.filter (·.ovf)).length) h.el f.part f.tag.toNat h.slot lost
          acc.floor
      if reads.any (·.2.poison) then poisonFault s' f
      else if last then
        let s' := modElem s' h.el fun e => modPartOf e h.cfg h.tag fun p => putField p h.slot 2 none
        let f := { f with toks := acc :: f.toks }
        match emit s' f [{ tok := sumResult acc data (predA f), seq := some 0 }] with
        | some s' => releaseTerm (reopenPart (counted s') h) h
        | none => s
      else
        let next := expectedSeq h.part h.slot + 1
        let s' := modElem s' h.el fun e => modPartOf e h.cfg h.tag fun p => putField p h.slot 2 (some (.acc acc next data))
        releaseTerm (counted s') h
  | _, _ => s

/-- RADD (R386). -/
def execRadd (b : BitVec 4) (d e : BitVec 6) (t : BitVec 4) (s : State) : Answer :=
  .next (fireSlot (form 0x75 0 b d e t) s (fireTerm (termLane (· + ·) eltAdd) (form 0x75 0 b d e t)))

/-- RMAX (R386). -/
def execRmax (b : BitVec 4) (d e : BitVec 6) (t : BitVec 4) (s : State) : Answer :=
  .next (fireSlot (form 0x76 0 b d e t) s (fireTerm (termLane laneMax eltMax) (form 0x76 0 b d e t)))

/-! ### Counts and ends (R388, R389) -/

/-- The firing of an opcode that takes one token of any kind (R388 to R390): its results, after the token is consumed;
in stream mode an EOS releases the slot's tag. -/
def fireAny (fm : Form) (stream : Bool) (outs : Firing → Token → List Out) (after : State → Firing → Token → State)
    (s : State) (h : Slot) : State :=
  let k := if fm.a ≤ 2 then fm.a else 0
  match tokenIn h.part h.slot k with
  | none => s
  | some t =>
    let s' := consume s h fm.op [k] [] t.floor
    let s' := if stream && t.kind == .eos then endStream s' h else s'
    let f := firingOf s h fm [(k, t)] t (lanesOf t) t.mask false
    if t.poison then poisonFault s' f
    else (emit (after s' f t) f (outs f t)).getD s

/-- The running count of COUNT in field R. -/
def runningCount (s : State) (f : Firing) : Word :=
  match (findPart (elemOf s f.el) f.cfg f.tag).bind (fieldOf · f.slot 1) with
  | some (.count c) => c
  | _ => 0

/-- COUNT's running count after a token (R388). -/
def countToken (lanes : Bool) (s : State) (f : Firing) (t : Token) : State :=
  let c := runningCount s f
  let v : Option FieldVal := match t.kind with
    | .eos => none
    | .null => some (.count c)
    | _ => some (.count (satAdd c (if lanes then popCount 8 t.mask.toNat else 1)))
  modElem s f.el fun e => modPartOf e f.cfg f.tag fun p => putField p f.slot 1 v

/-- COUNT's results: a token goes to D0; at the EOS the count goes to D1 first. -/
def countOuts (s : State) (f : Firing) (t : Token) : List Out :=
  let on : Out := { tok := sameTok t, d1 := false }
  if t.kind == .eos then [{ tok := dataTok [runningCount s f] 1 .i32, d0 := false, seq := some 0 }, on] else [on]

/-- COUNT (R388). -/
def execCount (m : BitVec 4) (d e : BitVec 6) (t : BitVec 4) (s : State) : Answer :=
  .next (fireSlot (form 0x77 0 m d e t) s fun s h =>
    fireAny (form 0x77 0 m d e t) h.stream (countOuts s) (countToken (m.getLsbD 0)) s h)

def eosqOuts (_ : Firing) (t : Token) : List Out :=
  [{ tok := sameTok t, d1 := false }, { tok := dataTok [laneOfBool (t.kind == .eos)] 1 .i32 true, d0 := false }]

/-- EOSQ (R389). -/
def execEosq (a : BitVec 4) (d e : BitVec 6) (t : BitVec 4) (s : State) : Answer :=
  .next (fireSlot (form 0x78 a 0 d e t) s fun s h => fireAny (form 0x78 a 0 d e t) h.stream eosqOuts (fun s _ _ => s) s h)

/-- EOSG's results (R389): an EOS for the token; in stream mode the EOS that arrives is the only one. -/
def eosgOuts (x : Firing) (t : Token) : List Out := if x.stream && t.kind != .eos then [] else [{ tok := eosTok t.fmt }]

/-- EOSG (R389). -/
def execEosg (a : BitVec 4) (d e : BitVec 6) (t : BitVec 4) (s : State) : Answer :=
  .next (fireSlot (form 0x79 a 0 d e t) s fun s h => fireAny (form 0x79 a 0 d e t) h.stream eosgOuts (fun s _ _ => s) s h)

/-! ### Tags, SINK and CONST (R390) -/

/-- TAGOF's lanes: the firing's TAG, SEQ, CTX, V, LINK and HEAD, before the tag action; for a tag that no activation owns the last two
are the tag itself. -/
def tagLanes (s : State) (x : Firing) : List Word :=
  let owned (t : Tag) := if (ownerOf s x.part x.tag).isSome then t else x.tag
  [x.tag.setWidth 32, x.head.seq.setWidth 32, BitVec.ofNat 32 x.part, laneOfBool x.head.v,
   (owned (linkOf s x.part x.tag)).setWidth 32, (owned (headOf s x.part x.tag)).setWidth 32]

/-- TAGOF (R390). -/
def execTagof (a : BitVec 4) (d e : BitVec 6) (t : BitVec 4) (s : State) : Answer :=
  .next (fire { compare := false, header := countHeader
                body := fun s x => emit s x [{ tok := dataTok (tagLanes s x) 0x3F .i32 (predA x) }] }
    (form 0x7A a 0 d e t) s)

/-- The tag FREE names, if it may be freed: allocated, not a root, of the firing's activation. -/
def freeable (s : State) (x : Firing) : Option Tag :=
  let u : Tag := (laneOf x.a 0).setWidth 16
  let i := tagInfo s x.part u
  let own := ownerOf s x.part u
  if x.mask.getLsbD 0 && i.alloc && own.isSome && i.root == (tagInfo s x.part x.tag).root && i.root != some u then some u
  else none

/-- FREE (R390). -/
def execFree (a : BitVec 4) (d e : BitVec 6) (t : BitVec 4) (s : State) : Answer :=
  .next (fire { compare := false, header := countHeader
                body := fun s x =>
                  let u := freeable s x
                  (emit s x [{ tok := dataTok [laneOfBool u.isSome] 1 .i32 (predA x) }]).map fun s =>
                    match u with | some u => freeTag s x.part u (floorOf x.toks) | none => s }
    (form 0x7B a 0 d e t) s)

/-- SINK (R390): STRM is ignored. -/
def execSink (a t : BitVec 4) (s : State) : Answer :=
  .next (fireSlot (form 0x7C a 0 0 0 t) s fun s h =>
    fireAny (form 0x7C a 0 0 0 t) false (fun _ _ => []) (fun s _ _ => s) s h)

/-- CONST's result: the source word in every lane. -/
def constOuts (m : Nat) (x : Firing) : List Out :=
  let n := m % 8 + 1
  [{ tok := dataTok (List.replicate n (laneOf x.a 0)) (lowMask n) (if bit m 3 then .f32 else .i32) }]

/-- CONST (R390). -/
def execConst (a m : BitVec 4) (d e : BitVec 6) (t : BitVec 4) (s : State) : Answer :=
  .next (fire (moveOp false (fun _ => (if m.getLsbD 3 then .f32 else .i32, false, none)) (constOuts m.toNat))
    (form 0x7D a m d e t) s)

end Sys2Proof.Machine
end

