-- ==== Sys2Proof/Machine/Enqueue.lean ====
section
/-! DEFINITION. Tokens that arrive (R114, R115, R154, R166 to R171, R174, R175, R386, R387): the network, the input
queues and the spill ring, a token's entry into its frame part, and the spilling and reloading of parts. -/

namespace Sys2Proof.Machine

/-! ### Frame parts (R166 to R168) -/

/-- The quota Q of a configuration (R166). -/
def quotaOf (s : State) (c : Nat) : Nat := (graphAt s c).config.quota

/-- Spilled parts of a region (R167). -/
def spilledIn (s : State) (r : Nat) : Nat := ((s.elems.filter fun e => elemRegion e.1 == r).map fun e => e.2.spilled.length).sum

/-- A part with a firing in flight (R167): an ordering action that waits, or a divide. -/
def firingInFlight (s : State) (el : Nat) (p : FramePart) : Bool :=
  s.orders.any (fun o => o.el == el && o.cfg == p.cfg && o.tag == p.tag) || (elemOf s el).divider == some (p.cfg, p.tag) ||
    (elemOf s el).holding.any fun h => h.2 == p.tag && lookup 0 (elemOf s el).owner h.1 == p.cfg

/-- The part least recently touched among those that may be spilled (R167). -/
def victimOf (s : State) (el : Nat) (ps : List FramePart) : Option FramePart :=
  ps.foldl (fun best p => if p.fresh || firingInFlight s el p then best else match best with
    | none => some p
    | some b => if p.touch < b.touch then some p else some b) none

/-- What comes of asking for a part. -/
inductive Grant where
  | given (s : State) | waits | full

/-- A part taken for a tag, by R166 steps 3 and 4: a free one within the quota, or that of a victim, which is spilled. -/
def takePart (s : State) (el c : Nat) (p : FramePart) : Grant :=
  let e := elemOf s el
  let mine := e.parts.filter (·.cfg == c)
  let add (e : Element) : Element := { e with parts := e.parts ++ [{ p with touch := e.clock }], clock := e.clock + 1 }
  if mine.length < quotaOf s c && e.parts.length < Config.framePartsPerElement then .given (modElem s el add)
  else
    let pool := if quotaOf s c ≤ mine.length then mine else e.parts
    match victimOf s el pool with
    | none => .waits
    | some v =>
      if Config.frameSpillParts ≤ spilledIn s (elemRegion el) then .full
      else .given (modElem s el fun e => add { e with
        parts := e.parts.filter (fun q => !(q.cfg == v.cfg && q.tag == v.tag)), spilled := e.spilled ++ [v] })

/-! ### Entering (R114, R115, R166, R169 to R171, R386) -/

/-- Whether a token that an element keeps belongs to the frame of tag `t` of a configuration. -/
def sameFrame (s : State) (el c : Nat) (t : Tag) (x : QTok) : Bool := x.tok.tag == t && ownerCfg s el x.tok.v x.slot == some c

/-- Whether a frame's part is spilled. -/
def partSpilled (e : Element) (c : Nat) (t : Tag) : Bool := e.spilled.any fun p => p.cfg == c && p.tag == t

/-- The token fields that a firing of an instruction word reads (R170). -/
def fieldsRead (w : Nat) : List Nat :=
  let op := bits w 31 24
  if op = 0x74 then [0, 1]
  else match opInfo op with
    | some i => readFields i ⟨op, bits w 23 20, bits w 19 16, 0, 0, 0⟩
    | none => [0]

/-- Every field the slot reads holds an EOS of the tag it is bound to, whose firing will release it (R171). -/
def streamEnding (e : Element) (c slot w : Nat) (t : Tag) : Bool :=
  match findPart e c t with
  | some p => (fieldsRead w).all fun k => match tokenIn p slot k with | some u => u.kind == .eos | none => false
  | none => false

/-- A token stored in its field of the resident part, or of one it takes; none while it waits. -/
def storeToken (s : State) (el c : Nat) (x : QTok) (stream : Bool) : Option State :=
  let e := elemOf s el
  let bind (e : Element) : Element :=
    if stream then { e with streamTag := store e.streamTag (key16 x.tok.v x.slot) (some x.tok.tag) } else e
  let put (e : Element) : Element :=
    bind { modPartOf e c x.tok.tag (fun p => { putField p x.slot x.field (some (.tok x.tok)) with touch := e.clock }) with
      clock := e.clock + 1 }
  match findPart e c x.tok.tag with
  | some p => if (fieldOf p x.slot x.field).isSome then none else some (modElem s el put)
  | none =>
    match takePart s el c { cfg := c, tag := x.tok.tag } with
    | .given s => some (modElem s el put)
    | .waits => none
    | .full => some (elemFault s el x.tok.v x.slot x.tok.ctx x.tok.tag 0x22)

/-- An RADD or RMAX term on field L that comes early (R386): stored, or waiting. None when it is the term expected. -/
def earlyTerm (e : Element) (c op : Nat) (x : QTok) : Option (Option Element) :=
  if x.field != 0 || (op != 0x75 && op != 0x76) then none
  else
    let next := match findPart e c x.tok.tag with | some p => expectedSeq p x.slot | none => 0
    if x.tok.seq == next then none
    else if (x.tok.seq - next).toNat < 16 && e.reorder.length < 16 then some (some { e with reorder := e.reorder ++ [x] })
    else some none

/-- A token of an accepted format that its slot's instruction takes: dropped (R170, R171), parked with its spilled part
(R166), stored, or waiting. -/
def admitToken (s : State) (el c w attr : Nat) (x : QTok) (parked : Bool) : Option State :=
  let e := elemOf s el
  let op := bits w 31 24
  let stream := bit attr 1 && op != 0x7C
  let bound := lookup none e.streamTag (key16 x.tok.v x.slot)
  if (x.tok.kind == .ctrl && op != 0x7C) || (x.tok.kind == .eos && !(stream || op == 0x78 || op == 0x7C)) then
    some (countEosMis s el x.tok.ctx x.tok.tag.toNat x.slot x.tok.floor)
  else match (if stream then bound.filter (· != x.tok.tag) else none) with
    | some t => if streamEnding e c x.slot w t then none
      else some (elemFault s el x.tok.v x.slot x.tok.ctx x.tok.tag 0x03)
    | none =>
      if partSpilled e c x.tok.tag || (!parked && e.parked.any (sameFrame s el c x.tok.tag)) then
        if parked then none else some (setElem s el { e with parked := e.parked ++ [x] })
      else match earlyTerm e c op x with
        | some (some e) => some (setElem s el e)
        | some none => none
        | none => storeToken s el c x stream

/-- A token of a format that its slot does not accept (R169): forwarded to CONV unchanged, or FMT_NOROUTE. -/
def convToken (s : State) (el attr : Nat) (x : QTok) : Option State :=
  let k := bits attr 7 2
  let fault := elemFault s el x.tok.v x.slot x.tok.ctx x.tok.tag 0x02
  if k = 0 then some fault
  else if (elemOf s el).absent.contains (.route x.tok.v k) then none
  else match route s el x.tok.v k with
    | some d => if hasRoom s d then some (sendTok s el x.tok d) else none
    | none => some fault

/-- A token at the head of its queue (R166), or a parked one: the state once it has left, or none while it waits. -/
def enterToken (s : State) (el : Nat) (x : QTok) (parked : Bool) : Option State :=
  let e := elemOf s el
  let v := x.tok.v
  let w := (lookup 0 e.instr (key16 v x.slot)).toNat
  let attr := (lookup 0 e.attrs (key16 v x.slot)).toNat
  if e.absent.contains (.slot v x.slot) || e.absent.contains (.attr v x.slot) then none
  else match ownerCfg s el v x.slot with
    | none => some (elemFault s el v x.slot x.tok.ctx x.tok.tag 0x01)
    | some c =>
      if bits w 31 24 = 0 then some (elemFault s el v x.slot x.tok.ctx x.tok.tag 0x01)
      else if !bit attr (8 + fmtCode x.tok.fmt) then convToken s el attr x
      else if (firingEntries v x.slot w).any e.absent.contains then none
      else admitToken s el c w attr x parked

/-! ### Queues (R154, R175) -/

/-- Key of a queue in its region's spill ring. -/
def queueKey (el q : Nat) : Nat := 4 * el + q

/-- A token appended to an input queue. -/
def pushQueue (s : State) (el q : Nat) (x : QTok) : State :=
  modElem s el fun e => { e with queues := store e.queues q (lookup [] e.queues q ++ [x]) }

/-- A token that has arrived for a queue: it joins it, or follows earlier ones to the spill ring; none without room. -/
def joinQueue (s : State) (el q : Nat) (x : QTok) : Option State :=
  let r := elemRegion el
  let ring := (regionOf s r).spill
  if (lookup [] (elemOf s el).queues q).length < 8 && !ring.any (·.1 == queueKey el q) then some (pushQueue s el q x)
  else if ring.length < Config.spillRingTokens then
    some (modRegion s r fun g => { g with spill := g.spill ++ [(queueKey el q, x)] })
  else none

/-- The head of a queue enters, if it can; the state holds the trace's or the FGE's hold (R103, R150). -/
def enterHead (el : Nat) (s : State) (q : Nat) : State :=
  match lookup [] (elemOf s el).queues q with
  | [] => s
  | x :: rest =>
    let out := modElem s el fun e => { e with queues := store e.queues q rest }
    match enterToken out el x false with
    | some s' => holdForTrace s s' x.tok.ctx
    | none => s

/-- Parked token `k` of an element enters, unless an earlier one of its field still waits (R167). -/
def enterParked (el : Nat) (s : State) (k : Nat) : State :=
  let e := elemOf s el
  match e.parked[k]? with
  | none => s
  | some x =>
    let same (y : QTok) := y.slot == x.slot && y.field == x.field && y.tok.tag == x.tok.tag && y.tok.v == x.tok.v
    if (e.parked.take k).any same then s
    else match enterToken (setElem s el { e with parked := dropAt e.parked k }) el x true with
      | some s' => holdForTrace s s' x.tok.ctx
      | none => s

/-- The parked tokens whose parts are resident enter in the order they were parked, from place `k` on. -/
def enterAllParked (el : Nat) : Nat → Nat → State → State
  | 0, _, s => s
  | fuel + 1, k, s =>
    let s' := enterParked el s k
    if (elemOf s' el).parked.length < (elemOf s el).parked.length then enterAllParked el fuel k s'
    else enterAllParked el fuel (k + 1) s'

/-- Tokens in an element's queues. -/
def queuedIn (e : Element) : Nat := (e.queues.map (·.2.length)).sum

/-- The heads of an element's queues enter, round by round, until none can. -/
def enterRounds (el : Nat) : Nat → State → State
  | 0, s => s
  | fuel + 1, s =>
    let s' := [0, 1, 2, 3].foldl (enterHead el) s
    if queuedIn (elemOf s' el) = queuedIn (elemOf s el) then s' else enterRounds el fuel s'

/-- Parked tokens and heads of an element enter as they can. -/
def settle (s : State) (el : Nat) : State :=
  let s := enterAllParked el (elemOf s el).parked.length 0 s
  enterRounds el (queuedIn (elemOf s el)) s

/-! ### TOKEN_ENQUEUE -/

/-- The graph whose tokens carry a tag: that of the activation, or of the data ring whose stream has it. -/
def graphOfTag (s : State) (n : Nat) (t : Tag) : Option Nat :=
  match ownerOf s n t with
  | some a => some a.handle
  | none =>
    let has (u : Tag) (d : DataRing) := d.tag == some u || d.closings.contains u
    ((partOf s n).rings.find? fun d => has t d.2 || has (headOf s n t) d.2).map (·.2.graph)

/-- The graph of a token whose placement at an element is a stage that is swapped out (R117). -/
def swappedAt (s : State) (el : Nat) (t : Token) : Option Nat :=
  (graphOfTag s t.ctx t.tag).filter fun h => (placementAt s (cfgOf t.ctx h) el).any (·.swapped)

/-- The acknowledgement of a store delivered to an element of a region (R212). -/
def noteAck (s : State) (r : Nat) (a : Option Ack) : State :=
  match a with
  | some a => modRegion s r fun g => { g with acked := g.acked ++ [a] }
  | none => s

/-- A flight at its destination: the state once it has arrived there, or none while it stays on its way. A token of a
swapped-out stage goes to the parked-token ring (R117). -/
def arrive (s : State) (f : Flight) : Option State :=
  match f.dest, f.cmd with
  | .slot el slot k _ port, _ =>
    match swappedAt s el f.tok with
    | some h => some (modGraph s f.tok.ctx h fun g => { g with parkedTokens := g.parkedTokens ++ [f] })
    | none => (joinQueue s el (if port then 3 else k) ⟨f.tok, slot, k⟩).map fun s => settle (noteAck s (elemRegion el) f.ack) el
  | .engine _ _ _, some c => if engineTakes s c then some (acceptCmd s c) else none
  | .engine _ _ _, none => none
  | .egress r p _, _ =>
    if p < 8 then
      let q := lookup [] (regionOf s r).streams p
      if q.length < 64 then some (modRegion s r fun g => { g with streams := store g.streams p (q ++ [f.tok]) }) else none
    else
      let hq := 16 * (r % 4) + p - 8
      let h := lookup {} (clusterOf s (r / 4)).hwq hq
      if h.triggers.length < 64 then
        some (modHwq s (r / 4) hq fun h => { h with triggers := h.triggers ++ [f.tok] })
      else none
  | .drop el, _ => some (bump s el .dropCnt 1)

/-- The partition of a flight. -/
def flightPart (f : Flight) : Nat := match f.cmd with | some c => c.part | none => f.tok.ctx

/-- A record on its way to a broker: an admission or a return, with the broker's cluster. -/
def brokerRecord (f : Flight) : Option Nat :=
  match f.dest, f.cmd with
  | .engine r 9 _, some c => if c.code == 0xD9 || c.code == 0xDA then some (r / 4) else none
  | _, _ => none

/-- A record that has reached the same broker before this one still holds there (R152, R276). -/
def behindRecord (s : State) (f : Flight) : Bool :=
  (brokerRecord f).isSome && s.net.any fun g =>
    brokerRecord g == brokerRecord f && regionRuns s (destRegion g.dest) (flightPart g) &&
      (match g.reached, f.reached with | some a, some b => a < b | some _, none => true | none, _ => false)

/-- A record that holds for the trace has reached its broker: its order is fixed from then on (R152). -/
def markReached (s : State) (k : Nat) (f : Flight) : State :=
  if (brokerRecord f).isNone || f.reached.isSome then s
  else { s with net := modifyAt (fun f => { f with reached := some s.nextIdent }) s.net k, nextIdent := s.nextIdent + 1 }

/-- Flight `k` arrives, if no earlier one of its way is still under way and its region runs for its partition (R123,
R174). -/
def landFlight (s : State) (k : Nat) : State :=
  match s.net[k]? with
  | none => s
  | some f =>
    if (s.net.take k).any (sameWay f) || behindRecord s f || !regionRuns s (destRegion f.dest) (flightPart f) then s
    else match arrive { s with net := dropAt s.net k } f with
      | some s' => if traceHolds s s' (flightPart f) then markReached (holdForTrace s s' (flightPart f)) k f else holdForTrace s s' (flightPart f)
      | none => s

/-- TOKEN_ENQUEUE (R166): flight `k` of the network arrives. -/
def execTokenEnqueue (k : Nat) (s : State) : Answer := .next (landFlight s k)

/-! ### FRAME_PART_RELOAD (R167) -/

/-- A slot of a spilled part has what its instruction reads, of a MERGE one token, or its instruction is absent. -/
def slotWaits (e : Element) (p : FramePart) (v : Bool) (n : Nat) : Bool :=
  let w := (lookup 0 e.instr (key16 v n)).toNat
  let has (k : Nat) : Bool := (tokenIn p n k).isSome
  lookup 0 e.owner (key16 v n) == p.cfg && p.fields.any (·.1 / 3 == n) &&
    (e.absent.contains (.slot v n) || if bits w 31 24 = 0x74 then (fieldsRead w).any has else (fieldsRead w).all has)

/-- The reload of a spilled part begins (R166): a token of its frame is parked, or one of its slots waits for nothing else
(notes/assumptions/26). -/
def reloadDue (s : State) (el : Nat) (p : FramePart) : Bool :=
  (elemOf s el).parked.any (sameFrame s el p.cfg p.tag) ||
    (List.range 16).any fun n => [false, true].any fun v => slotWaits (elemOf s el) p v n

/-- A spilled part comes back, if it gets a part; its parked tokens follow in the order they were parked. -/
def bringBack (s : State) (el : Nat) (p : FramePart) : Option State :=
  let e := elemOf s el
  if !reloadDue s el p || !regionRuns s (elemRegion el) (cfgPart p.cfg) || (placementAt s p.cfg el).any (·.swapped) then none
  else
    let out := setElem s el { e with spilled := e.spilled.filter fun q => !(q.cfg == p.cfg && q.tag == p.tag) }
    match takePart out el p.cfg { p with fresh := true } with
    | .given s' => some (holdForTrace s (settle s' el) (cfgPart p.cfg))
    | .waits => none
    | .full => some (holdForTrace s (elemFault s el false 0 (cfgPart p.cfg) p.tag 0x22) (cfgPart p.cfg))

/-- A spilled part of a tag comes back: of its configurations' parts the first that can. -/
def reloadPart (s : State) (el : Nat) (t : Tag) : State :=
  (((elemOf s el).spilled.filter (·.tag == t)).findSome? (bringBack s el)).getD s

/-- FRAME_PART_RELOAD (R167). -/
def execFramePartReload (el : Nat) (tag : BitVec 16) (s : State) : Answer := .next (reloadPart s el tag)

/-! ### QUEUE_REFILL (R175) -/

/-- Entries of a region's spill ring moved to their queues where there is room, in arrival order. -/
def refillFrom (r : Nat) : List (Nat × QTok) → State × List (Nat × QTok) → State × List (Nat × QTok)
  | [], acc => acc
  | x :: xs, (s, kept) =>
    let el := x.1 / 4
    let q := x.1 % 4
    if kept.any (·.1 == x.1) || 8 ≤ (lookup [] (elemOf s el).queues q).length then refillFrom r xs (s, kept ++ [x])
    else refillFrom r xs (pushQueue s el q x.2, kept)

/-- The elements of a region that hold waiting tokens. -/
def busyElems (s : State) (r : Nat) : List Nat :=
  (s.elems.filter fun e => elemRegion e.1 == r && (queuedIn e.2 != 0 || !e.2.parked.isEmpty)).map (·.1)

/-- A region's waiting tokens enter as they can, and its queues are refilled from the spill ring. -/
def refill (s : State) (r : Nat) : State :=
  if !regionRuns s r (holder s r) then s
  else
    let s := (busyElems s r).foldl settle s
    let (s, kept) := refillFrom r (regionOf s r).spill (s, [])
    modRegion s r fun g => { g with spill := kept }

/-- QUEUE_REFILL (R175). -/
def execQueueRefill (r : Nat) (s : State) : Answer := .next (refill s r)

end Sys2Proof.Machine
end

