-- ==== Sys2Proof/Machine/Queues.lean ====
section
/-! DEFINITION. Rings and the merge (R55 to R60, R67, R74, R77 to R80): doorbells, ring fetch, the merge unit's rounds with
bundles and indirect buffers, and the queue control registers that start and stop a queue. -/

namespace Sys2Proof.Machine

/-! ### What a queue shows (R77, R80) -/

/-- A ring with a published packet that the device has not finished with. -/
def ringPublished (r : Ring) : Bool :=
  !r.ibs.isEmpty || !r.fetched.isEmpty || (4 ≤ r.rlog2 && r.rlog2 ≤ 16 && r.prod != r.rhead)

/-- The rings of a queue that are merged. -/
def mergedRings (u : Queue) : List Ring := (List.range u.nrings).map (lookup {} u.rings)

/-- Whether the stored state is one that follows from the queue's contents. -/
def plainState (u : Queue) : Bool := u.state == .idle || u.state == .run || u.state == .parkedFault

/-- STATE as QSW shows it (R77, R80). -/
def shownState (u : Queue) (acts : Nat) : QState :=
  if !plainState u then u.state
  else
    let pub := (mergedRings u).filter ringPublished
    if u.enable && !pub.isEmpty && pub.all (·.rstat == .parked) then .parkedFault
    else if !u.inFlight.isEmpty || acts != 0 || (u.enable && (!pub.isEmpty || !u.merged.isEmpty)) then .run
    else .idle

/-- STATE of queue `q` of partition `n`. -/
def queueState (s : State) (n q : Nat) : QState := shownState (queueOf s n q) ((partOf s n).acts.filter (·.queue == q)).length

/-- A queue may fetch packets and take them on: enabled, in a plain state, the link up, no context of it saved, no HOLD, and the
scheduler not paused (R47, R82, R121, R129). -/
def queueGoes (s : State) (n q : Nat) : Bool :=
  let u := queueOf s n q
  u.enable && plainState u && s.dev.linkUp && !u.savedCtx && !(partOf s n).hold && !fgePaused s

/-! ### Doorbells (R57) -/

/-- A write to a ring's doorbell. -/
def doorbell (s : State) (n q i : Nat) (v : BitVec 32) : State :=
  let r := ringOf s n q i
  if (v - r.rhead).toNat ≤ 2 ^ r.rlog2 then modRing s n q i fun r => { r with prod := v }
  else queueEvent (modRing s n q i fun r => { r with doorbellErrors := r.doorbellErrors + 1 }) n q i 2 0

/-- DOORBELL_WRITE (R57). -/
def execDoorbellWrite (n q i : Nat) (v : BitVec 32) (s : State) : Answer := .next (doorbell s n q i v)

/-! ### Fetch (R58, R67, R77) -/

/-- What a fetch of 64 bytes finds; a translation that has been asked of the host holds it (R201). -/
inductive Fetched where
  | bytes (bs : List Byte) | parked (page : Nat) (s : State) | held (s : State) | denied

/-- 64 bytes read in a ring's address space. -/
def fetch64 (s : State) (n : Nat) (r : Ring) (va : Nat) : Fetched :=
  match loadVia s (fun a => translateRing s n r.host r.pasid a .read) va 64 with
  | .ok (bs, _) => .bytes bs
  | .error (.atsMiss page) => .held (askHost s page)
  | .error x =>
    match waitFor s n x with
    | some (page, s) => .parked page s
    | none => .denied

/-- A ring parked on a page (R77). -/
def parkRing (s : State) (n q i page : Nat) : State :=
  queueEvent (modRing s n q i fun r => { r with rstat := .parked, parkedPage := some page }) n q i 4 (queueOf s n q).nextSeq

/-- A field of a packet's header and body (R61). -/
def Packet.head (p : Packet) : Nat := leNat (p.bytes.take 8)
def Packet.type (p : Packet) : Nat := bits p.head 7 0
def Packet.bundle (p : Packet) : Bool := bit p.head 9
def Packet.irq (p : Packet) : Bool := bit p.head 10
def Packet.chain (p : Packet) : Bool := bit p.head 11
def Packet.field (p : Packet) (off n : Nat) : Nat := leNat ((p.bytes.drop (8 + off)).take n)

/-- A packet that cannot be read (R77): it takes the next sequence number, its ring shows RSTAT 2, and the queue faults
RING_FAULT with the ring's number. -/
def ringFault (s : State) (n q : Nat) (p : Packet) : State :=
  let seq := (queueOf s n q).nextSeq
  let s := modQueue s n q fun u => { u with
    nextSeq := seq + 1, rings := store u.rings p.ring { lookup {} u.rings p.ring with rstat := .faulted, parkedPage := none, ibs := [] } }
  packetFault s n q { p with qseq := seq } 0x32 p.ring

/-- The packet that a ring is about to read: the next of its innermost indirect buffer, or of the ring. -/
def nextUnread (r : Ring) (i : Nat) : Packet :=
  match r.ibs with
  | f :: _ => { hdrSeq := BitVec.ofNat 32 f.index, ring := i, level := f.level }
  | [] => { hdrSeq := r.rhead, ring := i }

/-- The next published packet of a ring fetched, with its SEQ checked against its index (R58). -/
def fetchRing (s : State) (n q i : Nat) : State :=
  let u := queueOf s n q
  let r := ringOf s n q i
  if !queueGoes s n q || u.nrings ≤ i || r.rlog2 < 4 || 16 < r.rlog2 || r.rstat != .active || r.prod == r.rhead then s
  else
    match fetch64 s n r (r.base + 64 * (r.rhead.toNat % 2 ^ r.rlog2)) with
    | .parked page s => parkRing s n q i page
    | .held s => s
    | .denied => ringFault s n q { hdrSeq := r.rhead, ring := i }
    | .bytes bs =>
      let p : Packet := { hdrSeq := r.rhead, ring := i, bytes := bs }
      modRing s n q i fun r => { r with
        rhead := r.rhead + 1, fetched := r.fetched ++ [{ p with badSeq := bits p.head 63 32 != r.rhead.toNat }] }

/-- RING_FETCH (R58). -/
def execRingFetch (n q i : Nat) (s : State) : Answer := .next (fetchRing s n q i)

/-! ### Packet checks (R61, R62, R67) -/

/-- The first nonzero byte of a body range, by its offset. -/
def nonzeroAt (p : Packet) (lo hi : Nat) : Option Nat :=
  ((List.range (hi - lo)).map (lo + ·)).find? fun k => p.bytes.getD (8 + k) 0 != 0

/-- What is wrong with an indirect buffer packet (R67): its fault code and DETAIL. -/
def ibFault (p : Packet) : Option (Byte × Nat) :=
  if 4 ≤ p.level then some (0x31, 5)
  else if p.field 0 8 % 64 != 0 then some (0x33, 0)
  else if p.field 8 4 = 0 || 4096 < p.field 8 4 then some (0x33, 8)
  else (nonzeroAt p 12 56).map fun k => (0x33, k)

/-- What is wrong with a packet's header (R36, R58, R62). -/
def headFault (s : State) (p : Packet) : Option (Byte × Nat) :=
  if bits p.head 31 12 != 0 || p.type = 0 || 10 < p.type || p.badSeq then some (0x33, 0xFF)
  else if !featOn s 0 && p.type != 7 && p.type != 10 then some (0x33, 0xFF)
  else none

/-! ### The merge (R59, R60, R67) -/

/-- A packet given the next queue sequence number. -/
def number (s : State) (n q : Nat) (p : Packet) : State :=
  modQueue s n q fun u => { u with merged := u.merged ++ [{ p with qseq := u.nextSeq }], nextSeq := u.nextSeq + 1 }

/-- A taken packet that is a sound indirect buffer opens it on its ring. -/
def openIb (s : State) (n q : Nat) (p : Packet) : State :=
  if p.type = 4 && bits p.head 31 12 = 0 && !p.badSeq && (ibFault p).isNone then
    let f : IbFrame := { level := p.level + 1, next := p.field 0 8, left := p.field 8 4, index := 0
                         ib := (queueOf s n q).nextSeq - 1 }
    modRing s n q p.ring fun r => { r with ibs := f :: r.ibs }
  else s

/-- A packet taken into the order. -/
def takePacket (s : State) (n q : Nat) (p : Packet) : State := openIb (number s n q p) n q p

/-- The merge goes on to the next ring. -/
def nextRing (s : State) (n q : Nat) : State :=
  modQueue s n q fun u => { u with run := none, mergeAt := u.mergeAt + 1 }

/-- One packet of the innermost indirect buffer of ring `i`, as part of its unbroken run. -/
def readIb (s : State) (n q i : Nat) : State :=
  let r := ringOf s n q i
  match r.ibs with
  | [] => s
  | f :: rest =>
    if r.rstat != .active then s
    else match fetch64 s n r f.next with
      | .parked page s => nextRing (parkRing s n q i page) n q
      | .held s => s
      | .denied => ringFault s n q (nextUnread r i)
      | .bytes bs =>
        let p : Packet := { hdrSeq := BitVec.ofNat 32 f.index, ring := i, level := f.level, bytes := bs
                            closes := if f.left = 1 then some f.ib else none }
        let left := if f.left = 1 then rest else { f with next := f.next + 64, left := f.left - 1, index := f.index + 1 } :: rest
        let s := takePacket (modRing s n q i fun r => { r with ibs := left }) n q p
        if (ringOf s n q i).ibs.isEmpty && (queueOf s n q).run.isNone then nextRing s n q else s

/-- One move of the round at the ring it is at: none when it must wait. -/
def mergeMove (s : State) (n q : Nat) : Option State :=
  let u := queueOf s n q
  let i := u.mergeAt
  let r := ringOf s n q i
  if r.rstat != .active then some (nextRing s n q)
  else if !r.ibs.isEmpty then none
  else match u.run, r.fetched with
    | none, [] => some (nextRing s n q)
    | some _, [] =>
      if r.prod != r.rhead then none
      else some (nextRing (queueEvent (modQueue s n q fun u => { u with bundleBreaks := u.bundleBreaks + 1 }) n q i 3
        (u.nextSeq - 1)) n q)
    | k, p :: rest =>
      let taken := match k with | none => 0 | some k => k + 1
      let s := takePacket (modRing s n q i fun r => { r with fetched := rest }) n q p
      if p.bundle && taken < 8 then some (modQueue s n q fun u => { u with run := some taken })
      else if (ringOf s n q i).ibs.isEmpty then some (nextRing s n q)
      else some (modQueue s n q fun u => { u with run := none })

/-- Moves of a round until it ends or must wait. -/
def mergeMoves (n q : Nat) : Nat → State → State
  | 0, s => s
  | fuel + 1, s =>
    if (queueOf s n q).nrings ≤ (queueOf s n q).mergeAt then modQueue s n q fun u => { u with mergeAt := 0, run := none }
    else match mergeMove s n q with
      | some s => mergeMoves n q fuel s
      | none => s

/-- A packet whose fetch or header faults, at the head of the queue's order, is refused (R62). -/
def refuseHead (s : State) (n q : Nat) : State :=
  match (queueOf s n q).merged with
  | p :: _ => match headFault s p with
    | some (code, detail) => if queueGoes s n q then packetFault s n q p code detail else s
    | none => s
  | [] => s

/-- A round of the merge, from where it stands. -/
def mergeRound (s : State) (n q : Nat) : State :=
  let s := refuseHead s n q
  if queueGoes s n q then mergeMoves n q 641 s else s

/-- MERGE_ROUND (R59): of the queue in hand. -/
def execMergeRound (s : State) : Answer := .next (mergeRound s s.hand.1 s.hand.2)

/-! ### CPLHEAD (R74) -/

/-- CPLHEAD written: held records go out as there is room. -/
def setCplHead (s : State) (n q : Nat) (v : BitVec 32) : State :=
  flushCpl (modQueue s n q fun u => { u with cplHead := v }) n q

/-- CPLHEAD_WRITE (R74). -/
def execCplheadWrite (n q : Nat) (v : BitVec 32) (s : State) : Answer := .next (setCplHead s n q v)

/-! ### ENABLE (R55, R78, R79, R82) -/

/-- The completion ring is valid (R79). -/
def cplValid (u : Queue) : Bool := 4 ≤ u.cplLog2 && u.cplLog2 ≤ 16 && u.cplBase % (32 * 2 ^ u.cplLog2) == 0

/-- A queue begins afresh (R55); completions still held are written into the ring's first pass (R74). -/
def startQueue (u : Queue) : Queue :=
  { u with
    enable := true, state := .idle, lastSeq := 0xFFFFFFFF#32, cplHead := 0, cplTail := 0
    rings := mapVals (fun _ r => { r with rhead := 0, prod := 0, rstat := .active, fetched := [], ibs := [], parkedPage := none }) u.rings
    mergeAt := 0, run := none, nextSeq := 0, merged := [], inFlight := [], failed := [], detail := 0
    vPage := none, cplPage := none, cplFailed := false, stallAt := none }

/-- A write of QCTL with ENABLE 1: PRIO and NRINGS as written, and a valid idle queue starts; under HOLD it is kept SAVED from
its start (R129). -/
def enableQueue (s : State) (n q : Nat) (v : BitVec 64) : State :=
  let s := modQueue s n q fun u => { u with prio := v.extractLsb' 1 3, nrings := bits v.toNat 10 4 }
  let u := queueOf s n q
  if v.getLsbD 0 && !u.enable && 1 ≤ u.nrings && u.nrings ≤ 64 && queueState s n q == .idle && cplValid u then
    let s := flushCpl (modQueue s n q startQueue) n q
    if (partOf s n).hold then
      modQueue (ladderEvent (ladderEvent s n q 0 2) n q 0 4) n q fun u => { u with
        state := .saved, rung := 2, savedCtx := true, holdSaved := true }
    else s
  else s

/-- QCTL_ENABLE_SET (R55). -/
def execQctlEnableSet (n q : Nat) (v : BitVec 64) (s : State) : Answer := .next (enableQueue s n q v)

/-- Fetch and admission stop at once; what is fetched and not admitted is dropped, an IB in hand ends with it, and neither
counts as completed (R72). -/
def stopQueue (u : Queue) : Queue :=
  { u with enable := false, merged := [], mergeAt := 0, run := none, vPage := none, stallAt := none
           inFlight := u.inFlight.filter fun p => p.type != 4
           failed := u.failed ++ ((u.inFlight.filter fun p => p.type == 4) ++ u.merged).map (·.qseq)
           rings := mapVals (fun _ r => { r with
             fetched := [], ibs := [], parkedPage := none, rstat := if r.rstat == .parked then .active else r.rstat }) u.rings }

/-- ENABLE written to 0 (R82): admitted activations go on. -/
def disableQueue (s : State) (n q : Nat) : State := modQueue s n q fun u => if u.enable then stopQueue u else u

/-- QCTL_ENABLE_CLEAR (R82). -/
def execQctlEnableClear (n q : Nat) (s : State) : Answer := .next (disableQueue s n q)

end Sys2Proof.Machine
end

