-- ==== Sys2Proof/Machine/Attest.lean ====
section
/-! DEFINITION. Identity and the measurement log (R33, R37 to R39): DEVSTAGE, log entries and their chain value, and the
attestation report. -/

namespace Sys2Proof.Machine

/-- DEVSTAGE's STAGE of a stage. -/
def stageCode : Stage → Nat
  | .s2 => 2
  | .s3 => 3
  | _ => 1

/-- CASTLESTAT.STATE (R44). -/
def castleCode : CastleState → Nat
  | .idle => 0 | .verify => 1 | .staged => 2 | .castlePoint => 3 | .probation => 4 | .committed => 5 | .fallback => 6
  | .refused => 7

/-- Whether a castling is under way. -/
def castling (s : State) : Bool := 1 ≤ castleCode s.dev.castle.state && castleCode s.dev.castle.state ≤ 4

/-- The order of the stages. -/
def stageRank : Stage → Nat
  | .off => 0 | .booting => 1 | .s0 => 2 | .s1 => 3 | .s2 => 4 | .s3 => 5

/-- The stage has been reached. -/
def atStage (s : State) (g : Stage) : Bool := stageRank g ≤ stageRank s.dev.stage

/-- DEVSTAGE (R33): the rail is found missing at S1, where the device then stays (R11). -/
def devStage (s : State) : Nat :=
  let d := s.dev
  stageCode d.stage + 8 * ofBit (atStage s .s1 && !d.aux54) + 16 * ofBit d.stalled + 32 * ofBit d.featPend + 64 * ofBit d.clk.lock +
    128 * ofBit (castling s) + 256 * d.failUnit.toNat

/-- BODY of a firmware body (R38, R44). -/
def bodyCode : Body → Nat
  | .engine => 0 | .scheduler => 1 | .controller => 2

/-- The body of a BODY field; 3, which only a rewrite of FWSCTL after OPEN can leave, is taken as the controller
(notes/assumptions/43). -/
def bodyOf : Nat → Body
  | 0 => .engine
  | 1 => .scheduler
  | _ => .controller

/-- The image facts of a body at first power-on, which the manual does not give (notes/assumptions/2). -/
def blankImage : ImageFacts := ⟨0, 0, 0, 0, 0, [], true, 0, 0⟩

/-- The facts a table of images gives a body. -/
def imageIn (t : List (Body × ImageFacts)) (b : Body) : ImageFacts := ((t.find? (·.1 == b)).map (·.2)).getD blankImage

/-- A table with a body's entry replaced. -/
def putBody {α : Type} (t : List (Body × α)) (b : Body) (x : α) : List (Body × α) := t.filter (·.1 != b) ++ [(b, x)]

/-- The image in control of a body. -/
def imageOf (s : State) (b : Body) : ImageFacts := imageIn s.dev.castle.current b

/-! ### The log (R38) -/

/-- The 64 bytes of a log entry. -/
def entryBytes (e : LogEntry) : List Byte :=
  leBytes 4 e.seq ++ leBytes 1 e.kind ++ leBytes 1 (bodyCode e.body) ++ leBytes 2 e.schema ++ leBytes 8 e.tt.toNat ++
  leBytes 4 e.version.toNat ++ leBytes 12 0 ++ leBytes 32 e.measurement.toNat

/-- An entry appended for the image in control of a body, and the chain value over it. -/
def appendLog (s : State) (kind : Nat) (b : Body) : State :=
  let im := imageOf s b
  let e : LogEntry := { seq := s.dev.log.length + 1, kind := kind, body := b, schema := im.schema, tt := tt s
                        version := im.version, measurement := im.measurement }
  let c := shake256 (leBytes 32 s.dev.chain.toNat ++ entryBytes e) 32
  modDev s fun d => { d with log := d.log ++ [e], chain := BitVec.ofNat 256 (leNat c) }

/-! ### The report (R37, R39) -/

/-- The bytes a report's signature covers. -/
def reportHead (s : State) (nonce : BitVec 256) : List Byte :=
  leBytes 4 0x47514154 ++ leBytes 4 1 ++ leBytes 32 nonce.toNat ++ leBytes 4 (devStage s) ++ leBytes 4 s.dev.featAct.toNat ++
  leBytes 4 (imageOf s .controller).version.toNat ++ leBytes 4 (imageOf s .scheduler).version.toNat ++
  leBytes 4 (imageOf s .engine).version.toNat ++ leBytes 4 s.dev.log.length ++ leBytes 32 s.dev.chain.toNat ++
  leBytes 8 (tt s).toNat

/-- The signature with a one-time index: the index, and 88 values of 32 bytes that are free here. -/
def signature (idx : Nat) : List Byte := leBytes 4 idx ++ (List.range 2816).map (Config.signatureByte idx)

/-- Signatures the identity key has left. -/
def signaturesLeft (s : State) : Nat := Config.signatures - s.dev.xmssIndex

/-- A report answered, with the advanced index and, below 4,096 signatures, the event of R37; none when the key is
exhausted. -/
def attest (s : State) (nonce : BitVec 256) : Option (List Byte × State) :=
  if signaturesLeft s = 0 then none
  else
    let r := reportHead s nonce ++ signature s.dev.xmssIndex
    let s := modDev s fun d => { d with xmssIndex := d.xmssIndex + 1 }
    some (r, if signaturesLeft s < 4096 then modDev s fun d => { d with sideband := d.sideband ++ [.keyLow] } else s)

/-- The management controller has booted, so that the sideband port answers (R19, R28). -/
def sidebandUp (s : State) : Bool := s.dev.stage != .off && s.dev.stage != .booting

/-- A sideband reply sent, if the port answers; through the controller's castling pause it waits (R47). -/
def sendReply (s : State) (r : Reply) : State :=
  if !sidebandUp s then s
  else if controllerPaused s then modDev s fun d => { d with castle := { d.castle with replies := d.castle.replies ++ [r] } }
  else modDev s fun d => { d with sideband := d.sideband ++ [r] }

/-- PPS edges come over a wire of their own; every other thing that is latched is a message. -/
def isMessage : Item → Bool
  | .event _ .ppsEdge => false
  | _ => true

/-- What comes to the management controller through its castling pause is latched with its time and handled afterwards:
edges, and up to eight messages (R49). -/
def latch (s : State) (i : Instr) : State :=
  let it : Item := .event (0, 0) i
  let c := s.dev.castle
  if isMessage it && 8 ≤ (c.latched.filter fun x => isMessage x.1).length then s
  else modDev s fun d => { d with castle := { d.castle with latched := d.castle.latched ++ [(it, tt s)] } }

/-- An attestation request of the sideband port answered. -/
def attestSideband (s : State) (nonce : BitVec 256) : State :=
  if !sidebandUp s then s
  else match attest s nonce with
    | some (r, s) => sendReply s (.attest r)
    | none => sendReply s .keyExhausted

/-- ATTESTATION_REQUEST_SIDEBAND (R39). -/
def execAttestationRequestSideband (nonce : BitVec 256) (s : State) : Answer :=
  .next (if controllerPaused s then latch s (.attestationRequestSideband nonce) else attestSideband s nonce)

end Sys2Proof.Machine
end

