-- ==== Sys2Proof/Machine/Mailbox.lean ====
section
/-! DEFINITION. The outbound mailbox (R75, R76): writing a message, the reserve of firmware messages, and its faults. -/

namespace Sys2Proof.Machine

/-- Whether the mailbox is enabled: LOG2 4 to 12 and not FAULTED. -/
def mbxOn (m : Mailbox) : Bool := 4 ≤ m.log2 && m.log2 ≤ 12 && !m.faulted

/-- A 64-byte message written at MBXTAIL of an enabled mailbox, which then advances and signals (R75). -/
def writeMessage (s : State) (n : Nat) (bytes : List Byte) : Access State :=
  let m := (partOf s n).mbx
  if m.parked.isSome || 2 ^ m.log2 ≤ (m.tail - m.head).toNat || (m.host && !s.dev.linkUp) then .hold
  else
    let va := m.base + 64 * (m.tail.toNat % 2 ^ m.log2)
    match placesVia (fun a => translateRing s n m.host m.pasid a .write) va 64 with
    | .error x => failed x
    | .ok ps =>
      if hostHeld s ps then .hold else
      let s := modPart (saveAt s ps bytes) n fun p => { p with mbx := { p.mbx with tail := p.mbx.tail + 1 } }
      .done (signal s n m.vector)

/-- The mailbox is FAULTED. -/
def mbxFail (s : State) (n : Nat) : State :=
  modPart s n fun p => { p with mbx := { p.mbx with faulted := true, parked := none } }

/-- A permission fault on a message write (R75): FAULTED, and a PAGE event of code 2. -/
def mbxFault (s : State) (n : Nat) : State :=
  let m := (partOf s n).mbx
  pageEvent (mbxFail s n) 0 n 2 ((m.base + 64 * (m.tail.toNat % 2 ^ m.log2)) / 4096)

/-- The replies and the manager's tasks that packets of a queue wait for go on for no packet (R81). -/
def forgetOwed (q : Nat) (p : Part) : Part :=
  { p with
    mbx := { p.mbx with reserve := p.mbx.reserve.map fun m => { m with completes := m.completes.filter (·.1 != q) } }
    graphs := mapVals (fun _ g => if g.queue == q then { g with owed := false } else g) p.graphs }

/-- A message write that waits for a page. -/
def mbxPark (s : State) (n : Nat) (x : Xlate) : State :=
  match waitFor s n x with
  | some (page, s) => modPart s n fun p => { p with mbx := { p.mbx with parked := some page } }
  | none => s

/-- The MBOX packet of a queue that a reply completes (R76). -/
def completeMbox (s : State) (n : Nat) : Option (Nat × BitVec 32) → State
  | none => s
  | some (q, qseq) =>
    match (queueOf s n q).inFlight.find? (·.qseq == qseq) with
    | some p => completePacket s n q p
    | none => s

/-- The oldest message of the reserve written out, if the mailbox takes it. -/
def flushReserveOnce (s : State) (n : Nat) : State :=
  let m := (partOf s n).mbx
  match m.reserve with
  | [] => s
  | msg :: rest =>
    if !mbxOn m then s
    else match writeMessage s n msg.bytes with
      | .hold => s
      | .perm => mbxFault s n
      | .page x => mbxPark s n x
      | .done s => completeMbox (modPart s n fun p => { p with mbx := { p.mbx with reserve := rest } }) n msg.completes

def flushReserveTimes (s : State) (n : Nat) : Nat → State
  | 0 => s
  | k + 1 => flushReserveTimes (flushReserveOnce s n) n k

/-- The reserve written out in order as far as the mailbox takes it (R75). -/
def flushReserve (s : State) (n : Nat) : State := flushReserveTimes s n (partOf s n).mbx.reserve.length

/-- A firmware message put into the reserve of 16 (R75): with no entry free the oldest REMEASURE makes room and is
counted. -/
def reserveMessage (m : Mailbox) (msg : Message) : Mailbox :=
  if m.reserve.length < 16 then { m with reserve := m.reserve ++ [msg] }
  else match findPlace (·.remeasure) m.reserve with
    | some i => { m with reserve := dropAt m.reserve i ++ [msg], lost := satAdd m.lost 1 }
    | none => if msg.remeasure then { m with lost := satAdd m.lost 1 } else m

/-- A firmware message sent: through the reserve, at once where the mailbox takes it. -/
def postMessage (s : State) (n : Nat) (msg : Message) : State :=
  flushReserve (modPart s n fun p => { p with mbx := reserveMessage p.mbx msg }) n

/-- Replies held in the reserve, of which there are never more than 12 (R75). -/
def repliesHeld (m : Mailbox) : Nat := (m.reserve.filter fun x => !x.remeasure).length

end Sys2Proof.Machine
end

