-- ==== Sys2Proof/Machine/Packets.lean ====
section
/-! DEFINITION. Admission (R61 to R72, R75, R76, R147): each packet type at the head of its queue's order, and the end of
an activation. An event without arguments concerns the queue in hand. -/

namespace Sys2Proof.Machine

/-! ### Admission (R59, R62, R63, R69, R74) -/

/-- The packet before this one in queue order has completed (R69). -/
def chainOk (u : Queue) (p : Packet) : Bool :=
  !p.chain || p.qseq == 0 || !(u.inFlight.any (·.qseq == p.qseq - 1) || u.failed.contains (p.qseq - 1))

/-- Every packet admitted before has completed (R63, R68). -/
def allDone (u : Queue) : Bool := u.inFlight.isEmpty

/-- The packet leaves the order and is in flight; an indirect buffer whose last packet it is completes (R63, R67). -/
def admitPacket (s : State) (n q : Nat) (p : Packet) : State :=
  let s := modQueue s n q fun u => { u with
    merged := u.merged.filter (·.qseq != p.qseq), inFlight := u.inFlight ++ [p], stallAt := none, vPage := none }
  let s := queueEvent s n q p.ring 0 p.qseq
  match p.closes.bind fun k => (queueOf s n q).inFlight.find? (·.qseq == k) with
  | some ib => completePacket s n q ib
  | none => s

/-- A packet that completes at its admission. -/
def admitDone (s : State) (n q : Nat) (p : Packet) : State := completePacket (admitPacket s n q p) n q p

/-- What is done with the head of the queue in hand, when it is a packet of a type, its header is sound and its turn has
come; a head whose header faults is refused (R62), and nothing happens while the queue admits nothing. -/
def onHead (s : State) (type : Nat) (f : Nat → Nat → Packet → State) : State :=
  let (n, q) := s.hand
  let u := queueOf s n q
  if !queueGoes s n q || Config.heldCompletions ≤ u.held.length then s
  else match u.merged with
    | [] => s
    | p :: _ =>
      match headFault s p with
      | some (code, detail) => packetFault s n q p code detail
      | none => if p.type = type && chainOk u p then f n q p else s

/-- BAD_PACKET at a body offset (R62). -/
def badPacket (s : State) (n q : Nat) (p : Packet) (off : Nat) : State := packetFault s n q p 0x33 off

/-! ### QBAR, NOPK, IB -/

/-- QBAR (R63): after every earlier packet has completed. -/
def execQbar (s : State) : Answer :=
  .next (onHead s 8 fun n q p => match nonzeroAt p 0 56 with
    | some k => badPacket s n q p k
    | none => if allDone (queueOf s n q) then admitDone s n q p else s)

/-- NOPK (R63). -/
def execNopk (s : State) : Answer :=
  .next (onHead s 10 fun n q p => match nonzeroAt p 0 56 with
    | some k => badPacket s n q p k
    | none => admitDone s n q p)

/-- IB (R67): the packet at the head is admitted, or faults; otherwise the merge reads the next packet of the indirect
buffer it is in. -/
def execIb (s : State) : Answer :=
  let (n, q) := s.hand
  let u := queueOf s n q
  match u.merged with
  | p :: _ =>
    if p.type = 4 then .next (onHead s 4 fun n q p => match ibFault p with
      | some (code, detail) => packetFault s n q p code detail
      | none => admitPacket s n q p)
    else .next (if queueGoes s n q then readIb s n q u.mergeAt else s)
  | [] => .next (if queueGoes s n q then readIb s n q u.mergeAt else s)

/-! ### INJECT (R64, R65, R70) -/

/-- The launch entries IMASK names. -/
def launchSet (p : Packet) : List Nat := (List.range 16).filter (bit (p.field 2 2))

/-- A handle that no packet can name: out of range (R64, R66). -/
def badHandle (h : Nat) : Bool := h = 0 || 255 < h

/-- What is wrong with the body of an INJECT of a loaded graph: the first bad field (R65, R73) is IMASK, then NARG, then the zero
bytes. -/
def launchFault (g : GraphConfig) (p : Packet) : Option Nat :=
  let unfit (j : Nat) : Bool := match g.launch[j]? with | none => true | some l => 3 ≤ l.fmt
  let beyond (j : Nat) : Bool := match g.launch[j]? with | none => false | some l => p.field 4 1 ≤ l.arg + l.len
  if (launchSet p).any unfit then some 2
  else if 8 < p.field 4 1 || (launchSet p).any beyond then some 4
  else (nonzeroAt p 5 8).or (nonzeroAt p 40 56)

/-- The token a launch entry sends. -/
def launchToken (s : State) (n : Nat) (root : Tag) (pl : Placement) (p : Packet) (l : Launch) : Token :=
  { fmt := fmtOf l.fmt, mask := lowMask (l.len + 1), tag := root, ctx := n, v := pl.v
    lanes := (List.range (l.len + 1)).map fun k => BitVec.ofNat 32 (p.field (8 + 4 * (l.arg + k)) 4)
    floor := if clusterDie pl.cluster = 1 then tt s + 1 else 0 }

/-- A launch token on its way to its target. -/
def sendLaunch (n : Nat) (root : Tag) (pl : Placement) (p : Packet) (s : State) (l : Launch) : State :=
  let el := elemAt pl.cluster (pl.x0 + l.x) (pl.y0 + l.y)
  { s with net := s.net ++ [{ tok := launchToken s n root pl p l, dest := .slot el l.slot l.field .keep false, src := el }] }

/-- The placement of a graph in regions that a queue holds and that run (R110); a stage that is swapped out has one, and
its tokens are parked as they arrive (R117). -/
def readyPlace (s : State) (n q h : Nat) : Option Placement :=
  let g := graphOf s n h
  g.places.find? fun p => (regionsUnder g.config p).all fun r =>
    (regionOf s r).owner == n && (regionOf s r).queue == q && (regionOf s r).state == .run

/-- A queue's head stalls on a tag from now on (R70). -/
def noteStall (s : State) (n q : Nat) : State :=
  modQueue s n q fun u => if u.stallAt.isSome then u else { u with stallAt := some (tt s) }

/-- An acquire at SYS by the regions of a placement (R70, R92). -/
def acquirePlace (s : State) (g : GraphConfig) (p : Placement) : State := (regionsUnder g p).foldl (fun s r => acquire s r 3) s

/-- The INJECT of a loaded graph: it waits for a placement and for a tag; then its activation begins, with an acquire at SYS by the
regions it is placed in (R70). -/
def launch (s : State) (n q : Nat) (p : Packet) (h : Nat) : State :=
  match readyPlace s n q h with
  | none => s
  | some pl =>
    match newTag s n fun u => { alloc := true, link := u, head := u, root := some u } with
    | none => noteStall s n q
    | some (root, s) =>
      let a : Activation := { root := root, queue := q, qseq := p.qseq, hdrSeq := p.hdrSeq, ring := p.ring, irq := p.irq, handle := h }
      let s := modPart (admitPacket s n q p) n fun x => { x with acts := x.acts ++ [a] }
      let s := acquirePlace s (graphOf s n h).config pl
      ((launchSet p).filterMap fun j => (graphOf s n h).config.launch[j]?).foldl (sendLaunch n root pl p) s

/-- INJECT (R64 to R66, R70). -/
def execInject (s : State) : Answer :=
  .next (onHead s 1 fun n q p =>
    let h := p.field 0 2
    let g := graphOf s n h
    if badHandle h then badPacket s n q p 0
    else match g.life with
      | .free => badPacket s n q p 0
      | .evicting => badPacket s n q p 0
      | .loading => s
      | .loaded => match launchFault g.config p with
        | some k => badPacket s n q p k
        | none => launch s n q p h)

/-! ### The end of an activation (R72) -/

/-- Live tokens over all the tags of an activation; a fault of one that the FGE has not taken counts with them
(notes/assumptions/11). -/
def liveOf (s : State) (n : Nat) (root : Tag) : Nat :=
  let owned (t : Tag) : Bool := (tagInfo s n t).root == some root
  ((liveTags s n).filter owned).length + (s.faults.filter fun f => f.part == n && f.tag.any owned).length

/-- The die whose detector finds an activation quiescent: that of its queue's first region. -/
def quietDie (s : State) (n q : Nat) : Nat := regionDie ((regionsOf s n q).headD 0)

/-- The FGE takes a quiescent activation: once its stores have performed at SYS its tags are freed, and its record follows. -/
def endActivation (s : State) (n : Nat) (a : Activation) : State :=
  match releaseQueue s n a.queue with
  | some s => endPacket (dropActivation s n a.root) n a.queue (actPacket a) 0 a.root a.discard 0 true
  | none => s

/-- An activation that is quiescent goes to the FGE through the FIFO of its die's detector, which holds 256 entries; when that
is full it waits in its region (R103). The FGE takes the entries in order, while it is not paused. -/
def quiesce (s : State) (n : Nat) (root : Tag) : State :=
  match (partOf s n).acts.find? (·.root == root) with
  | none => s
  | some a =>
    if liveOf s n root != 0 then s
    else
      let die := quietDie s n a.queue
      let entry := (die, n, root)
      let mine := s.fge.quiet.filter (·.1 == (match s.fge.quiet.find? (·.2 == (n, root)) with | some x => x.1 | none => die))
      if s.fge.quiet.any (·.2 == (n, root)) then
        if !fgePaused s && (mine.head?).any (·.2 == (n, root)) then endActivation s n a else s
      else if !fgePaused s && mine.isEmpty then endActivation s n a
      else if mine.length < Config.faultFifoEntries then { s with fge := { s.fge with quiet := s.fge.quiet ++ [entry] } }
      else s

/-- ACTIVATION_QUIESCENT (R72). -/
def execActivationQuiescent (n : Nat) (root : BitVec 16) (s : State) : Answer := .next (quiesce s n root)

/-! ### RESIDE and EVICT (R66) -/

/-- RESIDE (R66): the handle is live, and its manager's load begins. -/
def execReside (s : State) : Answer :=
  .next (onHead s 2 fun n q p =>
    let h := p.field 0 2
    let bad := if badHandle h || (graphOf s n h).life != .free then some 0
      else (nonzeroAt p 2 8).or (if p.field 8 8 % 64 != 0 then some 8 else nonzeroAt p 20 56)
    match bad with
    | some k => badPacket s n q p k
    | none => modGraph (admitPacket s n q p) n h fun _ =>
        { life := .loading, queue := q, qseq := p.qseq, owed := true, addr := p.field 8 8, size := p.field 16 4 })

/-- EVICT (R66): the handle admits no more; one still being loaded is waited for, and one that is not live is BAD_PACKET with
DETAIL 0, which R66 says of an INJECT (both are the model's choice: notes/assumptions/11). -/
def execEvict (s : State) : Answer :=
  .next (onHead s 3 fun n q p =>
    let h := p.field 0 2
    let dead := (graphOf s n h).life == .free || (graphOf s n h).life == .evicting
    match (if badHandle h || dead then some 0 else nonzeroAt p 2 56) with
    | some k => badPacket s n q p k
    | none =>
      if (graphOf s n h).life == .loading then s
      else modGraph (admitPacket s n q p) n h fun g => { g with life := .evicting, queue := q, qseq := p.qseq, owed := true })

/-! ### WAITV and WRITEV (R68) -/

/-- What is wrong with a body whose OP is at most `top`. -/
def valueFault (p : Packet) (top : Nat) : Option Nat :=
  if p.field 0 8 % 8 != 0 then some 0
  else if top < p.field 16 1 then some 16
  else if 1 < p.field 17 1 then some 17
  else if 2 ^ 20 ≤ p.field 18 3 || (p.field 17 1 = 0 && p.field 18 3 != 0) then some 18
  else nonzeroAt p 21 56

/-- The address of a WAITV or WRITEV translated for its eight bytes. -/
def valuePlaces (s : State) (n : Nat) (p : Packet) (u : Use) : Except Xlate (List Place) :=
  placesVia (fun a => translateRing s n (bit (p.field 17 1) 0) (bits (p.field 18 3) 19 0) a u) (p.field 0 8) 8

/-- A translation that does not give a place: the packet waits for the page, or faults RING_FAULT. -/
def valueStops (s : State) (n q : Nat) (p : Packet) (x : Xlate) : State :=
  match waitFor s n x with
  | some (page, s) => modQueue s n q fun u => { u with vPage := some page }
  | none => packetFault s n q p 0x32 p.ring

/-- The comparison of a WAITV. -/
def compares (op value cur : Nat) : Bool :=
  match op with
  | 0 => value ≤ cur
  | 1 => cur == value
  | _ => cur != value

/-- The head WAITV reads its address: it completes where the comparison holds, and waits otherwise. -/
def waitValue (s : State) : State :=
  onHead s 5 fun n q p => match valueFault p 2 with
    | some k => badPacket s n q p k
    | none =>
      if (queueOf s n q).vPage.isSome then s
      else match valuePlaces s n p .read with
        | .error x => valueStops s n q p x
        | .ok ps =>
          if hostHeld s ps then s else
          let cur := leNat (ps.flatMap fun a => load s a 1)
          if compares (p.field 16 1) (p.field 8 8) cur then
            admitDone ((regionsOf s n q).foldl (fun s r => acquire s r 3) s) n q p
          else s

/-- WAITV (R68): with the acquire that it performs at SYS. -/
def execWaitv (s : State) : Answer := .next (waitValue s)

/-- WAITV_REREAD (R68): at least every microsecond. -/
def execWaitvReread (s : State) : Answer := .next (waitValue s)

/-- The queues with a WAITV at their head. -/
def waitingQueues (s : State) : List (Nat × Nat) :=
  s.parts.flatMap fun p => (p.2.queues.filter fun u => (u.2.merged.head?).any (·.type = 5)).map fun u => (p.1, u.1)

/-- A queue's WAITV waits on one of some places. -/
def waitsOn (s : State) (ps : List Place) (x : Nat × Nat) : Bool :=
  ((queueOf s x.1 x.2).merged.head?).any fun p => match valuePlaces s x.1 p .read with
    | .ok qs => qs.any ps.contains
    | .error _ => false

/-- A WRITEV has performed to some places: every WAITV of the device that waits on one of them reads it again (R68). -/
def rereadAt (s : State) (ps : List Place) : State :=
  let s' := ((waitingQueues s).filter (waitsOn s ps)).foldl (fun s x => waitValue { s with hand := x }) s
  { s' with hand := s.hand }

/-- WRITEV (R68): once every earlier packet has completed, and a release at SYS is done, VALUE is stored or added. -/
def execWritev (s : State) : Answer :=
  .next (onHead s 6 fun n q p => match valueFault p 1 with
    | some k => badPacket s n q p k
    | none =>
      if !allDone (queueOf s n q) || (queueOf s n q).vPage.isSome then s
      else match valuePlaces s n p (if p.field 16 1 = 0 then .write else .atomic), releaseQueue s n q with
        | .error x, _ => valueStops s n q p x
        | .ok _, none => s
        | .ok ps, some s =>
          if hostHeld s ps then s else
          let old := leNat (ps.flatMap fun a => load s a 1)
          let new := if p.field 16 1 = 0 then p.field 8 8 else old + p.field 8 8
          rereadAt (admitDone (saveAt s ps (leBytes 8 new)) n q p) ps)

/-! ### MBOX (R75, R76) -/

/-- A reply of 64 bytes that completes its MBOX packet when it is written. -/
def replyMessage (q : Nat) (p : Packet) (bs : List Byte) : Message :=
  { bytes := bs ++ List.replicate (64 - bs.length) 0, remeasure := false, completes := some (q, p.qseq) }

/-- An MBOX whose reply finds fewer than 12 replies held is handled. -/
def mboxRoom (s : State) (n : Nat) : Bool := repliesHeld (partOf s n).mbx < 12

/-- MBOX_ECHO (R76): the body's 54 bytes in a reply of type 0x0005. An MBOX of a type that is not defined is refused. -/
def execMboxEcho (s : State) : Answer :=
  .next (onHead s 7 fun n q p =>
    if p.field 0 2 = 2 then s
    else if p.field 0 2 != 4 then badPacket s n q p 0
    else if !mboxRoom s n then s
    else postMessage (admitPacket s n q p) n
      (replyMessage q p (leBytes 2 5 ++ leBytes 4 p.qseq.toNat ++ (p.bytes.drop 10).take 54)))

/-- The reply to an attestation request: status and report length. -/
def attestReply (q : Nat) (p : Packet) (status len : Nat) : Message :=
  replyMessage q p (leBytes 2 3 ++ leBytes 2 status ++ leBytes 4 len ++ leBytes 4 p.qseq.toNat)

/-- An attestation request handled: the report is written at the address given, then the reply. A page that is not present
holds the request; a permission fault faults PERM, once (notes/assumptions/12). -/
def attestPacket (s : State) (n q : Nat) (p : Packet) : State :=
  match attest s (BitVec.ofNat 256 (p.field 8 32)) with
  | none => postMessage (admitPacket s n q p) n (attestReply q p 1 0)
  | some (report, s') =>
    match placesVia (fun a => translate s 0 n a .write) (p.field 40 8) report.length with
    | .ok ps => if hostHeld s ps then s else postMessage (admitPacket (saveAt s' ps report) n q p) n (attestReply q p 0 report.length)
    | .error x => match waitFor s n x with
      | some (page, s) => modQueue s n q fun u => { u with vPage := some page }
      | none =>
        let f : FaultTok := { code := 0x11, part := n, tag := none, queue := some q }
        if s.faults.contains f then s else raise s f

/-- MBOX_ATTEST_REQUEST (R76). -/
def execMboxAttestRequest (s : State) : Answer :=
  .next (onHead s 7 fun n q p =>
    if p.field 0 2 = 4 then s
    else if p.field 0 2 != 2 then badPacket s n q p 0
    else
      let bad := (nonzeroAt p 2 8).or (if p.field 40 8 % 8 != 0 then some 40 else nonzeroAt p 48 56)
      match bad with
      | some k => badPacket s n q p k
      | none => if !mboxRoom s n || (queueOf s n q).vPage.isSome then s else attestPacket s n q p)

/-! ### TRACECTL (R147) -/

/-- What is wrong with a TRACECTL's body. -/
def tracectlFault (s : State) (p : Packet) : Option Nat :=
  let mode := p.field 5 1
  if 15 < p.field 4 1 then some 4
  else if 3 ≤ mode || (mode = 1 && !featOn s 10) then some 5
  else if 8 < p.field 6 1 then some 6
  else if p.field 7 1 != 0 then some 7
  else match (List.range 8).find? fun k => bits (p.field (8 + 4 * k) 4) 31 26 != 0 with
    | some k => some (8 + 4 * k)
    | none => nonzeroAt p 40 56

/-- A source filter entry of a TRACECTL (R144, R147). -/
def packetSource (p : Packet) (k : Nat) : TrSrc :=
  let w := p.field (8 + 4 * k) 4
  if k < p.field 6 1 then
    { base := bits w 11 0, limit := bits w 23 12, die := bits w 24 24, anyDie := bit w 25, en := true }
  else {}

/-- The class mask as it is stored: bits 16 to 19 read 1 (R144). -/
def classMask (m : Nat) : BitVec 32 := BitVec.ofNat 32 m ||| 0x000F0000#32

/-- The filter a TRACECTL sets. -/
def setFilter (p : Packet) (g : TraceRing) : TraceRing :=
  { g with
    cls := classMask (p.field 0 4), sampk := p.field 4 1
    lossless := if p.field 5 1 = 2 then g.lossless else p.field 5 1 == 1
    src := (List.range 8).map fun k => (k, packetSource p k) }

/-- TRACECTL (R147). -/
def execTracectl (s : State) : Answer :=
  .next (onHead s 9 fun n q p => match tracectlFault s p with
    | some k => badPacket s n q p k
    | none =>
      let s := admitPacket s n q p
      let old := ringAt s n
      let s := ringEvent (modPart s n fun x => { x with trace := setFilter p x.trace }) n 3 0
      completePacket (endStall (nowForced s n old) n) n q p)

/-! ### Tag stalls (R70, R92, R182) -/

/-- 10 ms of trace time. -/
def tenMs : Nat := 10000 * 16000

/-- A tag stall has lasted 10 ms. -/
def stalledLong (s : State) (start : Option DWord) : Bool := start.any fun t => tenMs ≤ (tt s - t).toNat

/-- A queue has waited 10 ms for a tag with none freed, at its head or in a firing (R70, R182): it goes to rung 3 with
TAG_STALL, and an INJECT that waits at its head receives the record too. Nothing counts while the trace ring holds the
partition. -/
def queueTagStall (s : State) (n q : Nat) : State :=
  let u := queueOf s n q
  if fgePaused s || (!(stalledLong s u.stallAt && queueGoes s n q) && !stalledLong s u.fireStallAt) then s
  else
    let s := faultEvent s n 0x23 0 0
    let s' := toRung3 s n q 0x23 (if stalledLong s u.fireStallAt then u.fireStallPos else 0)
    match u.merged with
    | p :: _ => if u.stallAt.isSome && p.type = 1 && (headFault s p).isNone then endPacket s' n q p 0x23 0 0 0 false else s'
    | [] => s'

/-! ### The mailbox registers (R75, R408) -/

/-- MBXHEAD written: held messages go out as there is room. -/
def setMbxHead (s : State) (n : Nat) (v : BitVec 32) : State :=
  flushReserve (modPart s n fun p => { p with mbx := { p.mbx with head := v } }) n

/-- MBXHEAD_WRITE (R408). -/
def execMbxheadWrite (n : Nat) (v : BitVec 32) (s : State) : Answer := .next (setMbxHead s n v)

/-- MBXCTL written: the mailbox is configured, FAULTED cleared, and the reserve goes out as the mailbox allows. -/
def setMbxCtl (s : State) (n : Nat) (v : Nat) : State :=
  flushReserve (modPart s n fun p => { p with mbx := { p.mbx with
    log2 := bits v 3 0, pasid := bits v 23 4, host := bit v 24, faulted := false, vector := bits v 42 32 } }) n

/-- MBXCTL_WRITE (R75). -/
def execMbxctlWrite (n : Nat) (v : BitVec 64) (s : State) : Answer := .next (setMbxCtl s n v.toNat)

end Sys2Proof.Machine
end

