-- ==== Sys2Proof/Machine/Load.lean ====
section
/-! DEFINITION. The manager's Load (R105, R191, R192, R325 to R348): reading a GQX image through the partition's
translation, the checks of R336 in their order, the configuration that is kept, and the end of its RESIDE. -/

namespace Sys2Proof.Machine

/-- Why a load does not come to its end: a failure with its DETAIL, or a translation that stops it. -/
inductive LoadStop where
  | bad (detail : Nat) | stop (x : Xlate)
  deriving DecidableEq, Repr

/-- A failure unless a check holds. -/
def need (ok : Bool) (detail : Nat) : Except LoadStop Unit := if ok then .ok () else .error (.bad detail)

/-- A field of `n` bytes at an offset. -/
def fieldAt (bs : List Byte) (off n : Nat) : Nat := leNat ((bs.drop off).take n)

def zeros (bs : List Byte) : Bool := bs.all (· == 0)

/-- DETAIL of a failure that belongs to no element, record or template (R336). -/
def placeDetail (y code : Nat) : Nat := 0xFF + 2 ^ 8 * y + 2 ^ 16 * code

/-- An index as y holds it. -/
def clampY (k : Nat) : Nat := min k 254

def headerDetail : Nat := placeDetail 0xFF 0xF

/-- DETAIL of an element's entry (R336). -/
def elemDetail (e : ElemTab) (slot table : Nat) : Nat := e.x + 2 ^ 8 * e.y + 2 ^ 16 * slot + 2 ^ 24 * table

/-! ### The container (R338, R339) -/

/-- An image as the manager's Load reads it (R348): the partition, its address, and the bytes it has read before, by offset. -/
structure Image where
  part : Nat
  addr : Nat
  kept : Sparse Byte
  deriving DecidableEq, Repr

/-- A byte of the image: as it was read before, or read now. A place of the host holds it while the link is down (R24). -/
def imageByte (s : State) (m : Image) (off : Nat) : Except Xlate Byte :=
  match m.kept.find? (·.1 == off) with
  | some x => .ok x.2
  | none => match translate s 0 m.part (m.addr + off) .read with
    | .at p => if hostHeld s [p] then .error (.at p) else .ok ((load s p 1).headD 0)
    | x => .error x

/-- Bytes of the image read by the manager. -/
def imageBytes (s : State) (m : Image) (off : Nat) : Nat → Except LoadStop (List Byte)
  | 0 => .ok []
  | len + 1 => match imageByte s m off with
    | .error x => .error (.stop x)
    | .ok b => (imageBytes s m (off + 1) len).map (b :: ·)

/-- The image with the bytes of a range kept, as far as they can be read; whether all could. -/
def keepRange (s : State) : Nat → Nat → Image → Image × Bool
  | _, 0, m => (m, true)
  | off, len + 1, m => match imageByte s m off with
    | .error _ => (m, false)
    | .ok b => keepRange s (off + 1) len { m with kept := store m.kept off b }

/-- The bytes of ranges kept, in order, up to the first that cannot be read. -/
def keepRanges (s : State) : List (Nat × Nat) → Image → Image
  | [], m => m
  | x :: xs, m => match keepRange s x.1 x.2 m with
    | (m, true) => keepRanges s xs m
    | (m, false) => m

/-- The header's checks. -/
def headerOk (h : List Byte) (size : Nat) : Bool :=
  let w := fieldAt h 16 1
  let ht := fieldAt h 17 1
  let nset := fieldAt h 20 1
  let scopes := fieldAt h 32 16
  fieldAt h 0 4 == 0x585147 && fieldAt h 4 2 == 1 && fieldAt h 6 2 == 9 && fieldAt h 8 4 == size && zeros ((h.drop 12).take 4) &&
  1 ≤ w && w ≤ 32 && 1 ≤ ht && ht ≤ 16 && fieldAt h 18 1 ≤ 56 && nset ≤ 64 && fieldAt h 21 1 == 0 &&
  1 ≤ fieldAt h 22 2 && fieldAt h 22 2 ≤ w * ht && zeros ((h.drop 28).take 4) && scopes < 4 ^ nset &&
  (List.range nset).all (fun i => bits scopes (2 * i + 1) (2 * i) != 3) && zeros ((h.drop 48).take 16)

/-- A section of the table. -/
structure Section where
  off   : Nat
  size  : Nat
  count : Nat
  deriving DecidableEq, Repr

/-- Item size and COUNT limit of a section; 0 is no limit. -/
def sectionItem : Nat → Nat × Nat
  | 0 => (72, 0) | 1 => (68, 0) | 2 => (268, 0) | 3 => (36, 0) | 4 => (64, 4096) | 5 => (64, 64) | 6 => (1, 0)
  | 7 => (8, 16) | _ => (48, 65535)

/-- The numbers of entry `i`, which follows a section that ends at `cur`, satisfy R339. -/
def entryOk (i nelem cur total : Nat) (ident : Nat) (x : Section) : Bool :=
  let (item, limit) := sectionItem i
  ident == i && x.off == roundUp cur 64 && x.off + x.size ≤ total &&
  (if i == 7 then (if x.count == 0 then x.size == 0 || x.size == 8 else x.size == 8 + 8 * x.count) else x.size == item * x.count) &&
  (if i < 4 then x.count == nelem else limit == 0 || x.count ≤ limit) && (i != 8 || x.off + x.size == total)

/-- Entries `i` on of the section table, each with the bytes before its section. -/
def sections (s : State) (m : Image) (table : List Byte) (nelem total : Nat) : Nat → Nat → Nat →
    Except LoadStop (List Section)
  | 0, _, _ => .ok []
  | fuel + 1, i, cur =>
    let e := table.drop (16 * i)
    let x : Section := ⟨fieldAt e 4 4, fieldAt e 8 4, fieldAt e 12 4⟩
    do
      need (entryOk i nelem cur total (fieldAt e 0 4) x) (placeDetail i i)
      let gap ← imageBytes s m cur (x.off - cur)
      need (zeros gap) (placeDetail i i)
      let rest ← sections s m table nelem total fuel (i + 1) (x.off + x.size)
      .ok (x :: rest)

/-! ### Blocks (R340, R341) -/

/-- The nonzero entries of a table in a block. -/
def tableOf (w : Nat) (bs : List Byte) (off size k : Nat) : Sparse (BitVec w) :=
  (List.range k).filterMap fun i =>
    let v := fieldAt bs (off + size * i) size
    if v = 0 then none else some (i, BitVec.ofNat w v)

/-- An element from its four blocks. -/
def elemOfBlocks (g l r a : List Byte) : ElemTab :=
  { x := fieldAt g 0 1, y := fieldAt g 1 1
    slots := tableOf 32 g 8 4 16, lits := tableOf 32 l 4 4 16, routes := tableOf 32 r 12 4 64, attrs := tableOf 16 a 4 2 16
    hotSlots := BitVec.ofNat 16 (fieldAt g 4 2), hotLits := BitVec.ofNat 16 (fieldAt l 2 2)
    hotRoutes := BitVec.ofNat 64 (fieldAt r 4 8), hotAttrs := BitVec.ofNat 16 (fieldAt a 2 2) }

/-- Place of an element in the ascending order of blocks. -/
def blockOrder (e : ElemTab) : Nat := 256 * e.y + e.x

/-- The blocks of the four sections as elements, with SLOTS of each, checked in order. -/
def blocks (w h : Nat) : Nat → Option Nat → List (List Byte) → List (List Byte) → List (List Byte) → List (List Byte) →
    Except LoadStop (List (ElemTab × Nat))
  | k, prev, g :: gs, l :: ls, r :: rs, a :: as => do
    let e := elemOfBlocks g l r a
    need (e.x < w && e.y < h && (match prev with | some p => decide (p < blockOrder e) | none => true) && zeros ((g.drop 6).take 2))
      (placeDetail (clampY k) 0)
    need (l.take 2 == g.take 2) (placeDetail (clampY k) 1)
    need (r.take 2 == g.take 2 && zeros ((r.drop 2).take 2)) (placeDetail (clampY k) 2)
    need (a.take 2 == g.take 2) (placeDetail (clampY k) 3)
    let rest ← blocks w h (k + 1) (some (blockOrder e)) gs ls rs as
    .ok ((e, fieldAt g 2 2) :: rest)
  | _, _, _, _, _, _ => .ok []

/-! ### Elements (R328 to R335, R340 to R342) -/

def slotWord (e : ElemTab) (n : Nat) : Nat := (lookup 0 e.slots n).toNat
def litWord (e : ElemTab) (k : Nat) : Nat := (lookup 0 e.lits k).toNat
def rtWord (e : ElemTab) (k : Nat) : Nat := (lookup 0 e.routes k).toNat
def attrWord (e : ElemTab) (n : Nat) : Nat := (lookup 0 e.attrs n).toNat

/-- The fields a word's instruction reads, the trigger included (R170). -/
def wordFields (w : Nat) : List Nat :=
  match opInfo (bits w 31 24) with
  | some i => readFields i ⟨bits w 31 24, bits w 23 20, bits w 19 16, 0, 0, 0⟩
  | none => [0]

/-- Token fields a word's instruction names. -/
def wordNamed (w : Nat) : List Nat :=
  match opInfo (bits w 31 24) with
  | some i => namedFields i ⟨bits w 31 24, bits w 23 20, bits w 19 16, 0, 0, 0⟩
  | none => []

/-- What the checks of one element read of the whole image. -/
structure ImageView where
  w     : Nat
  h     : Nat
  nset  : Nat
  nrec  : Nat
  elems : List ElemTab
  chans : List (Nat × Nat × Nat)

/-- The element of a footprint position. -/
def ImageView.at (v : ImageView) (x y : Int) : Option ElemTab := v.elems.find? fun e => (e.x : Int) == x && (e.y : Int) == y

/-- Whether a route entry is well formed and leads somewhere (R328, R329, R335). -/
def routeOk (v : ImageView) (e : ElemTab) (r : Nat) : Bool :=
  let kind := bits r 30 28
  let dx := bits r 27 22
  if 6 ≤ kind || bits r 10 9 == 3 || bits r 12 11 == 3 || bits r 8 0 != 0 then false
  else if kind == 0 then
    dx != 32 && bits r 21 17 != 16 &&
    (match v.at ((e.x : Int) + signed 6 dx) ((e.y : Int) + signed 5 (bits r 21 17)) with
     | none => false
     | some t =>
       let slot := bits r 16 13
       slotWord t slot != 0 && (wordFields (slotWord t slot)).contains (bits r 12 11) &&
         !(bits r 12 11 == 0 && bit (attrWord t slot) 0))
  else
    bits r 21 11 == 0 &&
    (match kind with | 1 => dx ≤ 10 | 2 => dx ≤ 5 | 3 => dx ≤ 23 | 4 => dx < v.nset | _ => dx == 0)

/-- Opcodes whose operand B is a record word (R393, R409). -/
def recordOp (op : Nat) : Bool := (0x84 ≤ op && op ≤ 0x90) || op == 0xAA

/-- A literal that stands as a record word: bits no opcode gives a meaning are zero, and a record named exists. -/
def recordLitOk (op nrec v : Nat) : Bool :=
  let atomic := 0x86 ≤ op && op ≤ 0x8D
  bits v 28 12 == 0 && (atomic || !(bit v 31 || bit v 29)) && (op == 0x87 || op == 0x88 || !bit v 30) &&
  (bit v 31 || bits v 11 0 < nrec)

/-- Literals a word names (R342). -/
def namedLits (w : Nat) : List Nat :=
  (firingEntries false 0 w).filterMap fun x => match x with | .lit _ k => some k | _ => none

/-- Route entries a used slot names (R342). -/
def namedRoutes (e : ElemTab) (n : Nat) : List Nat :=
  let w := slotWord e n
  if w = 0 then []
  else ((firingEntries false n w).filterMap fun x => match x with | .route _ k => some k | _ => none) ++
    ([bits (attrWord e n) 7 2].filter (· != 0))

/-- A word's own check (R335). -/
def wordOk (w : Nat) : Bool :=
  match decode (BitVec.ofNat 32 w) with
  | .ok _ => true
  | .error .destination => bits w 31 24 == 0xA6
  | .error _ => false

/-- A word's literals (R332, R335, R393). -/
def litsOk (v : ImageView) (e : ElemTab) (w : Nat) : Bool :=
  let op := bits w 31 24
  let b := bits w 19 16
  if !(opInfo op).any (·.readsB) || b < 8 then true
  else
    (!isCommand op || bits (litWord e b) 31 24 == 0) && (!recordOp op || recordLitOk op v.nrec (litWord e b))

/-- A slot's route entries (R173, R332, R335, R392, R403, R405). -/
def routesOk (v : ImageView) (e : ElemTab) (n : Nat) : Bool :=
  let w := slotWord e n
  let op := bits w 31 24
  let d0 := bits w 15 10
  let d1 := bits w 9 4
  let conv := bits (attrWord e n) 7 2
  let kind (k : Nat) := bits (rtWord e k) 30 28
  let unit (k : Nat) := k == 2 || k == 4
  let needed := if isPortOp op then some 2 else if isSetOp op then some 4 else none
  ([d0, d1, if isCommand op then 48 + n else 0].all fun k => k == 0 || (bit (rtWord e k) 31 && routeOk v e (rtWord e k))) &&
  (match needed with
   | some k => d1 != 0 && kind d1 == k
   | none => d1 == 0 || !unit (kind d1)) &&
  (d0 == 0 || !unit (kind d0)) &&
  !(op == 0xA6 && (d0 != 0 || d1 != 0)) &&
  (!isCommand op || (kind (48 + n) == 1 && portAccepts (bits (rtWord e (48 + n)) 27 22) op)) &&
  (conv == 0 || !bit (rtWord e conv) 31 || (routeOk v e (rtWord e conv) && !unit (kind conv)))

/-- A used slot's attribute (R331, R386, R388). -/
def attrOk (v : ImageView) (e : ElemTab) (n : Nat) : Bool :=
  let w := slotWord e n
  let op := bits w 31 24
  let a := attrWord e n
  let conv := bits a 7 2
  let r := rtWord e conv
  let named := wordNamed w
  bits a 15 8 != 0 &&
  (named.isEmpty || (match opInfo op with | some i => BitVec.ofNat 8 (bits a 15 8) &&& ~~~i.facc == 0 | none => false)) &&
  (conv == 0 || (bit r 31 && !(bits r 30 28 == 0 && bits r 27 17 == 0 && bits r 16 13 == n))) &&
  (!bit a 0 || (v.chans.contains (e.x, e.y, n) && (wordFields w).contains 0 && !bit a 1)) &&
  !((op == 0x75 || op == 0x76) && bit a 1) && (op != 0x77 || bit a 1)

/-- A slot of an element, in the order of R336. -/
def checkSlot (v : ImageView) (e : ElemTab) (n : Nat) : Except LoadStop Unit :=
  let w := slotWord e n
  if w = 0 then need (attrWord e n == 0) (elemDetail e n 3)
  else do
    need (wordOk w) (elemDetail e n 0)
    need (litsOk v e w) (elemDetail e n 1)
    need (routesOk v e n) (elemDetail e n 2)
    need (attrOk v e n) (elemDetail e n 3)

/-- Literals, and route entries, that the used slots of an element name. -/
def usedLits (e : ElemTab) : List Nat := (List.range 16).flatMap fun n => if slotWord e n = 0 then [] else namedLits (slotWord e n)
def usedRoutes (e : ElemTab) : List Nat := (List.range 16).flatMap (namedRoutes e)

/-- A HOT set lies within the entries a test names. -/
def hotWithin {w : Nat} (hot : BitVec w) (used : Nat → Bool) : Bool := (List.range w).all fun k => !hot.getLsbD k || used k

/-- An element: its slots, its block fields, and the entries no slot names. -/
def checkElem (v : ImageView) (x : ElemTab × Nat) : Except LoadStop Unit := do
  let e := x.1
  let slot (n : Nat) := slotWord e n != 0
  (List.range 16).forM (checkSlot v e)
  need ((List.range 16).all fun n => bit x.2 n == slot n) (elemDetail e 0xF 0)
  need (hotWithin e.hotSlots slot) (elemDetail e 0xF 0)
  need (hotWithin e.hotLits (usedLits e).contains) (elemDetail e 0xF 1)
  need (hotWithin e.hotRoutes (usedRoutes e).contains) (elemDetail e 0xF 2)
  need (hotWithin e.hotAttrs slot) (elemDetail e 0xF 3)
  need (e.lits.all fun l => (usedLits e).contains l.1) (elemDetail e 0xF 1)
  need (e.routes.all fun r => (usedRoutes e).contains r.1) (elemDetail e 0xF 2)

/-! ### Records (R191, R192, R343) -/

/-- The fields of a record, its BASE resolved; OOBCNT and TICKET start at 0. -/
def recOfBytes (addr dataOff : Nat) (b : List Byte) : Rec :=
  let raw := fieldAt b 0 8
  { base := if bits raw 63 62 = 1 then addr + dataOff + bits raw 31 0 else bits raw 61 0
    fmt := fmtOf (fieldAt b 8 1), w := fieldAt b 9 1, rights := BitVec.ofNat 8 (fieldAt b 10 1), ndim := fieldAt b 11 1
    space := fieldAt b 12 1, pasid := fieldAt b 13 3
    ext := (List.range 4).map fun d => fieldAt b (16 + 4 * d) 4, str := (List.range 3).map fun d => fieldAt b (32 + 4 * d) 4
    tile := (List.range 4).map fun d => fieldAt b (44 + 2 * d) 2, srec := fieldAt b 52 2 }

/-- Elements of a record over its dimensions. -/
def recElements (r : Rec) : Nat := ((List.range r.ndim).map fun d => r.ext.getD d 0).foldl (· * ·) 1

/-- Companion elements a record needs (R192). -/
def scalesNeeded (r : Rec) : Nat :=
  (r.ext.getD 0 0 + r.w - 1) / r.w * ((List.range (r.ndim - 1)).map fun d => r.ext.getD (d + 1) 0).foldl (· * ·) 1

/-- A record of the pool satisfies R192, and its relocation is one that resolves. -/
def recordOk (pool : List Rec) (b : List Byte) (r : Rec) : Bool :=
  let raw := fieldAt b 0 8
  (bits raw 63 62 == 0 || (bits raw 63 62 == 1 && bits raw 61 32 == 0)) && r.base < 2 ^ 57 && r.base % 4 == 0 &&
  fieldAt b 8 1 ≤ 7 && 1 ≤ r.w && r.w ≤ 8 && r.rights.toNat < 8 && 1 ≤ r.ndim && r.ndim ≤ 4 && r.space ≤ 2 && r.pasid < 2 ^ 20 &&
  fieldAt b 54 2 == 0 &&
  (List.range 4).all (fun d => if d < r.ndim then 1 ≤ r.ext.getD d 0 && 1 ≤ r.tile.getD d 0 && r.tile.getD d 0 ≤ 4096
    else r.ext.getD d 0 == 0 && r.tile.getD d 0 == 0) &&
  ((List.range r.ndim).map fun d => (r.ext.getD d 0 - 1) * (if d = 0 then 1 else r.str.getD (d - 1) 0)).sum < 2 ^ 32 &&
  (if fmtCode r.fmt < 3 then r.srec == 0
   else match pool[r.srec]? with
     | some q => q.fmt == .i32 && scalesNeeded r ≤ recElements q
     | none => false)

/-! ### Templates (R344) -/

def templateOfBytes (b : List Byte) : Template :=
  { skind := fieldAt b 0 1, dkind := fieldAt b 1 1, flags := BitVec.ofNat 8 (fieldAt b 2 1), src := fieldAt b 4 2, drec := fieldAt b 6 2
    sc := (List.range 4).map fun d => fieldAt b (8 + 4 * d) 4, dc := (List.range 4).map fun d => fieldAt b (24 + 4 * d) 4
    tile := (List.range 4).map fun d => fieldAt b (40 + 2 * d) 2, chX := fieldAt b 48 1, chY := fieldAt b 49 1, chSlot := fieldAt b 50 1
    cnt := fieldAt b 52 4, dsX := fieldAt b 56 1, dsY := fieldAt b 57 1, dsSlot := bits (fieldAt b 58 1) 3 0
    dsField := bits (fieldAt b 58 1) 7 4, dsW := fieldAt b 59 1 }

/-- A template's limits. -/
def templateOk (w h : Nat) (pool : List Rec) (b : List Byte) (t : Template) : Bool :=
  let dims (k i : Nat) := if k = 0 then match pool[i]? with | some r => r.ndim | none => 1 else 1
  let nd := max (dims t.skind t.src) (dims t.dkind t.drec)
  t.skind ≤ 1 && t.dkind ≤ 1 && t.flags.toNat < 8 && fieldAt b 3 1 == 0 && zeros ((b.drop 60).take 4) &&
  (if t.skind = 0 then t.src < pool.length else t.src ≤ 7) && (if t.dkind = 0 then t.drec < pool.length else t.drec == 0) &&
  (List.range 4).all (fun d => if d < nd then 1 ≤ t.tile.getD d 0 && t.tile.getD d 0 ≤ 4096 else t.tile.getD d 0 == 1) &&
  (if t.flags.getLsbD 2 then
     t.chX < w && t.chY < h && t.chSlot < 16 && fieldAt b 51 1 == 0 && t.cnt % 4 == 0 && 4 ≤ t.cnt && t.cnt ≤ 2 ^ 24
   else zeros ((b.drop 48).take 8)) &&
  (if t.dkind = 0 then zeros ((b.drop 56).take 4) else t.dsX < w && t.dsY < h && t.dsField ≤ 2 && 1 ≤ t.dsW && t.dsW ≤ 8)

/-! ### Launch entries (R346) -/

def launchOf (b : List Byte) : Launch :=
  ⟨fieldAt b 0 1, fieldAt b 1 1, bits (fieldAt b 2 1) 3 0, bits (fieldAt b 2 1) 7 4, fieldAt b 3 1, fieldAt b 4 1, fieldAt b 5 1⟩

/-- A launch entry's limits: its target is a used slot that reads the field. -/
def launchOk (v : ImageView) (b : List Byte) (l : Launch) : Bool :=
  l.field ≤ 2 && l.fmt ≤ 2 && l.len ≤ 7 && l.arg + l.len ≤ 7 && zeros ((b.drop 6).take 2) &&
  (match v.at l.x l.y with
   | some e => slotWord e l.slot != 0 && (wordFields (slotWord e l.slot)).contains l.field
   | none => false)

/-- The header of `.launch`. -/
def launchHeadOk (b : List Byte) (count : Nat) : Bool :=
  fieldAt b 0 1 == count && fieldAt b 1 1 ≤ 1 && zeros ((b.drop 4).take 4) &&
  (if fieldAt b 1 1 = 1 then fieldAt b 2 1 ≤ 5 && fieldAt b 3 1 ≤ 29 else fieldAt b 2 1 == 0 && fieldAt b 3 1 == 0)

/-! ### Features (R34, R36, R337) -/

/-- The features one slot needs: of each group one must be active, and the first names the group. -/
def slotFeatures (op facc : Nat) : List (List Nat) :=
  let add (c : Bool) (g : List Nat) := if c then [g] else []
  [[0]] ++ add (0xC0 ≤ op && op ≤ 0xC7) [2, 4] ++ add (op == 0x56 || op == 0x57 || op == 0x5C || bit facc 3 || bit facc 4) [2] ++
  add (op == 0x58 || bit facc 5) [3] ++ add (op == 0x59 || op == 0x5A || bit facc 6 || bit facc 7) [4] ++
  add (op == 0x5B) [2, 3, 4] ++ add (0xD0 ≤ op && op ≤ 0xD4) [5] ++ add (0xD8 ≤ op && op ≤ 0xDC) [6] ++
  add (0xE0 ≤ op && op ≤ 0xE2) [7]

/-- The lowest feature bit that a configuration needs and FEATACT lacks. -/
def missingFeature (s : State) (featReq : Nat) (es : List ElemTab) : Option Nat :=
  let groups := es.flatMap fun e => e.slots.flatMap fun w => slotFeatures (bits w.2.toNat 31 24) (bits (attrWord e w.1) 15 8)
  (List.range 32).find? fun k => (bit featReq k && !featOn s k) || groups.any fun g => g.head? == some k && !g.any (featOn s)

/-! ### The load -/

/-- The sections' items. -/
def itemsOf (bs : List Byte) (item count : Nat) : List (List Byte) := chunks item count bs

/-- Every entry of a list satisfies a test; the first that does not gives a DETAIL by its index. -/
def checkEach {α : Type} (detail : Nat → Nat) (ok : α → Bool) : Nat → List α → Except LoadStop Unit
  | _, [] => .ok ()
  | k, x :: xs => do
    need (ok x) (detail k)
    checkEach detail ok (k + 1) xs

/-- A partition may come to hold a region as its DIES and the device's stage and features stand (R29, R36, R106, R108). -/
def couldHold (s : State) (n r : Nat) : Bool :=
  let p := partOf s n
  (regionOf s r).avail && (featOn s 1 || r == 0 || r == 12) && !(p.dies == 1 && regionDie r == 1) && !(p.dies == 2 && regionDie r == 0)

/-- Some origin's regions are such as the partition may hold together (R108, R110, R111): every footprint's regions contain those
of one that begins at a region's corner. RMAX 0 bars every region for now, whatever the footprint, and fails none
(notes/assumptions/58). -/
def placeable (s : State) (n : Nat) (g : GraphConfig) : Bool :=
  (List.range 6).any fun cl => [0, 16].any fun x0 => [0, 8].any fun y0 =>
    let rs := regionsUnder g { cluster := cl, x0 := x0, y0 := y0, v := false }
    x0 + g.w ≤ 32 && y0 + g.h ≤ 16 && ((partOf s n).rmax = 0 || rs.length ≤ (partOf s n).rmax) && rs.all (couldHold s n)

/-- The image at an address read and checked (R336, R348): the configuration, or why not. DETAIL of an image that can be placed
nowhere is that of the header, which holds W and H (notes/assumptions/58). -/
def loadImage (s : State) (m : Image) (size : Nat) : Except LoadStop GraphConfig := do
  need (208 ≤ size) headerDetail
  let head ← imageBytes s m 0 208
  need (headerOk head size) headerDetail
  let w := fieldAt head 16 1
  let h := fieldAt head 17 1
  let nelem := fieldAt head 22 2
  let secs ← sections s m (head.drop 64) nelem size 9 0 208
  let sec (i : Nat) : Section := secs.getD i ⟨0, 0, 0⟩
  let body (i : Nat) := imageBytes s m (sec i).off (sec i).size
  let g ← body 0
  let l ← body 1
  let r ← body 2
  let a ← body 3
  let recs ← body 4
  let tmpls ← body 5
  let launch ← body 7
  let els ← blocks w h 0 none (itemsOf g 72 nelem) (itemsOf l 68 nelem) (itemsOf r 268 nelem) (itemsOf a 36 nelem)
  let tb := itemsOf tmpls 64 (sec 5).count
  let chans := (tb.map templateOfBytes).filterMap fun t => if t.flags.getLsbD 2 then some (t.chX, t.chY, t.chSlot % 16) else none
  let v : ImageView := ⟨w, h, fieldAt head 20 1, (sec 4).count, els.map (·.1), chans⟩
  els.forM (checkElem v)
  let rb := itemsOf recs 64 (sec 4).count
  let pool := rb.map (recOfBytes m.addr (sec 6).off)
  checkEach (fun k => k + 2 ^ 24 * 4) (fun x => recordOk pool x.1 x.2) 0 (rb.zip pool)
  checkEach (fun k => k + 2 ^ 24 * 5) (fun b => templateOk w h pool b (templateOfBytes b)) 0 tb
  need (launch.isEmpty || launchHeadOk launch (sec 7).count) (placeDetail 0xFF 7)
  let lb := itemsOf (launch.drop 8) 8 (sec 7).count
  checkEach (fun k => placeDetail k 7) (fun b => launchOk v b (launchOf b)) 0 lb
  match missingFeature s (fieldAt head 24 4) v.elems with
  | some k => .error (.bad (k + 2 ^ 24 * 6))
  | none =>
    let c : GraphConfig := {
      w := w, h := h, quota := if fieldAt head 18 1 = 0 then 56 else fieldAt head 18 1
      bound := if fieldAt head 19 1 = 0 then 4 else fieldAt head 19 1
      scopes := (List.range v.nset).map fun i => bits (fieldAt head 32 16) (2 * i + 1) (2 * i)
      featReq := BitVec.ofNat 32 (fieldAt head 24 4), elems := v.elems, recs := pool.mapIdx fun k r => (k, r)
      tmpls := tb.map templateOfBytes, launch := lb.map launchOf, stage := fieldAt launch 1 1 == 1
      stCore := fieldAt launch 2 1, stBank := fieldAt launch 3 1, dataOff := (sec 6).off, recOff := (sec 4).off }
    if placeable s m.part c then .ok c else .error (.bad headerDetail)

/-- The bytes that a Load reads, in the order it does: the header with the section table, what lies between sections, and the
sections but the data pool. -/
def imageRanges (head : List Byte) : List (Nat × Nat) :=
  let sec (i : Nat) : Section := ⟨fieldAt head (64 + 16 * i + 4) 4, fieldAt head (64 + 16 * i + 8) 4, 0⟩
  let end_ (i : Nat) : Nat := match i with | 0 => 208 | i + 1 => (sec i).off + (sec i).size
  ((List.range 9).map fun i => (end_ i, (sec i).off - end_ i)) ++ [0, 1, 2, 3, 4, 5, 7].map fun i => ((sec i).off, (sec i).size)

/-- What a Load that stops at a page has read of its image (R348). -/
def keepRead (s : State) (m : Image) : Sparse Byte :=
  let m := keepRanges s [(0, 208)] m
  match imageBytes s m 0 208 with
  | .ok head => (keepRanges s (imageRanges head) m).kept
  | .error _ => m.kept

/-- The packet a graph's manager task belongs to. -/
def graphPacket (s : State) (n : Nat) (g : Graph) : Option Packet := if g.owed then (queueOf s n g.queue).inFlight.find? (·.qseq == g.qseq) else none

/-- The INJECT of a handle that waits on it at the head of a queue, whatever state the queue is in (R66). -/
def waitingInject (s : State) (n h q : Nat) : Option Packet :=
  ((queueOf s n q).merged.head?).filter fun p =>
    p.type = 1 && p.field 0 2 = h && (headFault s p).isNone && (queueOf s n q).state != .error

/-- A load that fails (R66, R336): the handle ends, its RESIDE gets the fault and DETAIL, the queue goes to ERROR, and
INJECTs that wait on the handle fault BAD_PACKET, that queue's own and those of queues in a ladder among them. -/
def failLoad (s : State) (n h detail : Nat) : State :=
  let g := graphOf s n h
  let waiting := [0, 1, 2, 3].filterMap fun q => (waitingInject s n h q).map fun p => (q, p)
  let s := modGraph s n h fun _ => {}
  let s := match graphPacket s n g with
    | some p => packetFault s n g.queue p 0x30 detail
    | none => s
  let s := progress s n
  waiting.foldl (fun s x => badPacket s n x.1 x.2 0) s

/-- A load that succeeds: the handle is loaded and its RESIDE completes. -/
def finishLoad (s : State) (n h : Nat) (c : GraphConfig) : State :=
  let g := graphOf s n h
  let s := modGraph s n h fun g => { g with life := .loaded, config := c, kept := [], parkedPage := none, owed := false }
  let s := regionEvent s n h ((regionsOf s n g.queue).headD 0) 0 false
  let s := progress s n
  match graphPacket s n g with
  | some p => completePacket s n g.queue p
  | none => s

/-- A manager's result waits for the FGE (R103). -/
def pushResult (s : State) (x : ManagerResult) : State := { s with fge := { s.fge with results := s.fge.results ++ [x] } }

/-- A manager's result of a load reaches the FGE, which accepts it at once unless it is paused (R103). -/
def takeLoad (s : State) (x : ManagerResult) : State :=
  match x with
  | .loaded n h c => if (graphOf s n h).life == .loading then finishLoad s n h c else s
  | .failed n h d => if (graphOf s n h).life == .loading then failLoad s n h d else s
  | _ => s
def giveResult (s : State) (x : ManagerResult) : State := if fgePaused s then pushResult s x else takeLoad s x

/-- The result of a handle's load waits for the FGE. -/
def loadGiven (s : State) (n h : Nat) : Bool :=
  s.fge.results.any fun x => match x with
    | .loaded n' h' _ => n == n' && h == h'
    | .failed n' h' _ => n == n' && h == h'
    | _ => false

/-- A region's manager is between two tasks (R105). -/
def managerIdle (s : State) (r : Nat) : Bool := (regionOf s r).task.isNone

/-- The manager that takes up a load: that of a free region, or else the first that is between tasks (the model's choice:
notes/assumptions/42). -/
def loadManager (s : State) : Option Nat :=
  (allRegions.find? fun r => managerIdle s r && holder s r == 0).or (allRegions.find? (managerIdle s))

/-- A manager's task ends. -/
def endTask (s : State) (t : ManagerTask) : State :=
  { s with regions := mapVals (fun _ g => if g.task == some t then { g with task := none } else g) s.regions }

/-- A manager's load waits for a page: the task goes on (R105). -/
def holdTask (s : State) (t : ManagerTask) : State :=
  if s.regions.any fun g => g.2.task == some t then s
  else match loadManager s with
    | some r => modRegion s r fun g => { g with task := some t }
    | none => s

/-- The manager's Load of a handle. -/
def doLoad (s : State) (n h : Nat) : State :=
  let g := graphOf s n h
  let begun := s.regions.any fun g => g.2.task == some (.load n h)
  if g.life != .loading || loadGiven s n h || g.parkedPage.isSome || !(begun || (loadManager s).isSome) then s
  else match loadImage s ⟨n, g.addr, g.kept⟩ g.size with
    | .ok c => giveResult (endTask s (.load n h)) (.loaded n h c)
    | .error (.bad d) => giveResult (endTask s (.load n h)) (.failed n h d)
    | .error (.stop (.at _)) => s
    | .error (.stop x) => match waitFor s n x with
      | some (page, s') => holdTask (modGraph s' n h fun g => { g with parkedPage := some page, kept := keepRead s ⟨n, g.addr, g.kept⟩ }) (.load n h)
      | none => giveResult (endTask s (.load n h)) (.failed n h headerDetail)

/-- RM_LOAD (R105). -/
def execRmLoad (n h : Nat) (s : State) : Answer := .next (holdForTrace s (doLoad s n h) n)

end Sys2Proof.Machine
end

