-- ==== Sys2Proof/Machine/Sets.lean ====
section
/-! DEFINITION. Membership sets, opcodes 0xA0 to 0xA2 (R178, R179, R403). -/

namespace Sys2Proof.Machine

/-- The name of a set unit: whether it is a die's, the die or region, and its index (R178). -/
abbrev SetRef := Bool × Nat × Nat

/-- The set unit that D1 of a firing names: its placed entry of KIND 4 holds the unit (R329). -/
def setRefOf (s : State) (x : Firing) : Option SetRef :=
  let w := routeWord s x.el x.v x.form.e
  if !bit w 31 || bits w 30 28 != 4 then none
  else if bit w 17 then some (true, bits w 20 20, bits w 27 22 + 64 * bits w 19 18)
  else some (false, 4 * elemCluster x.el + bits w 19 18, bits w 27 22)

def setUnitOf (s : State) : SetRef → SetUnit
  | (true, d, i) => lookup {} s.dieSets (256 * d + i)
  | (false, r, i) => lookup {} (regionOf s r).sets i

def putSetUnit (s : State) (ref : SetRef) (u : SetUnit) : State :=
  match ref with
  | (true, d, i) => { s with dieSets := store s.dieSets (256 * d + i) u }
  | (false, r, i) => modRegion s r fun g => { g with sets := store g.sets i u }

/-- What a set sends: a token to the destinations of the firing it answers, and whether the receiver's region acquires first
(R218, R403). -/
structure SetSend where
  tok : Token
  ds : List Dest
  acq : Bool := false
  deriving DecidableEq, Repr

/-- The completion of an arrival: lane 0 holds the number of arrivers (R179, R403); one with none carries no order (R218). Every
arrival of the episode has caused it: it has the latest of their causal floors (R140). -/
def completion (k : Nat) (floor : DWord) (a : Arrival) : SetSend :=
  ⟨{ dataTok [BitVec.ofNat 32 k] 1 .i32 with tag := a.tok.tag, ctx := a.tok.ctx, v := a.tok.v, floor := laterFloor floor a.tok.floor }, a.d0, k != 0⟩

/-- The arrivals held for the next episode that open it: the first of each tag; the rest stay held. -/
def nextArrivals (as : List Arrival) : List Arrival × List Arrival :=
  as.foldl (fun acc a => if acc.1.any (·.tag == a.tag) then (acc.1, acc.2 ++ [a]) else (acc.1 ++ [a], acc.2)) ([], [])

/-- Episodes completed while every current member has arrived (R179), at most `k` of them. -/
def completeSet : Nat → SetUnit → SetUnit × List SetSend
  | 0, u => (u, [])
  | k + 1, u =>
    if u.arrived.isEmpty || !u.members.all fun m => u.arrived.any (·.tag == m) then (u, [])
    else
      let out := u.arrived.map (completion u.arrived.length (floorOf (u.arrived.map (·.tok))))
      let (open_, held) := nextArrivals u.heldNext
      let (u, more) := completeSet k { u with arrived := open_, heldNext := held }
      (u, out ++ more)

/-- Waiting JOINs done while the set has room (R179). -/
def admitJoins (u : SetUnit) : SetUnit × List SetSend :=
  let take (acc : SetUnit × List SetSend) (a : Arrival) : SetUnit × List SetSend :=
    let (u, out) := acc
    if u.members.contains a.tag then (u, out ++ [⟨a.tok, a.d0, false⟩])
    else if u.members.length < Config.setMembers then ({ u with members := u.members ++ [a.tag] }, out ++ [⟨a.tok, a.d0, false⟩])
    else ({ u with joins := u.joins ++ [a] }, out)
  u.joins.foldl take ({ u with joins := [] }, [])

/-- JOIN (R179): waits while the set is full. -/
def joinSet (u : SetUnit) (a : Arrival) : SetUnit × List SetSend := admitJoins { u with joins := u.joins ++ [a] }

/-- LEAVE (R179, R183): the tag's arrivals are withdrawn and answered with 0; the episode may complete; room may let in
waiting JOINs. -/
def leaveSet (u : SetUnit) (a : Arrival) : SetUnit × List SetSend :=
  let mine (b : Arrival) := b.tag == a.tag
  let gone := (u.heldNext.filter mine ++ u.arrived.filter mine).map (completion 0 a.tok.floor)
  let u := { u with members := u.members.filter (· != a.tag), heldNext := u.heldNext.filter fun b => !mine b
                    arrived := u.arrived.filter fun b => !mine b }
  let (u, done) := completeSet (u.heldNext.length + 1) u
  let (u, joined) := admitJoins u
  let done := done.map fun x => { x with tok := { x.tok with floor := laterFloor x.tok.floor a.tok.floor } }
  (u, gone ++ done ++ [⟨a.tok, a.d0, false⟩] ++ joined)

/-- ARRIVE (R179): a non-member is answered at once with 0; a second arrival is held for the next episode. -/
def arriveSet (u : SetUnit) (a : Arrival) : SetUnit × List SetSend :=
  if !u.members.contains a.tag then (u, [completion 0 0 a])
  else
    let u := if u.arrived.any (·.tag == a.tag) then { u with heldNext := u.heldNext ++ [a] }
             else { u with arrived := u.arrived ++ [a] }
    completeSet (u.heldNext.length + 1) u

/-- The scope of the set that a unit is bound to (R338). -/
def setScope (s : State) (x : Firing) (ref : SetRef) : Nat :=
  match placementAt s x.cfg x.el with
  | some p => ((p.sets.zip (graphAt s x.cfg).config.scopes).find? (·.1 == ref)).elim 0 (·.2)
  | none => 0

/-- A set's answer sent, entering Q3 of D0 (R154): the receiving regions have acquired at the set's scope (R403). -/
def sendSet (el scope : Nat) (s : State) (t : SetSend) : State :=
  let s := if t.acq then t.ds.foldl (fun s d => acquire s (destRegion d) scope) s else s
  sendAll s el t.tok (t.ds.map viaPort)

/-- A set operation of a firing: its tag action, for an ARRIVE a release at the set's scope (R403), then the operation with its
answers. -/
def setOp (op : SetUnit → Arrival → SetUnit × List SetSend) (rel : Bool := false) : Op :=
  { compare := false, header := headerA, eosD1 := false
    body := fun s x =>
      match resultTag s x, setRefOf s x with
      | some (tag, s), some ref =>
        let st := if stampsSeq x.form.t then takeStamp s x else (x.head.seq, s)
        let a : Arrival := { tag := x.tag, tok := headed x tag st.1 (wholeA x), d0 := (route s x.el x.v x.form.d).toList }
        let (u, sends) := op (setUnitOf st.2 ref) a
        let scope := setScope st.2 x ref
        let s := if rel then releaseStores st.2 (elemRegion x.el) scope else st.2
        some (afterFiring (sends.foldl (sendSet x.el scope) (putSetUnit s ref u)) x)
      | _, _ => none }

/-- JOIN (R403). -/
def execJoin (a : BitVec 4) (d e : BitVec 6) (t : BitVec 4) (s : State) : Answer :=
  .next (fire (setOp joinSet) (form 0xA0 a 0 d e t) s)

/-- LEAVE (R403). -/
def execLeave (a : BitVec 4) (d e : BitVec 6) (t : BitVec 4) (s : State) : Answer :=
  .next (fire (setOp leaveSet) (form 0xA1 a 0 d e t) s)

/-- ARRIVE (R403). -/
def execArrive (a : BitVec 4) (d e : BitVec 6) (t : BitVec 4) (s : State) : Answer :=
  .next (fire (setOp arriveSet true) (form 0xA2 a 0 d e t) s)

end Sys2Proof.Machine
end

