-- ==== Sys2Proof/Machine/Place.lean ====
section
/-! DEFINITION. The manager's Place, Fetch and Stage swap (R105, R110 to R117, R178, R329), and the end of an EVICT (R66). -/

namespace Sys2Proof.Machine

/-! ### Who is placed where (R110) -/

/-- Every placement of the device with its partition, handle and configuration. -/
def allPlaces (s : State) : List (Nat × Nat × GraphConfig × Placement) :=
  s.parts.flatMap fun p => p.2.graphs.flatMap fun g => g.2.places.map fun x => (p.1, g.1, g.2.config, x)

/-- The placements whose tables stand in a region. -/
def placesIn (s : State) (r : Nat) : List (Nat × Nat × GraphConfig × Placement) :=
  (allPlaces s).filter fun x => !x.2.2.2.swapped && (regionsUnder x.2.2.1 x.2.2.2).contains r

/-- The tables of a configuration at an element it covers. -/
def tabAt (g : GraphConfig) (p : Placement) (el : Nat) : Option ElemTab :=
  if coversElem g p el then g.elems.find? fun e => e.x + p.x0 == elemX el && e.y + p.y0 == elemY el else none

/-- The entries of version `v` that an element's tables use (R342). -/
def usedEntries (v : Bool) (e : ElemTab) : List TableEntry :=
  ((List.range 16).filter fun n => slotWord e n != 0).flatMap (fun n => [TableEntry.slot v n, .attr v n]) ++
  (usedLits e).map (.lit v ·) ++ (usedRoutes e).map (.route v ·)

/-- The elements that a configuration with an origin has tables for. -/
def tabElems (g : GraphConfig) (p : Placement) : List (Nat × ElemTab) :=
  g.elems.map fun e => (elemAt p.cluster (p.x0 + e.x) (p.y0 + e.y), e)

/-- No used entry meets one of another configuration of the same version (R110 item 2). -/
def entriesFree (others : List (Nat × Nat × GraphConfig × Placement)) (g : GraphConfig) (p : Placement) : Bool :=
  (tabElems g p).all fun x => others.all fun o =>
    o.2.2.2.v != p.v || (match tabAt o.2.2.1 o.2.2.2 x.1 with
      | some e => (usedEntries p.v x.2).all fun u => !(usedEntries p.v e).contains u
      | none => true)

/-- The quotas of the configurations that cover an element sum to at most 56 (R110 item 3). -/
def quotaFits (others : List (Nat × Nat × GraphConfig × Placement)) (g : GraphConfig) (p : Placement) : Bool :=
  (List.range g.w).all fun dx => (List.range g.h).all fun dy =>
    let el := elemAt p.cluster (p.x0 + dx) (p.y0 + dy)
    g.quota + ((others.filter fun o => coversElem o.2.2.1 o.2.2.2 el).map (·.2.2.1.quota)).sum ≤ Config.framePartsPerElement

/-- The region of a footprint's origin. -/
def originRegion (p : Placement) : Nat := elemRegion (elemAt p.cluster p.x0 p.y0)

/-- Set units of a region or die that no placement holds, lowest first (R178). -/
def freeUnits (s : State) (die : Bool) (k : Nat) : List Nat :=
  let used := (allPlaces s).flatMap fun x => (x.2.2.2.sets.filter fun u => u.1 == die && u.2.1 == k).map (·.2.2)
  (List.range (if die then 256 else 64)).filter fun i => !used.contains i

/-- There are free units for a configuration's sets (R110 item 4). Every region has every port (R112). -/
def setsFit (s : State) (g : GraphConfig) (p : Placement) : Bool :=
  let r := originRegion p
  (g.scopes.filter (· != 2)).length ≤ (freeUnits s false r).length &&
    (g.scopes.filter (· == 2)).length ≤ (freeUnits s true (regionDie r)).length

/-- Two configurations lie on one footprint (R116). -/
def sameFootprint (x y : GraphConfig × Placement) : Bool :=
  x.2.cluster == y.2.cluster && x.2.x0 == y.2.x0 && x.2.y0 == y.2.y0 && x.1.w == y.1.w && x.1.h == y.1.h

/-- A stage of the queue has the version of a footprint that another is to take (R116): a set has at most one in each. -/
def stageTaken (s : State) (n : Nat) (g : GraphConfig) (p : Placement) : Bool :=
  g.stage && (allPlaces s).any fun x => x.1 == n && x.2.2.1.stage && x.2.2.2.queue == p.queue && !x.2.2.2.swapped &&
    sameFootprint x.2.2 (g, p) && x.2.2.2.v == p.v

/-- An origin and a version are acceptable for queue `q` (R110), in regions that run, are new or are being restored. -/
def accepts (s : State) (n q : Nat) (g : GraphConfig) (p : Placement) : Bool :=
  let rs := regionsUnder g p
  let others := (allPlaces s).filter fun x => !x.2.2.2.swapped && x.2.2.2.cluster == p.cluster
  rs.all (fun r => (regionOf s r).owner == n && (regionOf s r).queue == q &&
    [RegState.run, .loading, .restoring].contains (regionOf s r).state && (placesIn s r).length < 4) &&
  !stageTaken s n g p && setsFit s g p && quotaFits others g p && entriesFree others g p

/-- Origins in the order of R111: lowest cluster, then y0, then x0. -/
def origins (w h : Nat) : List (Nat × Nat × Nat) :=
  (List.range 6).flatMap fun cl => (List.range (17 - h)).flatMap fun y => (List.range (33 - w)).map fun x => (cl, x, y)

/-- The first accepted origin, with the versions that are free there. -/
def findOrigin (s : State) (n q : Nat) (g : GraphConfig) : Option (Placement × List Bool) :=
  (origins g.w g.h).findSome? fun o =>
    let at_ (v : Bool) : Placement := { cluster := o.1, x0 := o.2.1, y0 := o.2.2, v := v, queue := q }
    match [false, true].filter fun v => accepts s n q g (at_ v) with
    | [] => none
    | vs => some (at_ false, vs)

/-! ### Version counts (R113) -/

/-- The tokens of a region that its version counts cover. Those of a swapped-out stage's spilled parts do not keep its
version from being written (R117). -/
def versionTokens (s : State) (r : Nat) : List Token :=
  let away (el : Nat) (p : FramePart) := (placementAt s p.cfg el).any (·.swapped)
  ((s.elems.filter fun e => elemRegion e.1 == r).flatMap fun e =>
    elemTokens { e.2 with spilled := e.2.spilled.filter (fun p => !away e.1 p)
                          parked := e.2.parked.filter fun x => (swappedAt s e.1 x.tok).isNone }) ++
  (regionOf s r).spill.map (·.2.tok) ++ (regionOf s r).streams.flatMap (·.2) ++ (regionOf s r).sets.flatMap (setTokens ·.2) ++
  (s.net.filter fun f => destRegion f.dest == r).map (fun f => match f.cmd with | some c => c.a | none => f.tok) ++
  (s.orders.flatMap fun o => (o.results.filter fun f => destRegion f.dest == r).map (·.tok)) ++
  (s.reqs.filter (·.region == r)).map (·.hdr) ++ (s.cmds.filter (·.region == r)).map (·.a) ++
  (s.copies.filter (·.region == r)).map (·.tok) ++
  (s.clusters.flatMap fun c => c.2.broker.flatMap fun b => match b.2 with
    | some b => if b.region == r then b.recs.map (·.tok) else []
    | none => [])

/-- The live-token count of a version in a region is zero, and no access that a firing of the version issued is still to perform,
whatever version its answer takes (R164, R211). -/
def versionFree (s : State) (r : Nat) (v : Bool) : Bool :=
  (versionTokens s r).all (·.v != v) && (s.reqs.filter (·.region == r)).all (·.v != v) && (s.cmds.filter (·.region == r)).all (·.v != v)

/-! ### Writing tables (R111, R114, R329) -/

/-- A KIND 4 entry with the unit bound to its set; other entries stand as they are. -/
def boundRoute (p : Placement) (w : Word) : Word :=
  if bits w.toNat 30 28 != 4 then w
  else match p.sets[bits w.toNat 27 22]? with
    | none => w
    | some (die, k, i) =>
      let dy := if die then 1 + 2 * (i / 64) + 8 * k else 2 * (k % 4)
      BitVec.ofNat 32 (w.toNat / 2 ^ 28 * 2 ^ 28 + i % 64 * 2 ^ 22 + dy * 2 ^ 17 + bits w.toNat 16 0)

/-- One entry of a configuration's tables written into its element. -/
def putEntry (p : Placement) (tab : ElemTab) (e : Element) : TableEntry → Element
  | .slot v n => { e with instr := store e.instr (key16 v n) (lookup 0 tab.slots n) }
  | .lit v k => { e with lits := store e.lits (key16 v k) (lookup 0 tab.lits k) }
  | .route v k => { e with routes := store e.routes (key64 v k) (boundRoute p (lookup 0 tab.routes k)) }
  | .attr v n => { e with attrs := store e.attrs (key16 v n) (lookup 0 tab.attrs n) }

/-- Whether the image marks an entry hot. -/
def isHot (tab : ElemTab) : TableEntry → Bool
  | .slot _ n => tab.hotSlots.getLsbD n
  | .lit _ k => tab.hotLits.getLsbD k
  | .route _ k => tab.hotRoutes.getLsbD k
  | .attr _ n => tab.hotAttrs.getLsbD n

/-- The slots an element's tables use. -/
def usedSlots (tab : ElemTab) : List Nat := (List.range 16).filter fun n => slotWord tab n != 0

/-- One element's tables written: hot entries, the rest marked absent, and its slots owned. -/
def placeTab (c : Nat) (p : Placement) (s : State) (x : Nat × ElemTab) : State :=
  let es := usedEntries p.v x.2
  modElem s x.1 fun e =>
    let e := (es.filter (isHot x.2)).foldl (putEntry p x.2) e
    { e with
      absent := e.absent ++ es.filter (!isHot x.2 ·)
      owner := (usedSlots x.2).foldl (fun o n => store o (key16 p.v n) c) e.owner }

/-- One element's tables taken out of it. -/
def clearTab (p : Placement) (s : State) (x : Nat × ElemTab) : State :=
  let es := usedEntries p.v x.2
  modElem s x.1 fun e => { e with
    instr := eraseAll e.instr ((usedSlots x.2).map (key16 p.v)), attrs := eraseAll e.attrs ((usedSlots x.2).map (key16 p.v))
    lits := eraseAll e.lits ((usedLits x.2).map (key16 p.v)), routes := eraseAll e.routes ((usedRoutes x.2).map (key64 p.v))
    absent := e.absent.filter (!es.contains ·), owner := eraseAll e.owner ((usedSlots x.2).map (key16 p.v))
    mergeL := e.mergeL.filter fun k => !((usedSlots x.2).map (key16 p.v)).contains k
    streamTag := eraseAll e.streamTag ((usedSlots x.2).map (key16 p.v)) }

/-- Free units taken for a configuration's sets, in `.set` order, each emptied. -/
def bindSets (p : Placement) : List Nat → State → List (Bool × Nat × Nat) → State × List (Bool × Nat × Nat)
  | [], s, acc => (s, acc)
  | sc :: rest, s, acc =>
    let die := sc == 2
    let k := if die then regionDie (originRegion p) else originRegion p
    match (freeUnits s die k).find? fun i => !acc.contains (die, k, i) with
    | some i => bindSets p rest (putSetUnit s (die, k, i) {}) (acc ++ [(die, k, i)])
    | none => (s, acc)

/-- REGION events of a placement, one for each region it lies in. -/
def placeEvents (s : State) (n h code : Nat) (g : GraphConfig) (p : Placement) : State :=
  (regionsUnder g p).foldl (fun s r => regionEvent s n h r code p.v) s

/-- A configuration placed at an accepted origin, once the stores of those before it have performed at DEV (R211). -/
def placeAt (s : State) (n h : Nat) (p : Placement) : State :=
  let g := (graphOf s n h).config
  let s := (regionsUnder g p).foldl settleStores s
  let (s, sets) := bindSets p g.scopes s []
  let p := { p with sets := sets }
  let s := modGraph s n h fun g => { g with places := g.places ++ [p] }
  let s := if p.swapped then s else (tabElems g p).foldl (placeTab (cfgOf n h) p) s
  let s := (regionsUnder g p).foldl (fun s r => modRegion s r fun x => { x with state := if x.state == .loading then .run else x.state }) s
  progress (placeEvents s n h 1 g p) n

/-- A placement removed, with what the elements hold for it. -/
def unplace (s : State) (n h : Nat) (p : Placement) : State :=
  let g := (graphOf s n h).config
  let c := cfgOf n h
  let s := if p.swapped then s else (tabElems g p).foldl (clearTab p) s
  let s := (tabElems g p).foldl (fun s x => modElem s x.1 fun e => { e with
    parts := e.parts.filter (·.cfg != c), spilled := e.spilled.filter (·.cfg != c) }) s
  modGraph s n h fun g => { g with places := g.places.filter (· != p) }

/-! ### RM_PLACE (R110, R111, R116) -/

/-- An INJECT of the handle waits at the head of queue `q`'s order. -/
def injectWaits (s : State) (n q h : Nat) : Bool :=
  match (queueOf s n q).merged with
  | p :: _ => queueGoes s n q && p.type == 1 && p.field 0 2 == h && (headFault s p).isNone && (launchFault (graphOf s n h).config p).isNone &&
      (graphOf s n h).life == .loaded
  | [] => false

/-- An opening token of a data ring waits for the graph, which its RESIDE's queue holds regions for (notes/assumptions/13). -/
def openingWaits (s : State) (n q h : Nat) : Bool :=
  (graphOf s n h).queue == q && (graphOf s n h).life == .loaded && (partOf s n).rings.any fun d => d.2.opening && d.2.graph == h

/-- Queue `q` waits for a placement of the handle. -/
def placeWanted (s : State) (n q h : Nat) : Bool :=
  (injectWaits s n q h || openingWaits s n q h) && (readyPlace s n q h).isNone

/-- A swapped-out stage's place beside the stages of its queue on one footprint of one region (R116). -/
def stagePlace (s : State) (n q : Nat) (g : GraphConfig) : Option Placement :=
  if !g.stage then none
  else ((allPlaces s).find? fun x => x.1 == n && x.2.2.1.stage && x.2.2.1.w == g.w && x.2.2.1.h == g.h && !x.2.2.2.swapped && x.2.2.2.queue == q &&
      (regionsUnder g x.2.2.2).length == 1 && (regionsUnder g x.2.2.2).all fun r =>
        (regionOf s r).owner == n && (regionOf s r).queue == q && (regionOf s r).state == .run).map fun x =>
    { x.2.2.2 with swapped := true, queue := q, sets := [] }

/-- A graph placed for queue `q` if an origin is accepted and the version's count there is zero; otherwise it waits. Of two
versions that are free it takes version 0 (the model's choice: notes/assumptions/42). -/
def placeFor (s : State) (n h q : Nat) : State :=
  if !placeWanted s n q h then s
  else
    let g := (graphOf s n h).config
    match findOrigin s n q g with
    | some (p, vs) =>
      if !(regionsUnder g p).all (managerIdle s) then s
      else match vs.find? fun v => (regionsUnder g p).all fun r => versionFree s r v with
      | some v => placeAt s n h { p with v := v }
      | none => s
    | none => match stagePlace s n q g with
      | some p => placeAt s n h p
      | none => s

/-- RM_PLACE (R111). -/
def execRmPlace (n h : Nat) (s : State) : Answer := .next ([0, 1, 2, 3].foldl (fun s q => holdForTrace s (placeFor s n h q) n) s)

/-! ### Fetch (R114) -/

/-- The placement whose tables give an entry of an element. -/
def entrySource (s : State) (el : Nat) (entry : TableEntry) : Option (Nat × Placement × ElemTab) :=
  (allPlaces s).findSome? fun x =>
    if x.2.2.2.swapped then none
    else match tabAt x.2.2.1 x.2.2.2 el with
      | some t => if (usedEntries x.2.2.2.v t).contains entry then some (cfgOf x.1 x.2.1, x.2.2.2, t) else none
      | none => none

/-- The entries a waiting token's entry into its frame needs. -/
def neededBy (e : Element) (x : QTok) : List TableEntry :=
  let v := x.tok.v
  let conv := bits (lookup 0 e.attrs (key16 v x.slot)).toNat 7 2
  [TableEntry.slot v x.slot, .attr v x.slot, .route v conv] ++
    firingEntries v x.slot (lookup 0 e.instr (key16 v x.slot)).toNat

/-- The tokens that stand in the fields of an element's frame parts; a count stands for a token of either version. -/
def fieldToks (e : Element) : List QTok :=
  e.parts.flatMap fun p => p.fields.flatMap fun f => match f.2 with
    | some (.tok t) => [⟨t, f.1 / 3, f.1 % 3⟩]
    | some (.acc t _ _) => [⟨t, f.1 / 3, f.1 % 3⟩]
    | some (.count _) => [⟨{}, f.1 / 3, f.1 % 3⟩, ⟨{ v := true }, f.1 / 3, f.1 % 3⟩]
    | none => []

/-- A token at the head of a queue, or parked, or in a frame part whose tables a restore has left absent (R126), waits for an
entry. -/
def entryAwaited (e : Element) (entry : TableEntry) : Bool :=
  (e.queues.filterMap (·.2.head?) ++ e.parked ++ fieldToks e).any fun x => (neededBy e x).contains entry

/-- An absent entry that is awaited arrives, and what waited for it goes on. -/
def bringEntry (s : State) (el : Nat) (entry : TableEntry) : Option (Nat × State) :=
  let e := elemOf s el
  if !e.absent.contains entry || !entryAwaited e entry then none
  else match entrySource s el entry with
    | none => none
    | some (c, p, t) =>
      if !regionRuns s (elemRegion el) (cfgPart c) then none
      else some (c, settle (setElem s el { putEntry p t e entry with absent := e.absent.filter (· != entry) }) el)

/-- CONFIG_ENTRY_FETCHED (R114): from the configuration cache. -/
def execConfigEntryFetched (el : Nat) (entry : TableEntry) (s : State) : Answer :=
  .next (match bringEntry s el entry with
    | some (c, s') => holdForTrace s s' (cfgPart c)
    | none => s)

/-- RM_FETCH (R114): the manager supplies it, with a REGION event. -/
def execRmFetch (el : Nat) (entry : TableEntry) (s : State) : Answer :=
  .next (match (if managerIdle s (elemRegion el) then bringEntry s el entry else none) with
    | some (c, s') =>
      let v := match entry with | .slot v _ => v | .lit v _ => v | .route v _ => v | .attr v _ => v
      holdForTrace s (progress (regionEvent s' (cfgPart c) (cfgHandle c) (elemRegion el) 3 v) (cfgPart c)) (cfgPart c)
    | none => s)

/-! ### EVICT_DONE (R66, R192) -/

/-- Nothing of a graph runs: no activation, and no stream bound to it. -/
def graphQuiet (s : State) (n h : Nat) : Bool :=
  !(partOf s n).acts.any (·.handle == h) && !(partOf s n).rings.any fun d => d.2.graph == h && (d.2.tag.isSome || !d.2.closings.isEmpty)

/-- OOBCNT and TICKET written back to the image's pool; a translation that stops it is the answer. -/
def writeBack (n : Nat) (g : Graph) : Sparse Rec → State → Except Xlate State
  | [], s => .ok s
  | (k, r) :: rest, s =>
    match placesVia (fun a => translate s 0 n a .write) (g.addr + g.config.recOff + 64 * k + 56) 8 with
    | .ok ps => if hostHeld s ps then .error (.at ⟨true, 0⟩) else writeBack n g rest (saveAt s ps (leBytes 4 r.oobcnt.toNat ++ leBytes 4 r.ticket.toNat))
    | .error .perm => writeBack n g rest s
    | .error x => .error x

/-- The graph's placements removed and its handle ended. -/
def endGraph (s : State) (n h : Nat) : State :=
  let g := graphOf s n h
  modGraph (g.places.foldl (fun s p => unplace s n h p) s) n h fun _ => {}

/-- An EVICT comes to its end. -/
def evictDone (s : State) (n h : Nat) : State :=
  let g := graphOf s n h
  let s := progress (endGraph s n h) n
  match graphPacket s n g with
  | some p => completePacket s n g.queue p
  | none => s

/-- An EVICT comes to its end, with a result that the FGE accepts once it is not paused (R103). -/
def evictEnd (s : State) (n h : Nat) : State :=
  let g := graphOf s n h
  if g.life != .evicting || g.parkedPage.isSome || !graphQuiet s n h || s.fge.results.contains (.evicted n h) then s
  else match writeBack n g g.config.recs s with
    | .error x => match waitFor s n x with
      | some (page, s) => modGraph s n h fun g => { g with parkedPage := some page }
      | none => s
    | .ok s => if fgePaused s then pushResult s (.evicted n h) else evictDone s n h

/-- EVICT_DONE (R66). -/
def execEvictDone (n h : Nat) (s : State) : Answer := .next (evictEnd s n h)

/-! ### Stages (R116, R117, R410) -/

/-- Entries in a stage's input. -/
def stageInput (s : State) (g : GraphConfig) (p : Placement) : Nat :=
  let r := originRegion p
  (lookup {} (coreOf s (coreId p.cluster (portCore r g.stCore))).banks g.stBank).entries.length

/-- A stage's placement. -/
def stageOf (s : State) (n h : Nat) : Option Placement :=
  let g := graphOf s n h
  if g.config.stage then g.places.head? else none

/-- The swapped-out stages of a queue that share a footprint and have entries in their inputs, each with the number. -/
def stageWaiters (s : State) (n : Nat) (g : GraphConfig) (p : Placement) : List (Nat × Nat) :=
  (partOf s n).graphs.filterMap fun x => match stageOf s n x.1 with
    | some p' =>
      let k := stageInput s x.2.config p'
      if p'.swapped && p'.queue == p.queue && sameFootprint (g, p) (x.2.config, p') && k != 0 then some (x.1, k) else none
    | none => none

/-- The stage that comes in next: most entries, then the lower handle. -/
def nextStage (ws : List (Nat × Nat)) : Option Nat :=
  (ws.foldl (fun (best : Option (Nat × Nat)) w => match best with
    | none => some w
    | some b => if b.2 < w.2 then some w else some b) none).map (·.1)

/-- A stage's input has been empty for 1 µs. -/
def inputIdle (s : State) (g : GraphConfig) (p : Placement) : Bool :=
  let b := lookup {} (coreOf s (coreId p.cluster (portCore (originRegion p) g.stCore))).banks g.stBank
  b.entries.isEmpty && b.emptyAt + 16000 ≤ s.dev.uptime

/-- STAGE_INPUT_IDLE (R117): the input of stage `h` has been empty for 1 µs while one that is swapped out has an entry. -/
def execStageInputIdle (n h : Nat) (s : State) : Answer :=
  .next (match stageOf s n h with
    | some p =>
      let g := (graphOf s n h).config
      if !p.swapped && inputIdle s g p && !(stageWaiters s n g p).isEmpty then
        modGraph s n h fun g => { g with idle := true }
      else s
    | none => s)

/-- Steps 1 and 2 of a swap at one element: the stage's resident parts are spilled, and its queued tokens are parked. -/
def stageOutElem (n h : Nat) (s : State) (x : Nat × ElemTab) : State :=
  let c := cfgOf n h
  let el := x.1
  let e := elemOf s el
  let mine (k : QTok) := graphOfTag s k.tok.ctx k.tok.tag == some h && k.tok.ctx == n
  let flight (q : Nat) (k : QTok) : Flight := { tok := k.tok, dest := .slot el k.slot k.field .keep (q == 3), src := el }
  let ring := (regionOf s (elemRegion el)).spill
  let here (y : Nat × QTok) := y.1 / 4 == el && mine y.2
  let early := (e.reorder.filter mine).map fun k => flight k.field k
  let out := early ++ e.queues.flatMap (fun q => (q.2.filter mine).map (flight q.1)) ++ (ring.filter here).map fun y => flight (y.1 % 4) y.2
  let s := setElem s el { e with
    parts := e.parts.filter (·.cfg != c), spilled := e.spilled ++ e.parts.filter (·.cfg == c)
    queues := mapVals (fun _ q => q.filter (!mine ·)) e.queues, reorder := e.reorder.filter (!mine ·) }
  let s := modRegion s (elemRegion el) fun g => { g with spill := g.spill.filter (!here ·) }
  let bound := (usedSlots x.2).filterMap fun k => match (stageOf s n h).bind fun p => lookup none e.streamTag (key16 p.v k) with
    | some t => some (el, k, t)
    | none => none
  modGraph s n h fun g => { g with parkedTokens := g.parkedTokens ++ out, parkedStreams := g.parkedStreams ++ bound }

/-- A stage's placement changed. -/
def setStage (s : State) (n h : Nat) (f : Placement → Placement) : State :=
  modGraph s n h fun g => { g with places := g.places.map f }

/-- The stage goes out: its parts are spilled, its tokens parked, its tables taken out of its version. -/
def stageOut (s : State) (n h : Nat) (p : Placement) : State :=
  let g := (graphOf s n h).config
  let s := (tabElems g p).foldl (stageOutElem n h) s
  let s := (tabElems g p).foldl (clearTab p) s
  modGraph (setStage s n h fun p => { p with swapped := true }) n h fun g => { g with idle := false, yielded := false }

/-- A part of a stage with V of its tokens rewritten. -/
def revision (v : Bool) (p : FramePart) : FramePart :=
  { p with fields := mapVals (fun _ f => match f with
      | some (.tok t) => some (.tok { t with v := v })
      | some (.acc t k d) => some (.acc { t with v := v } k d)
      | f => f) p.fields }

/-- The stage comes in, into version `v`, once every store of the region has performed at DEV (R211): its tables are written and its
parked tokens released with V rewritten. -/
def stageIn (s : State) (n h : Nat) (v : Bool) (p : Placement) : State :=
  let g := graphOf s n h
  let s := settleStores s (originRegion p)
  let p := { p with v := v, swapped := false }
  let s := setStage s n h fun _ => p
  let s := (tabElems g.config p).foldl (placeTab (cfgOf n h) p) s
  let s := (tabElems g.config p).foldl (fun s x => modElem s x.1 fun e => { e with
    spilled := e.spilled.map fun q => if q.cfg == cfgOf n h then revision v q else q
    parked := e.parked.map fun q => if graphOfTag s n q.tok.tag == some h then { q with tok := { q.tok with v := v } } else q }) s
  let s := g.parkedStreams.foldl (fun s b => modElem s b.1 fun e => { e with
    streamTag := store e.streamTag (key16 v b.2.1) (some b.2.2) }) s
  let s := { s with net := s.net ++ g.parkedTokens.map fun f => { f with tok := { f.tok with v := v } } }
  progress (regionEvent (modGraph s n h fun g => { g with parkedTokens := [], parkedStreams := [] }) n h (originRegion p) 2 v) n

/-- A stage may be swapped out: its input is empty and has been for 1 µs, or YIELD has said so. -/
def mayLeave (s : State) (g : Graph) (p : Placement) : Bool := g.yielded || (g.idle && inputIdle s g.config p)

/-- Step 3 and 4: the incoming stage takes the version the outgoing one had, once its count is zero and no stage of the
footprint has it. -/
def stageEnter (s : State) (n out inn : Nat) : State :=
  match stageOf s n out, stageOf s n inn with
  | some p, some p' =>
    let g := (graphOf s n out).config
    let g' := (graphOf s n inn).config
    if p.swapped && p'.swapped && p.queue == p'.queue && sameFootprint (g, p) (g', p') && !stageTaken s n g' { p' with v := p.v } &&
      versionFree s (originRegion p) p.v then endTask (stageIn s n inn p.v p') (.swap n out inn)
    else s
  | _, _ => endTask s (.swap n out inn)

/-- A stage swap, as far as it goes now (R117): a task of the region's manager from its first step to its last (R105). One that
a save has abandoned is taken up where it stood (R133). -/
def stageSwap (s : State) (n out inn : Nat) : State :=
  match stageOf s n out with
  | none => s
  | some p =>
    let r := originRegion p
    let task := ManagerTask.swap n out inn
    let begin_ (s : State) : State := modRegion s r fun g => { g with task := some task }
    if !regionRuns s r n || !(managerIdle s r || (regionOf s r).task == some task) then s
    else if (regionOf s r).task == some task then stageEnter s n out inn
    else if p.swapped then
      if nextStage (stageWaiters s n (graphOf s n out).config p) == some inn && !stageTaken s n (graphOf s n out).config p then
        stageEnter (begin_ s) n out inn
      else s
    else if mayLeave s (graphOf s n out) p && nextStage (stageWaiters s n (graphOf s n out).config p) == some inn then
      stageEnter (begin_ (stageOut s n out p)) n out inn
    else s

/-- RM_STAGE_SWAP (R117). -/
def execRmStageSwap (n out inn : Nat) (s : State) : Answer := .next (holdForTrace s (stageSwap s n out inn) n)

end Sys2Proof.Machine
end

