-- ==== Sys2Proof/Machine/DataRings.lean ====
section
/-! DEFINITION. Data rings and streams (R83 to R101): doorbells, the registers that start and stop a ring, data packets,
the shuffle's walk through a SPAN, packing, publication, and the life of a stream. A stream follows the queue of its
graph (notes/assumptions/13). -/

namespace Sys2Proof.Machine

/-! ### State (R84, R85, R101) -/

/-- The state is none that a ladder, a fault or the link has set. -/
def plainRing (d : DataRing) : Bool := d.state == .idle || d.state == .run || d.state == .parkedFault

/-- STATE as DRSTAT shows it. -/
def dringState (d : DataRing) : QState :=
  if !plainRing d then d.state
  else if d.parkedPage.isSome then .parkedFault
  else if d.tag.isSome || !d.closings.isEmpty || (d.enable && d.prod != d.fetch) then .run
  else .idle

/-- FAULT as DRSTAT shows it. -/
def dringFaultShown (d : DataRing) : Byte := if plainRing d && d.parkedPage.isSome then 0x10 else d.fault

/-- A ring fetches: enabled, in a plain state, not parked, its host link up, no HOLD. -/
def dringGoes (s : State) (n : Nat) (d : DataRing) : Bool :=
  d.enable && plainRing d && d.parkedPage.isNone && (!d.host || s.dev.linkUp) && !(partOf s n).hold

/-- Bytes read in the ring's space, with their poison; a place of the host holds them while the link is down (R24). -/
def dringRead (s : State) (n : Nat) (r : DataRing) (va len : Nat) : Except Xlate (List (Byte × Bool)) :=
  match placesVia (dringXlate s n r .read) va len with
  | .error x => .error x
  | .ok ps =>
    if hostHeld s ps then .error (.at ⟨true, va⟩) else .ok (ps.map fun p => ((load s p 1).headD 0, poisoned s p))

/-! ### Doorbell (R83) -/

/-- A write to a data ring's doorbell as the ingress unit takes it. -/
def ringBell (s : State) (n d : Nat) (v : BitVec 32) : State :=
  let r := dringOf s n d
  if (v - r.p).toNat ≤ 2 ^ r.rlog2 then modDring s n d fun r => { r with prod := v }
  else ingressEvent (modDring s n d fun r => { r with doorbellErrors := r.doorbellErrors + 1 }) r.unit n d 3

/-- A write to a data ring's doorbell: taken at once, or, while the unit holds for trace room (R150), in its turn. -/
def dataDoorbell (s : State) (n d : Nat) (v : BitVec 32) : State :=
  let s' := ringBell s n d v
  if (dringOf s n d).bells.isEmpty && !traceHolds s s' n then s'
  else modDring (if traceHolds s s' n then holdForTrace s s' n else s) n d fun r => { r with bells := r.bells ++ [v] }

/-- The oldest doorbell write that waits is taken, if the unit does not hold before it. -/
def takeBell (s : State) (n d : Nat) : State :=
  match (dringOf s n d).bells with
  | [] => s
  | v :: rest => holdForTrace s (ringBell (modDring s n d fun r => { r with bells := rest }) n d v) n

/-- DATA_DOORBELL_WRITE (R83). -/
def execDataDoorbellWrite (n d : Nat) (v : BitVec 32) (s : State) : Answer := .next (dataDoorbell s n d v)

/-! ### Publication (R90) -/

/-- Index of the next packet that the ring fetches: one past a packet in hand (R57, R83). -/
def nextFetch (d : DataRing) : BitVec 32 := if d.packet.isSome then d.fetch + 1 else d.fetch

/-- The packet in hand is consumed once its samples have been read. -/
def consumePacket (s : State) (n d : Nat) : State :=
  let r := dringOf s n d
  if !r.delivered || r.parkedPage.isSome then s
  else
    let c := r.consumed + 1
    let pub := bit (leNat ((r.packet.getD []).take 8)) 8
    let s := modDring s n d fun r => { r with consumed := c, fetch := r.fetch + 1, packet := none, delivered := false, spanPos := 0, samplePos := 0 }
    if c.toNat % 2 ^ r.pubk = 0 || pub then publish s n d else s

/-- DATA_PACKET_CONSUMED (R90): of the ring in hand. -/
def execDataPacketConsumed (s : State) : Answer := .next (consumePacket s s.hand.1 s.hand.2)

/-! ### Rows and the stream's tokens (R94, R96) -/

/-- The configuration's version where a destination is. -/
def versionAt (s : State) (n h : Nat) (d : Dest) : Bool :=
  match d with
  | .slot el _ _ _ _ => match placementAt s (cfgOf n h) el with | some p => p.v | none => false
  | _ => false

/-- A stream's token on its way to a destination of its ring. -/
def sendRing (s : State) (n d : Nat) (dst : Dest) (t : Token) : State :=
  let r := dringOf s n d
  let el := match dst with | .slot el _ _ _ _ => el | _ => 0
  let floor := if elemDie el = r.unit then 0 else dieTT s r.unit + 1
  sendTok s el { t with tag := r.tag.getD 0, ctx := n, v := versionAt s n r.graph dst, floor := floor } dst

/-- FMT of a ring's elements. -/
def ringFmt (r : DataRing) : Fmt := if r.f32 then .f32 else .i32

/-- Rows sent: data, and marks where the ring asks for them. -/
def sendRingRows (n d : Nat) (s : State) (rows : List (Nat × List PackElt)) : State :=
  let r := dringOf s n d
  match r.bound with
  | none => s
  | some (data, marks) => rows.foldl (fun s row =>
      let s := (rowTokens (ringFmt r) row.1 row.2).foldl (fun s t => sendRing s n d data t) s
      if r.marks then (markTokens row.1 row.2).foldl (fun s t => sendRing s n d marks t) s else s) s

/-- The open row closed and EOS sent; the stream completes later (R96, R99). -/
def closeStream (s : State) (n d : Nat) : State :=
  let r := dringOf s n d
  match r.bound, r.tag with
  | some (data, marks), some t =>
    let s := sendRingRows n d s (flushRow (r.packer.getD { rowLen := r.rowLen })).2
    let s := sendRing s n d data (eosTok (ringFmt r))
    let s := if r.marks then sendRing s n d marks (eosTok .i32) else s
    modDring s n d fun r => { r with tag := none, bound := none, packer := none, opening := false, closeNext := false
                                     closings := r.closings ++ [t] }
  | _, _ => s

/-! ### Data packets (R86 to R88) -/

/-- What is wrong with a data packet's header. -/
def dataHeadBad (r : DataRing) (bs : List Byte) : Bool :=
  let h := leNat (bs.take 8)
  bits h 31 9 != 0 || !([0x21, 0x22, 0x23].contains (bits h 7 0)) || bits h 63 32 != r.fetch.toNat

/-- Field of a data packet's body. -/
def dataField (bs : List Byte) (off n : Nat) : Nat := fieldAt bs (8 + off) n

/-- What is wrong with a data packet's body. -/
def dataBodyBad (bs : List Byte) : Bool :=
  let f := dataField bs
  match bits (leNat (bs.take 8)) 7 0 with
  | 0x21 => f 0 8 % 16 != 0 || f 16 4 == 0 || f 24 4 == 0 || f 16 4 < f 20 4 + f 24 4 || !zeros (bs.drop 40)
  | 0x22 => f 0 8 % 4 != 0 || f 8 4 == 0 || 32767 < f 8 4 || !zeros (bs.drop 20)
  | _ => !zeros (bs.drop 8)

/-- The packet at the fetch index brought in, if one is published; it is refused where it is malformed. -/
def fetchData (s : State) (n d : Nat) : State :=
  let r := dringOf s n d
  if !dringGoes s n r || r.packet.isSome || r.prod == r.fetch then s
  else match dringRead s n r (r.base + 64 * (r.fetch.toNat % 2 ^ r.rlog2)) 64 with
    | .error x => dringStop s n d x
    | .ok bs =>
      let bs := bs.map (·.1)
      if dataHeadBad r bs || dataBodyBad bs then dringFault s n d 0x33
      else modDring s n d fun r => { r with packet := some bs }

/-- What is done with a packet of a type at the fetch index of the ring in hand, once its stream is bound. -/
def onData (s : State) (type : Nat) (f : State → Nat → Nat → DataRing → List Byte → State) : State :=
  let (n, d) := s.hand
  let s := fetchData s n d
  let r := dringOf s n d
  match r.packet with
  | none => s
  | some bs =>
    if bits (leNat (bs.take 8)) 7 0 != type || r.delivered || r.bound.isNone || !dringGoes s n r then s
    else holdForTrace s (f s n d r bs) n

/-- The elements of a sample read one after the other, up to one that cannot be. -/
def readElts (s : State) (n : Nat) (r : DataRing) : Nat → Nat → List SampleElt × Option Xlate
  | _, 0 => ([], none)
  | va, k + 1 => match dringRead s n r va 4 with
    | .error x => ([], some x)
    | .ok w =>
      let (es, stop) := readElts s n r (va + 4) k
      ((BitVec.ofNat 32 (leNat (w.map (·.1))), true, w.any (·.2)) :: es, stop)

/-- The sample in hand read and packed from where it stands, and the rows that close sent; `past` where it is whole, and
otherwise the ring stops at the element that could not be read (R100). -/
def takeSample (s : State) (n d addr len : Nat) (past : State → State) : State :=
  let r := dringOf s n d
  let (es, stop) := readElts s n r (addr + 4 * r.samplePos) (len - r.samplePos)
  let (p, rows) := if es.isEmpty then (r.packer.getD { rowLen := r.rowLen }, [])
    else packPart (r.packer.getD { rowLen := r.rowLen }) len r.samplePos es
  let s := sendRingRows n d (modDring s n d fun r => { r with packer := some p, samplePos := r.samplePos + es.length }) rows
  match stop with
  | some x => dringStop s n d x
  | none => past (modDring s n d fun r => { r with samplePos := 0 })

/-- SAMPLE (R88). -/
def execSample (s : State) : Answer :=
  .next (onData s 0x22 fun s n d _ bs => takeSample s n d (dataField bs 0 8) (dataField bs 8 4) fun s =>
    modDring s n d fun r => { r with delivered := true })

/-- An entry of a table is one that is skipped (R88). -/
def entrySkipped (e : List Byte) : Bool :=
  fieldAt e 0 8 % 4 != 0 || fieldAt e 8 4 == 0 || 32767 < fieldAt e 8 4 || fieldAt e 12 4 != 0

/-- The next entry of a SPAN delivered (R87, R88, R95). -/
def spanStep (s : State) (n d : Nat) (r : DataRing) (bs : List Byte) : State :=
  let f := dataField bs
  let idx := shidx (f 16 4) (shuffleKeys (f 8 8) (f 28 4)) (f 20 4 + r.spanPos)
  let past (s : State) : State := modDring s n d fun r => { r with spanPos := r.spanPos + 1, delivered := r.spanPos + 1 == f 24 4 }
  match dringRead s n r (f 0 8 + 16 * idx) 16 with
  | .error x => dringStop s n d x
  | .ok e =>
    let e := e.map (·.1)
    if entrySkipped e then
      past (ingressEvent (modDring s n d fun r => { r with skip := satAdd r.skip 1 }) r.unit n d 2)
    else takeSample s n d (fieldAt e 0 8) (fieldAt e 8 4) past

/-- SPAN (R87): the next of its samples. -/
def execSpan (s : State) : Answer := .next (onData s 0x21 spanStep)

/-- FLUSH (R96). -/
def execFlush (s : State) : Answer :=
  .next (onData s 0x23 fun s n d _ _ => modDring (closeStream s n d) n d fun r => { r with delivered := true })

/-! ### Streams (R92, R93, R99) -/

/-- A stream begins, with an acquire at SYS by the regions that its graph is placed in: a tag is taken and the opening token
presented; a graph that is not live faults the ring. -/
def openStream (s : State) (n d : Nat) : State :=
  let s := fetchData s n d
  let r := dringOf s n d
  if r.packet.isNone || r.delivered || r.tag.isSome || !dringGoes s n r then s
  else match newTag s n fun u => { alloc := true, link := u, head := u } with
    | none => modDring s n d fun r => if r.stallAt.isSome then r else { r with stallAt := some (tt s) }
    | some (t, s) =>
      if (graphOf s n r.graph).life == .free then dringFault (freeTag s n t) n d 0x33 0xFF
      else
        let g := graphOf s n r.graph
        let s := g.places.foldl (fun s p => acquirePlace s g.config p) s
        ingressEvent (modDring s n d fun r => { r with tag := some t, opening := true, stallAt := none }) r.unit n d 0

/-- STREAM_OPEN (R92). -/
def execStreamOpen (s : State) : Answer :=
  let (n, d) := s.hand
  .next (holdForTrace s (openStream s n d) n)

/-- The target of a launch entry is a stream-mode slot (R93). -/
def launchStrm (g : GraphConfig) (l : Launch) : Bool :=
  match g.elems.find? fun e => e.x == l.x && e.y == l.y with
  | some e => bit (attrWord e l.slot) 1
  | none => false

/-- A launch entry's target where the graph is placed, reached through an edge port. -/
def launchDest (p : Placement) (l : Launch) : Dest := .slot (elemAt p.cluster (p.x0 + l.x) (p.y0 + l.y)) l.slot l.field .keep true

/-- A ring's stream flows: its state is plain, or it drains (R101). -/
def streamFlows (d : DataRing) : Bool := plainRing d || d.state == .draining

/-- The opening token is absorbed: the ring is bound to the targets of DENT and MENT, in regions that acquire at SYS, or faults
CONFIG_INVALID. A bound stream that was to be closed while its queue was away is closed (R85). -/
def bindStream (s : State) (n d : Nat) : State :=
  let r := dringOf s n d
  let g := graphOf s n r.graph
  if !streamFlows r then s
  else if !r.opening then if r.closeNext then closeStream s n d else s
  else if g.life == .free then dringFault s n d 0x33 0xFF
  else if g.life == .loading then s
  else
    let bad (k : Nat) : Bool := match g.config.launch[k]? with | none => true | some l => !launchStrm g.config l
    if bad r.dent || (r.marks && bad r.ment) then dringFault s n d 0x30
    else match (List.range 4).findSome? fun q => readyPlace s n q r.graph, g.config.launch[r.dent]? with
      | some p, some l =>
        let marks := match g.config.launch[r.ment]? with | some m => launchDest p m | none => launchDest p l
        let s := modDring (acquirePlace s g.config p) n d fun r => { r with opening := false, bound := some (launchDest p l, marks), packer := some { rowLen := r.rowLen } }
        if r.closeNext then closeStream s n d else s
      | _, _ => s

/-- STREAM_BIND (R92). -/
def execStreamBind (s : State) : Answer :=
  let (n, d) := s.hand
  .next (holdForTrace s (bindStream s n d) n)

/-- The first closed stream whose tag is quiescent completes, once its stores have performed at SYS. R99 names the stream's tag: the tags that its firings allocate
are not counted (the model's choice: notes/assumptions/13). -/
def completeStream (s : State) (n d : Nat) : State :=
  let r := dringOf s n d
  if r.state == .resetting then s
  else match r.closings.find? fun t => liveCount s n t == 0, releaseQueue s n (dringQueue s n r) with
  | some t, some s =>
    let s := freeTag s n t
    let s := modDring s n d fun r => { r with closings := r.closings.filter (· != t), streams := r.streams + 1 }
    let s := ingressEvent s r.unit n d 1
    if r.irqEn then signal s n r.vector else s
  | _, _ => s

/-- STREAM_COMPLETE (R99). -/
def execStreamComplete (s : State) : Answer :=
  let (n, d) := s.hand
  .next (holdForTrace s (completeStream s n d) n)

/-! ### DRCTL (R84, R85, R101) -/

/-- The fields of DRCTL that are kept. -/
def putDrctl (v : Nat) (r : DataRing) : DataRing :=
  { r with unit := bits v 1 1, pubk := bits v 5 2, rlog2 := bits v 10 6, host := bit v 11, pasid := bits v 31 12, f32 := bit v 32
           marks := bit v 33 }

/-- A ring may be enabled (R85), the ingress units being active (R36). -/
def dringValid (s : State) (r : DataRing) : Bool :=
  4 ≤ r.rlog2 && r.rlog2 ≤ 16 && r.pubk ≤ 10 && rowLenOk r.rowLen && r.graph != 0 && dringState r == .idle && featOn s 7

/-- DRCTL written with ENABLE 1: the fields as written while the ring is off, and a valid idle ring starts. -/
def enableDring (s : State) (n d : Nat) (v : Nat) : State :=
  if (dringOf s n d).enable then s
  else
    let s := modDring s n d (putDrctl v)
    if bit v 0 && dringValid s (dringOf s n d) then
      modDring s n d fun r => { r with
        enable := true, fault := 0, detail := 0, p := 0, fetch := 0, prod := 0, consumed := 0, packet := none, delivered := false
        spanPos := 0, samplePos := 0, stallAt := none }
    else s

/-- DRCTL_ENABLE_SET (R85). -/
def execDrctlEnableSet (n d : Nat) (v : BitVec 64) (s : State) : Answer := .next (enableDring s n d v.toNat)

/-- ENABLE cleared: fetch stops, P goes to the consumed count, and the open stream is closed as by a FLUSH, once it is
bound and its queue is not away. -/
def disableDring (s : State) (n d : Nat) : State :=
  if !(dringOf s n d).enable then s
  else
    let s := modDring s n d fun r => { r with
      enable := false, packet := none, delivered := false, spanPos := 0, samplePos := 0, parkedPage := none, stallAt := none
      closeNext := r.tag.isSome }
    let s := publish s n d
    if streamFlows (dringOf s n d) || (dringOf s n d).state == .error then closeStream s n d else s

/-- DRCTL_ENABLE_CLEAR (R85). -/
def execDrctlEnableClear (n d : Nat) (s : State) : Answer := .next (disableDring s n d)

/-- Resume of a saved data ring (R85), unless the partition is held (R129): it goes on, or, where its queue's context is
still away, goes on with the restore of that, with the same tokens (R101). -/
def resumeDring (s : State) (n d : Nat) : State :=
  let r := dringOf s n d
  if (r.state == .saved || r.state == .recovery) && !(partOf s n).hold then
    if (queueOf s n (dringQueue s n r)).savedCtx then modDring s n d fun r => { r with state := .saved, rung := 2, held := false }
    else modDring s n d fun r => { r with state := .idle, rung := 0, fault := 0, held := false }
  else s

/-- DRCTL_CMD_RESUME (R85). -/
def execDrctlCmdResume (n d : Nat) (s : State) : Answer := .next (resumeDring s n d)

/-- CMD reset of a data ring (R81, R85): RESETTING, with ENABLE 0 and P as R90 has it. -/
def startRingReset (s : State) (n d : Nat) : State :=
  let s := if (dringOf s n d).enable then publish s n d else s
  modDring s n d fun r => { r with enable := false, state := .resetting, rung := 3, fault := 0, detail := 0, packet := none, delivered := false
                                   stallAt := none, parkedPage := none }

/-- Its end (R81, R101): the ring's state is lost and it is IDLE. -/
def ringResetDone (s : State) (n d : Nat) : State :=
  if (dringOf s n d).state == .resetting then holdForTrace s (resetDring s n d) n else s

/-- DRCTL_CMD_RESET (R101). -/
def execDrctlCmdReset (n d : Nat) (s : State) : Answer := .next (startRingReset s n d)

/-! ### The tag-stall watchdog (R70, R92) -/

/-- A stream's opening has waited 10 ms for a tag: the ring goes to ERROR. -/
def dringTagStall (s : State) (n d : Nat) : State :=
  match (dringOf s n d).stallAt with
  | some t => if (tt s - t).toNat < tenMs then s else dringFault s n d 0x23
  | none => s

/-- TAG_STALL_WATCHDOG (R70): of queue `k` in hand below 4, or of data ring `k` − 4. -/
def execTagStallWatchdog (s : State) : Answer :=
  let (n, k) := s.hand
  .next (if (partOf s n).trace.stalled then s else if k < 4 then queueTagStall s n k else dringTagStall s n (k - 4))

end Sys2Proof.Machine
end

