-- ==== Sys2Proof/Machine/Paging.lean ====
section
/-! DEFINITION. Translation events (R77, R79, R100, R123, R197 to R201, R348): walks, the resolution and replay of parked
accesses, ATS and PRI, invalidation, and the memory controllers' events. -/

namespace Sys2Proof.Machine

/-! ### What waits on a page -/

def waitsFor (page : Nat) (p : Option Nat) : Bool := p == some page

/-- Queues, rings and data rings of a partition that wait on a page. -/
def ringWaiters (s : State) (n page : Nat) : List (Nat × Nat) :=
  (partOf s n).queues.flatMap fun u => (u.2.rings.filter fun r => waitsFor page r.2.parkedPage).map fun r => (u.1, r.1)

/-- The accesses of a partition that wait on a page, each by the die whose memory management complex serves it (R7): a
region's by the region, a data ring's by its ingress unit, the front end's and the loader's by the kingside. -/
def waiters (s : State) (n page : Nat) : List Nat :=
  let p := partOf s n
  let front (b : Bool) : List Nat := if b then [0] else []
  (s.reqs.filter fun r => reqPart r == n && waitsFor page r.parked).map (fun r => elemDie r.el) ++
  (s.cmds.filter (·.part == n)).flatMap (fun c => (c.pages.filter (· == page)).map fun _ => regionDie c.region) ++
  (s.copies.filter (·.part == n)).flatMap (fun c => (c.left.filter fun x => waitsFor page x.2).map fun _ => regionDie c.region) ++
  (ringWaiters s n page).map (fun _ => 0) ++
  p.queues.flatMap (fun u => front (waitsFor page u.2.vPage) ++ front (waitsFor page u.2.cplPage)) ++
  p.rings.flatMap (fun d => (if waitsFor page d.2.parkedPage then [d.2.unit] else []) ++ if waitsFor page d.2.pubPage then [d.2.unit] else []) ++ front (waitsFor page p.mbx.parked) ++
  (p.graphs.filter fun g => waitsFor page g.2.parkedPage).map fun _ => 0

/-- The pages that accesses of a partition wait on. -/
def awaited (s : State) (n : Nat) : List Nat :=
  let p := partOf s n
  ((s.reqs.filter (reqPart · == n)).filterMap (·.parked) ++ (s.cmds.filter (·.part == n)).flatMap (·.pages) ++
    (s.copies.filter (·.part == n)).flatMap (fun c => c.left.filterMap (·.2)) ++
    p.queues.flatMap (fun u => u.2.rings.filterMap (·.2.parkedPage) ++ u.2.vPage.toList ++ u.2.cplPage.toList) ++
    p.rings.filterMap (·.2.parkedPage) ++ p.rings.filterMap (·.2.pubPage) ++ p.mbx.parked.toList ++ p.graphs.filterMap (·.2.parkedPage)).eraseDups

/-- The fault of a page. -/
def faultOf (s : State) (n page : Nat) : Option PageFault := s.pageFaults.find? fun f => f.part == n && f.page == page

/-- PAGE events of a code, one for each access that waits; where none does, one from the complex that met the fault. -/
def pageEvents (s : State) (n code page : Nat) : State :=
  let dies := match waiters s n page with
    | [] => [match faultOf s n page with | some f => f.die | none => 0]
    | l => l
  dies.foldl (fun s die => pageEvent s die n code page) s

/-! ### Replay -/

/-- A page no longer waited for by what retries by itself. -/
def unmark (page : Nat) (p : Option Nat) : Option Nat := if waitsFor page p then none else p

/-- A ring resumes (R77). -/
def resumeRing (n : Nat) (s : State) (x : Nat × Nat) : State :=
  let (q, i) := x
  queueEvent (modRing s n q i fun r => { r with rstat := .active, parkedPage := none }) n q i 5 (queueOf s n q).nextSeq

/-- Everything of a partition that waits on a page tries again. -/
def unpark (s : State) (n page : Nat) : State :=
  let s := (ringWaiters s n page).foldl (resumeRing n) s
  let clear := unmark page
  let s := { s with
    reqs := s.reqs.map fun r => if reqPart r == n && waitsFor page r.parked then { r with parked := none, replay := some page } else r
    cmds := s.cmds.map fun c => if c.part == n then c.mapPages clear else c
    copies := s.copies.map fun c => if c.part == n then { c with left := c.left.map fun x => (x.1, clear x.2) } else c }
  let s := modPart s n fun p => { p with
    queues := mapVals (fun _ u => { u with vPage := clear u.vPage, cplPage := clear u.cplPage }) p.queues
    rings := mapVals (fun _ d => { d with parkedPage := clear d.parkedPage, pubPage := clear d.pubPage }) p.rings
    mbx := { p.mbx with parked := clear p.mbx.parked }
    graphs := mapVals (fun _ g => { g with parkedPage := clear g.parkedPage }) p.graphs }
  let s := ((partOf s n).rings.map (·.1)).foldl (fun s d => flushPubs s n d) s
  flushReserve ([0, 1, 2, 3].foldl (fun s q => flushCpl s n q) s) n

/-- The entry of a page taken off the list of faults. -/
def dropFault (s : State) (n page : Nat) : State :=
  { s with pageFaults := s.pageFaults.filter fun f => !(f.part == n && f.page == page) }

/-- The entry of a page changed. -/
def modFault (s : State) (n page : Nat) (f : PageFault → PageFault) : State :=
  { s with pageFaults := s.pageFaults.map fun x => if x.part == n && x.page == page then f x else x }

/-! ### A fault that cannot be resolved (R200) -/

/-- A parked ring faults (R77): what it was reading is the packet that cannot be read. -/
def faultRing (n : Nat) (s : State) (x : Nat × Nat) : State :=
  ringFault s n x.1 (nextUnread (ringOf s n x.1 x.2) x.2)

/-- The head packet whose address waits on a page faults: RING_FAULT, or PERM for a report's address
(notes/assumptions/12). -/
def faultHead (n page : Nat) (s : State) (q : Nat) : State :=
  let u := queueOf s n q
  let s := if !waitsFor page u.vPage then s
    else
      let s := modQueue s n q fun u => { u with vPage := none }
      match u.merged with
      | p :: _ => if p.type = 7 then raise s { code := 0x11, part := n, tag := none, queue := some q } else packetFault s n q p 0x32 p.ring
      | [] => s
  if waitsFor page u.cplPage then queueError (modQueue s n q fun u => { u with cplPage := none, cplFailed := true }) n q 0x32 0x40 else s

/-- A graph's task that waits on a page ends: a load fails; an EVICT goes on without what it could not write back. -/
def faultGraph (n : Nat) (s : State) (h : Nat) : State :=
  let g := graphOf s n h
  if g.life == .loading then failLoad (endTask s (.load n h)) n h headerDetail
  else
    let s := endGraph s n h
    match graphPacket s n g with
    | some p => completePacket s n g.queue p
    | none => s

/-- Everything of a partition that waits on a page faults: an access PERM, a ring or packet RING_FAULT. -/
def makePerm (s : State) (n page : Nat) : State :=
  let held := (waiters s n page).isEmpty
  let s := pageEvents s n 2 page
  let reqs := s.reqs.filter fun r => reqPart r == n && waitsFor page r.parked
  let cmds := s.cmds.filter fun c => c.part == n && c.pages.contains page
  let copies := s.copies.filter fun c => c.part == n && c.left.any fun x => waitsFor page x.2
  let drings := ((partOf s n).rings.filter fun d => waitsFor page d.2.parkedPage).map (·.1)
  let pubs := ((partOf s n).rings.filter fun d => waitsFor page d.2.pubPage).map (·.1)
  let graphs := ((partOf s n).graphs.filter fun g => waitsFor page g.2.parkedPage).map (·.1)
  let box := waitsFor page (partOf s n).mbx.parked
  let s := { s with
    reqs := s.reqs.filter fun r => !(reqPart r == n && waitsFor page r.parked)
    copies := s.copies.filter fun c => !(c.part == n && c.left.any fun x => waitsFor page x.2) }
  let s := reqs.foldl (fun s r => elemFault s r.el r.v r.slot n r.hdr.tag 0x11) s
  let s := cmds.foldl (fun s c => cmdFault s c 0x11) s
  let s := copies.foldl copyFault s
  let s := (ringWaiters s n page).foldl (faultRing n) s
  let s := [0, 1, 2, 3].foldl (faultHead n page) s
  let s := drings.foldl (fun s d => dringFault s n d 0x32) s
  let s := pubs.foldl (fun s d =>
    let s := modDring s n d fun r => { r with pubs := [], pubPage := none }
    if (dringOf s n d).enable then dringFault s n d 0x32 else s) s
  let s := graphs.foldl (faultGraph n) s
  let s := if box then mbxFail s n else s
  if held then modFault s n page fun f => { f with resolved := false, again := true } else dropFault s n page

/-! ### RM_RESOLVE, FAULT_REPLAY, PRI (R200) -/

/-- The manager's Resolve: it writes the entry it is given, or gives the fault up. -/
def resolveFault (s : State) (n page : Nat) (pte : Option (BitVec 64)) : State :=
  match faultOf s n page with
  | none => s
  | some f =>
    match pte with
    | none => progress (makePerm s n page) n
    | some w =>
      let s := if f.pteAddr = 0 then s else save s ⟨f.pteHost, f.pteAddr⟩ (leBytes 8 w.toNat)
      progress (modFault s n page fun f => { f with resolved := true, again := false }) n

/-- RM_RESOLVE (R200): a task, of one step, of a manager that is between two tasks (R105). -/
def execRmResolve (n page : Nat) (pte : Option (BitVec 64)) (s : State) : Answer :=
  .next (if (loadManager s).isSome then resolveFault s n page pte else s)

/-- A host page's number is above every page of a partition (R201). -/
def isHostPage (page : Nat) : Bool := 2 ^ 52 ≤ page

/-- The accesses parked on a resolved page are replayed; one that finds V = 0 again becomes PERM. For a host address the
host is asked again, and its answer lets them go on (R201). -/
def replayFault (s : State) (n page : Nat) : State :=
  match faultOf s n page with
  | none => s
  | some f =>
    if !f.resolved then s
    else
      let absent := !isHostPage page && (match resolve s f.die n (page * 4096) with | .absent _ => true | _ => false)
      if absent then makePerm s n page
      else if isHostPage page then
        askHost (modFault { s with ats := erase s.ats page } n page fun f => { f with resolved := false, again := true }) page
      else unpark (dropFault (pageEvents s n 1 page) n page) n page

/-- FAULT_REPLAY (R200). -/
def execFaultReplay (n page : Nat) (s : State) : Answer := .next (replayFault s n page)

/-- The page requests that PRI has outstanding (R13): at most 512, in the order the faults came. -/
def priAsked (s : State) : List PageFault := (s.pageFaults.filter fun f => isHostPage f.page && !f.resolved && !f.again).take 512

/-- PRI_PAGE_RESPONSE (R200): to a host page's fault whose request is outstanding, or to one of device memory that the
manager has put to the host. -/
def execPriPageResponse (n page : Nat) (ok : Bool) (s : State) : Answer :=
  .next (match faultOf s n page with
    | none => s
    | some f => if isHostPage page && !(priAsked s).contains f then s else if ok then modFault s n page fun f => { f with resolved := true, again := false } else makePerm s n page)

/-! ### ATS (R201) -/

/-- The partitions that wait on a host page, now or with saved accesses (R123). -/
def hostWaiters (s : State) (hp : Nat) : List Nat :=
  ((s.parts.map (·.1)).filter fun n => !(waiters s n hp).isEmpty || (faultOf s n hp).isSome)

/-- A host page that is not present: each partition's accesses park for PRI; a second such answer after a replay is PERM. -/
def hostAbsent (hp : Nat) (s : State) (n : Nat) : State :=
  match faultOf s n hp with
  | some f => if f.again then makePerm s n hp else s
  | none => parkOn s 0 n hp ⟨true, 0⟩

/-- A host page that is present: the accesses whose fault has been resolved are replayed, with their events, and those that
only missed go on. -/
def hostPresent (hp : Nat) (s : State) (n : Nat) : State :=
  let s := if (faultOf s n hp).isSome then pageEvents s n 1 hp else s
  unpark (dropFault s n hp) n hp

/-- The host's answer to an outstanding request, cached and acted on. -/
def atsAnswered (s : State) (hp : Nat) (answer : AtsAnswer) : State :=
  if !s.atsPending.contains hp then s
  else
    let s := { s with atsPending := s.atsPending.filter (· != hp), ats := store s.ats hp (some answer) }
    match answer with
    | .present _ _ _ => (hostWaiters s hp).foldl (hostPresent hp) s
    | .notPresent => (hostWaiters s hp).foldl (hostAbsent hp) s
    | .denied => (hostWaiters s hp).foldl (fun s n => makePerm s n hp) s

/-- ATS_TRANSLATION_RESPONSE (R201): of a page, by its PASID and number. -/
def execAtsTranslationResponse (pasid page : Nat) (answer : AtsAnswer) (s : State) : Answer :=
  .next (atsAnswered s (hostPage pasid (page * 4096)) answer)

/-- An access that has begun uses places of the host. -/
def begunOnHost (r : MemReq) : Bool :=
  match r.begun with
  | some x => x.1.any (·.2.any (·.host)) || x.2.any (·.host)
  | none => false

/-- The accesses that have begun with places of the host perform whole, with their scales. -/
def finishBegun (s : State) : State :=
  ((s.reqs.filter begunOnHost).map (·.ident)).foldl (fun s ident => match findPlace (·.ident == ident) s.reqs with
    | some k => respond s k
    | none => s) s

/-- ATS_INVALIDATION (R201): every access that used the old translation has performed, and the translation is dropped. -/
def execAtsInvalidation (pasid page : Nat) (s : State) : Answer :=
  let s := completeWhere (finishBegun s) toHost
  .next { s with ats := erase s.ats (hostPage pasid (page * 4096)) }

/-! ### Walks and TLBINV (R200, R201) -/

/-- A request that has reached its port and whose translation stops at a page that is not present. -/
def needsPage (s : State) (die n page : Nat) (r : MemReq) : Bool :=
  reqPart r == n && elemDie r.el == die && r.parked.isNone && (match perform s r with | .page (.absent _ p _) => p == page | _ => false)

/-- A walk of a die's memory management complex ends (R7): a leaf fills the TLBs; at an entry not present no translation stays cached (R18) and the first request
that needs the page parks. -/
def walkDone (s : State) (die n page : Nat) : State :=
  if !(partOf s n).ptEn then s
  else match walk s n (page * 4096 % 2 ^ 57) with
    | .leaf pte level => { s with tlb := store s.tlb (tlbKey die n (page * 4096 % 2 ^ 57)) (some (pte, level)) }
    | .absent _ =>
      let s := { s with tlb := erase s.tlb (tlbKey die n (page * 4096 % 2 ^ 57)) }
      match findPlace (needsPage s die n page) s.reqs with
      | some k => respond s k
      | none => s
    | .bad => s

/-- TRANSLATION_WALK (R200). -/
def execTranslationWalk (tables : WalkTables) (page : Nat) (s : State) : Answer :=
  .next (walkDone s tables.die tables.part page)

/-- Pages that a leaf maps (R199): 1 GiB, 2 MiB, 64 KiB of a CONT group, 4 KiB. -/
def leafPages (pte : DWord) (level : Nat) : Nat :=
  if level = 3 then 2 ^ 18 else if level = 4 then 2 ^ 9 else if pte.getLsbD 5 then 16 else 1

/-- Translations of a CTX dropped in both dies: of one page, with every cached one of the leaf that maps it, or of all. -/
def invalidate (s : State) (v : Nat) : State :=
  let n := bits v 4 0
  let maps (k : Nat) : Option (DWord × Nat) → Bool
    | some (pte, level) => k % 2 ^ 45 / leafPages pte level == bits v 56 12 / leafPages pte level
    | none => false
  let covered (page : Nat) : Bool := page == bits v 56 12 || s.tlb.any fun e =>
    e.1 % 2 ^ 51 / 2 ^ 45 == n && maps e.1 e.2 && (match e.2 with
      | some (pte, level) => e.1 % 2 ^ 45 / leafPages pte level == page / leafPages pte level
      | none => false)
  let gone (page : Nat) : Bool := page < 2 ^ 45 && (bit v 5 || covered page)
  let hit (e : Nat × Option (DWord × Nat)) : Bool := e.1 % 2 ^ 51 / 2 ^ 45 == n && (bit v 5 || maps e.1 e.2)
  { s with
    tlb := s.tlb.filter fun e => !hit e, dev := { s.dev with tlbinv := BitVec.ofNat 64 (bits v 5 0 + 2 ^ 12 * bits v 56 12) }
    reqs := s.reqs.map fun r => if reqPart r == n && r.begun.isSome && (reqPages s r).any gone then { r with stale := true } else r
    posted := s.posted.map fun po => if po.part == n && po.pages.any gone then { po with stale := true } else po }

/-- An access that used an invalidated translation has still to perform (R201): TLBINV's bit 63. -/
def invalidating (s : State) : Bool := s.reqs.any (·.stale) || s.posted.any (·.stale)

/-- TLBINV_WRITE (R201): ignored while bit 63 is 1. -/
def execTlbinvWrite (v : BitVec 64) (s : State) : Answer := .next (if invalidating s then s else invalidate s v.toNat)

/-! ### Memory controllers (R197, R198) -/

/-- MEMCTL event (R142) of a stack. -/
def memctlEvent (s : State) (stack pc code count : Nat) : State :=
  emitEvent s (stack / 4) (srcStack stack) 11 code 0 (stack % 8 + 8 * (pc % 32) + 256 * (count % 2 ^ 24))

/-- HBM_FORCED_REFRESH (R197). -/
def execHbmForcedRefresh (stack pc : Nat) (s : State) : Answer := .next (memctlEvent s stack pc 0 1)

/-- HBM_CORRECTED_ERROR (R197). -/
def execHbmCorrectedError (stack pc count : Nat) (s : State) : Answer := .next (memctlEvent s stack pc 1 count)

/-- HBM_UNCORRECTABLE_ERROR (R197): its granule is poisoned. -/
def execHbmUncorrectableError (pa pc : Nat) (s : State) : Answer :=
  .next (if pa < 0x8000000000 then memctlEvent (poisonAt s ⟨false, pa⟩) (bits pa 38 36) pc 2 1 else s)

/-- LATCTL_CLR (R198). -/
def execLatctlClr (r p : Nat) (s : State) : Answer := .next (modRegion s r fun g => { g with lat := erase g.lat p })

end Sys2Proof.Machine
end

