-- ==== Sys2Proof/Machine/Ladder.lean ====
section
/-! DEFINITION. The pre-emption ladder (R109, R121 to R125): the rungs, what a context is, and hand-over. -/

namespace Sys2Proof.Machine

/-! ### The ladder's rungs (R121 to R125) -/

/-- A live data ring's state as the ladder sets it; its tag stall begins afresh afterwards (R92). -/
def setFollower (st : QState) (d : DataRing) : DataRing :=
  if (d.enable || d.tag.isSome || !d.closings.isEmpty) && d.state != .error && d.state != .resetting then { d with state := st, stallAt := none } else d

/-- The first region of a queue, for its LADDER events. -/
def firstRegion (s : State) (n q : Nat) : Nat := (regionsOf s n q).headD 0

/-- The save of a queue that holds no region any more is complete (R121): SAVED, RUNG 2. -/
def finishSave (s : State) (n q r : Nat) : State :=
  let s := ladderEvent s n q r 4
  let s := modQueue s n q fun u => { u with state := .saved, rung := 2, savedCtx := true, holdSaved := (partOf s n).hold }
  let held := (partOf s n).hold
  modFollowers s n q fun d => if d.state == .saving then { d with state := .saved, rung := 2, held := held } else d

/-- A rung of a queue begins: the partition's stall time within it counts from 0 (R150). -/
def newRung (s : State) (n q : Nat) : State := modRingAt s n fun g => { g with rungStall := store g.rungStall q 0 }

/-- The regions of a queue take a state of the ladder; one that is still being cleared takes it afterwards. A stage swap that
rung 2 finds in progress is abandoned at its step (R133). -/
def setRegions (s : State) (n q : Nat) (st : RegState) : State :=
  (regionsOf s n q).foldl (fun s r => modRegion s r fun g => { g with
    state := if g.state == .clearing then .clearing else st
    task := match g.task with
      | some (.swap a b c) => if st == .saving then none else some (.swap a b c)
      | t => t }) s

/-- Rung 2 begins (R121, R123): the queue's regions freeze. -/
def startRung2 (s : State) (n q : Nat) : State :=
  let r := firstRegion s n q
  let s := forceLossy (ladderEvent (newRung s n q) n q r 2) n q
  let s := modQueue s n q fun u => { u with state := .saving, rungAt := tt s, stallAt := none, fireStallAt := none
                                            t2lim := if u.state == .draining then u.t2lim else u.t2us }
  let s := modFollowers (setRegions s n q .saving) n q (setFollower .saving)
  if (regionsOf s n q).isEmpty then finishSave s n q r else s

/-- Rung 1 begins: no packet is admitted, no stream opened, and no tag allocated, by firings neither (`resultTag`). -/
def startRung1 (s : State) (n q : Nat) : State :=
  let s := ladderEvent (newRung s n q) n q (firstRegion s n q) 1
  let s := modQueue s n q fun u => { u with state := .draining, rungAt := tt s, t1lim := u.t1us, t2lim := u.t2us
                                            stallAt := none, fireStallAt := none }
  modFollowers (setRegions s n q .draining) n q (setFollower .draining)

/-- A queue in ERROR whose activations still run goes through the ladder like any other, and shows ERROR again once that ends. -/
def errorInLadder (s : State) (n q : Nat) : State :=
  if (queueOf s n q).state == .error then modQueue s n q fun u => { u with errorDue := true } else s

/-- A queue enters the ladder (R121, R122); one that is in it goes on where it is (R133). A queue in ERROR with nothing
running gives its regions up. -/
def startLadder (s : State) (n q : Nat) : State :=
  let u := queueOf s n q
  if inLadder u then s
  else if u.state == .error && !(partOf s n).acts.any (·.queue == q) then (regionsOf s n q).foldl releaseRegion s
  else
    let s := errorInLadder s n q
    if u.noDrain then startRung2 s n q
  else startRung1 s n q

/-- The streams that follow a queue have ended. -/
def noStreams (s : State) (n q : Nat) : Bool :=
  (partOf s n).rings.all fun d => dringQueue s n d.2 != q || (d.2.tag.isNone && d.2.closings.isEmpty)

/-- A drained queue's regions are released: RUN, RUNG 1, with the data rings that follow it; under HOLD it is then saved
(R129). The FGE does so while it is not paused. -/
def drained (s : State) (n q : Nat) : State :=
  if (queueOf s n q).state != .draining || (partOf s n).acts.any (·.queue == q) || !noStreams s n q || fgePaused s then s
  else
    let s := (regionsOf s n q).foldl releaseRegion s
    let s := modQueue s n q fun u => { u with state := if u.errorDue then .error else .run, rung := 1, errorDue := false }
    let s := modFollowers s n q fun d => if d.state == .draining then { d with state := .run, rung := 1 } else d
    if (partOf s n).hold then startRung2 s n q else s

/-- DRAIN_COMPLETE (R121): of the queue in hand. -/
def execDrainComplete (s : State) : Answer := .next (drained s s.hand.1 s.hand.2)

/-! ### Deadlines (R104, R121, R127, R128) -/

/-- A deadline of `us` microseconds from the start of the rung has passed (R104). -/
def deadlinePassed (s : State) (u : Queue) (us : Nat) : Bool := us * 16000 ≤ (tt s - u.rungAt).toNat

/-- T1 or T2 of a queue has passed and may act: the FGE is not paused, nor the partition trace-stalled (R128). -/
def rungOver (s : State) (n q : Nat) : Bool :=
  let u := queueOf s n q
  !fgePaused s && !(partOf s n).trace.stalled &&
    ((u.state == .draining && deadlinePassed s u u.t1lim) || (u.state == .saving && deadlinePassed s u u.t2lim))

/-- A timer that takes effect more than 1 µs after its time is reported (R104, R142). -/
def lateTimer (s : State) (n q us : Nat) : State :=
  if deadlinePassed s (queueOf s n q) (us + 1) && (tt s - (queueOf s n q).rungAt).toNat != (us + 1) * 16000
  then schedEvent s 2 (firstRegion s n q) n q else s

/-- T1_DEADLINE (R121): of the queue in hand. -/
def execT1Deadline (s : State) : Answer :=
  let (n, q) := s.hand
  let u := queueOf s n q
  .next (if u.state == .draining && rungOver s n q then startRung2 (lateTimer s n q u.t1lim) n q else s)

/-- T2_DEADLINE (R127): of the queue in hand; FAULT stays 0. -/
def execT2Deadline (s : State) : Answer :=
  let (n, q) := s.hand
  let u := queueOf s n q
  .next (if u.state == .saving && rungOver s n q then toRung3 (lateTimer s n q u.t2lim) n q 0 0xFFFFFFFF#32 else s)

/-! ### A context (R123 to R125) -/

/-- What of an element goes with its context; the rest are its tables, and the count of its partition's firings (R145). -/
def elemContext (e : Element) : Element :=
  { e with instr := [], lits := [], routes := [], attrs := [], absent := [], owner := [], lastSlot := 15, fires := 0, holding := [] }

/-- An element with the context of another in place of its own. -/
def withContext (e c : Element) : Element :=
  { c with instr := e.instr, lits := e.lits, routes := e.routes, attrs := e.attrs, absent := e.absent, owner := e.owner
           lastSlot := e.lastSlot, fires := e.fires }

/-- Cores of a region, by number in the device. -/
def coresOf (r : Nat) : List Nat := (List.range 6).map fun p => coreId (r / 4) (portCore r p)

/-- Hardware queues of a region. -/
def hwqOfRegion (r : Nat) : List Nat := (List.range 16).map (16 * (r % 4) + ·)

/-- The placements that begin in a region, with their set units' contents. -/
def placesFrom (s : State) (n r : Nat) : List (Nat × Placement × List SetUnit) :=
  (partOf s n).graphs.flatMap fun g => (g.2.places.filter (originRegion · == r)).map fun p => (g.1, p, p.sets.map (setUnitOf s))

/-- A region is the last that its queue holds in its cluster. -/
def lastThere (s : State) (n q r : Nat) : Bool := (regionsOf s n q).all fun k => k == r || k / 4 != r / 4

/-- The sync FIFO tokens that a queue's commands pushed in a cluster, and the path registers they wrote (R124). -/
def fifosFor (s : State) (n q cl : Nat) : Sparse (List (Nat × Token)) :=
  ((clusterOf s cl).fifos.filter (·.1 / 16 == n)).map fun f => (f.1, f.2.filter (·.1 == q))
def pathsFor (s : State) (n q cl : Nat) : Sparse PathReg :=
  (clusterOf s cl).paths.filter fun p => p.1 / 64 == n && p.2.queue == q

/-- The banks of a core as a save area takes them: SCRATCH and FIFO banks whole, of a CACHE bank only its mode, since it is
written back and invalidated. -/
def banksKept (k : Core) : Sparse Bank := mapVals (fun _ b => if b.mode == .cache then { mode := .cache } else b) k.banks

/-- A flight of a partition goes with a region's context: it is on its way there, or, from there, to a region whose context has been
taken before. -/
def goesWith (s : State) (n r : Nat) (f : Flight) : Bool :=
  flightPart f == n && (destRegion f.dest == r || (elemRegion f.src == r && holder s (destRegion f.dest) != n))

/-- The context of a region, with its banks as they stand (R203). -/
def contextOf (s : State) (n q r : Nat) : SavedRegion :=
  let g := regionOf s r
  let last := lastThere s n q r
  { part := n, queue := q, region := r
    elems := mapVals (fun _ e => elemContext e) (s.elems.filter fun e => elemRegion e.1 == r)
    cores := (coresOf r).map fun c => (c, { coreOf s c with banks := banksKept (coreOf s c) })
    spill := g.spill, streams := g.streams
    hwq := (hwqOfRegion r).map fun h => (h, hwqOf s (r / 4) h)
    net := s.net.filter (goesWith s n r)
    reqs := s.reqs.filter fun x => x.region == r && reqPart x == n
    orders := s.orders.filter fun o => o.region == r && o.part == n
    places := placesFrom s n r
    fifos := if last then fifosFor s n q (r / 4) else [], paths := if last then pathsFor s n q (r / 4) else [] }

/-- A region without its context. -/
def emptyContext (s : State) (n q r : Nat) : State :=
  let last := lastThere s n q r
  let units := (placesFrom s n r).flatMap (·.2.1.sets)
  let s := units.foldl (fun s u => putSetUnit s u {}) s
  let s := (hwqOfRegion r).foldl (fun s h => modHwq s (r / 4) h fun _ => {}) s
  let s := if !last then s else modCluster s (r / 4) fun c => { c with
    fifos := mapVals (fun k f => if k / 16 == n then f.filter (·.1 != q) else f) c.fifos
    paths := c.paths.filter fun p => !(p.1 / 64 == n && p.2.queue == q) }
  let s := (coresOf r).foldl (fun s c => modCore s c fun k => { banks := k.banks }) s
  { modRegion s r fun g => { g with spill := [], streams := [] } with
    elems := mapVals (fun el e => if elemRegion el == r then withContext e {} else e) s.elems
    net := s.net.filter fun f => !goesWith s n r f
    reqs := s.reqs.filter fun x => !(x.region == r && reqPart x == n)
    orders := s.orders.filter fun o => !(o.region == r && o.part == n) }

/-! ### Hand-over (R109) -/

/-- The banks of a region that is handed over kept, as they are by then, with the contexts saved from it, but for one whose region
has been handed over before. -/
def keepBanks (s : State) (r : Nat) (c : SavedRegion) : SavedRegion :=
  if c.region != r || c.cleared then c
  else { c with cleared := true, cores := c.cores.map fun k => (k.1, { k.2 with banks := banksKept (coreOf s k.1) }) }

/-- A region passes from the partition whose contents it holds (R109): its configurations are removed, its banks are kept in
the old partition's save area and cleared, and what the cluster's engines hold there for that partition is lost (R257,
R270). -/
def handOver (s : State) (r n : Nat) : State :=
  let m := (regionOf s r).last
  if m = 0 || m = n then s
  else
    let s := settleStores s r
    let under := ((allPlaces s).filter fun x => x.1 == m && (regionsUnder x.2.2.1 x.2.2.2).contains r).map fun x => (x.2.1, x.2.2.2)
    let s := under.foldl (fun s x => unplace s m x.1 x.2) s
    let keep := keepBanks s r
    let saved := (savedOf s m).any fun c => c.region == r && !c.cleared
    let banks := (coresOf r).map fun c => (c, (banksKept (coreOf s c)).filter (·.2.mode != .cache))
    let s := modPart s m fun p => { p with
      saveArea := p.saveArea.map keep
      bankArea := if saved then p.bankArea else (banks.filter (!·.2.isEmpty)).foldl (fun a b => store a b.1 b.2) p.bankArea }
    let s := modRegion s r fun g => { g with
      shadow := g.shadow.map fun c => if c.part == m then keep c else c, lines := [], spill := [], streams := [], lat := [], sets := []
      acked := [] }
    let s := (hwqOfRegion r).foldl (fun s h => modHwq s (r / 4) h fun _ => {}) s
    let s := loseDie (loseCluster (dropWindows s) m (r / 4)) m (regionDie r)
    { s with elems := s.elems.filter fun e => elemRegion e.1 != r, cores := eraseAll s.cores (coresOf r) }

end Sys2Proof.Machine
end

