-- ==== Sys2Proof/Machine/Moves.lean ====
section
/-! DEFINITION. Where saved contexts go (R126): what a move of regions does to everything that names one, the regions into which a
queue's contexts can be restored, and the regions that suit a queue whose contexts wait. -/

namespace Sys2Proof.Machine

/-! ### What a partition may hold (R106, R108) -/

/-- DIES and EN of a partition let it hold a region (R106); without FULLFAB only the regions of S1 are used (R29, R36). -/
def mayHold (s : State) (n r : Nat) : Bool :=
  let p := partOf s n
  (regionOf s r).avail && (featOn s 1 || r == 0 || r == 12) && p.en && !(p.dies == 1 && regionDie r == 1) && !(p.dies == 2 && regionDie r == 0)

/-- The partition holds fewer regions than RMAX. -/
def belowMax (s : State) (n : Nat) : Bool := (heldBy s n).length < min (partOf s n).rmax 24

/-- The contexts saved for a queue. -/
def contexts (s : State) (n q : Nat) : List SavedRegion := (savedOf s n).filter (·.queue == q)

/-! ### Moves (R126) -/

/-- Where the regions of saved contexts go: pairs of a region and the one in its place. A region that is not listed stays. -/
abbrev Moves := List (Nat × Nat)

def Moves.region (h : Moves) (r : Nat) : Nat := ((h.find? (·.1 == r)).map (·.2)).getD r

/-- The cluster in place of one: the regions of a cluster stay together, since its engines serve them (R257, R267). -/
def Moves.cluster (h : Moves) (cl : Nat) : Nat := ((h.find? (·.1 / 4 == cl)).map (·.2 / 4)).getD cl
def Moves.elem (h : Moves) (e : Nat) : Nat :=
  let r := h.region (elemRegion e)
  elemAt (r / 4) (16 * (r % 2) + elemX e % 16) (8 * (r % 4 / 2) + elemY e % 8)
def Moves.core (h : Moves) (c : Nat) : Nat :=
  let r := h.region (coreRegion (c / 24) (c % 24))
  coreId (r / 4) (portCore r (c % 24 % 6))
def Moves.hwq (h : Moves) (r k : Nat) : Nat := 16 * (h.region r % 4) + k % 16

/-- The key of a hardware queue, as copies and windows have it. -/
def Moves.key (h : Moves) (k : Nat) : Nat :=
  let r := hqRegion (k / 64) (k % 64)
  if k < 1024 then hqKey (h.region r / 4) (h.hwq r (k % 64)) else k
def Moves.dest (h : Moves) : Dest → Dest
  | .slot el n f v p => .slot (h.elem el) n f v p
  | .engine r p v => .engine (h.region r) p v
  | .egress r p v => .egress (h.region r) p v
  | .drop el => .drop (h.elem el)
def Moves.place (h : Moves) (p : Placement) : Placement :=
  let o := h.elem (elemAt p.cluster p.x0 p.y0)
  { p with cluster := elemCluster o, x0 := elemX o, y0 := elemY o }

/-- The parameters of a command: an MXDRP's target core moves with its region (R265). -/
def Moves.params (h : Moves) (c : Cmd) : Token :=
  if c.code != 0xC4 || 5 < param c 2 || 23 < param c 3 then c.a
  else
    let k := h.core (coreId (param c 2) (param c 3))
    { c.a with lanes := (c.a.lanes.set 2 (BitVec.ofNat 32 (k / 24))).set 3 (BitVec.ofNat 32 (k % 24)) }
def Moves.cmd (h : Moves) (c : Cmd) : Cmd :=
  { c with
    a := h.params c, region := h.region c.region, el := h.elem c.el, d0 := c.d0.map h.dest, d1 := c.d1.map h.dest }
def Moves.flight (h : Moves) (f : Flight) : Flight :=
  { f with dest := h.dest f.dest, src := h.elem f.src, cmd := f.cmd.map h.cmd }
def Moves.req (h : Moves) (r : MemReq) : MemReq :=
  { r with region := h.region r.region, el := h.elem r.el, d0 := r.d0.map h.dest
           begun := none, early := [], stale := false }
def Moves.order (h : Moves) (o : Order) : Order := { o with region := h.region o.region, el := h.elem o.el, results := o.results.map h.flight, loads := [] }
def Moves.copy (h : Moves) (c : Copy) : Copy :=
  { c with region := h.region c.region, home := h.region c.home, hq := c.hq.map h.key
           dst := match c.dst with | .stream d w => .stream (h.dest d) w | e => e }
def Moves.unit (h : Moves) (u : SetUnit) : SetUnit :=
  let mv (a : Arrival) : Arrival := { a with d0 := a.d0.map h.dest }
  { u with arrived := u.arrived.map mv, heldNext := u.heldNext.map mv, joins := u.joins.map mv }

/-- A placement lies where it lay. -/
def Moves.keeps (h : Moves) (g : GraphConfig) (p : Placement) : Bool := (regionsUnder g p).all fun r => h.region r == r

/-- The regions of a placement go where its footprint goes. -/
def Moves.fits (h : Moves) (g : GraphConfig) (p : Placement) : Bool :=
  let p' := h.place p
  p'.x0 + g.w ≤ 32 && p'.y0 + g.h ≤ 16 && regionsUnder g p' == (regionsUnder g p).map h.region

/-- A placement of a saved context is still there. -/
def stillPlaced (s : State) (n : Nat) (h : Moves) (x : Nat × Placement × List SetUnit) : Bool :=
  h.keeps (graphOf s n x.1).config x.2.1 && (graphOf s n x.1).places.contains x.2.1

/-- A context that stands in the banks of its region goes back into that region alone. -/
def inBanks (s : State) (c : SavedRegion) : Bool :=
  (regionOf s c.region).shadow == some c || (regionOf s c.region).loaded == some c

/-! ### The slots of a cluster's engines (R267, R276, R286) -/

/-- The tree slots of a cluster that contexts taken there use: those that their configurations have filled. -/
def treesWith (s : State) (n : Nat) (cs : List SavedRegion) (cl : Nat) : Sparse (Option TreeSlot) :=
  (clusterOf s cl).trees.filter fun e => e.1 / 64 == n && e.2.any fun t =>
    cs.any fun c => c.region / 4 == cl && c.places.any fun x => cfgOf n x.1 == t.cfg

/-- The broker slots of a cluster that contexts taken there use: those whose query was configured from their regions. -/
def slotsWith (s : State) (n : Nat) (cs : List SavedRegion) (cl : Nat) : Sparse (Option BrSlot) :=
  (clusterOf s cl).broker.filter fun e => e.2.any fun b => b.part == n && cs.any (·.region == b.region)

/-- A tree slot is another placement's too, which stays in the cluster. -/
def treeStays (s : State) (cs : List SavedRegion) (cl : Nat) (t : Option TreeSlot) : Bool :=
  t.any fun t => (graphAt s t.cfg).places.any fun p => p.cluster == cl && !cs.any fun c => c.places.any fun x => x.2.1 == p

/-- A cluster without the slots that go to another one with the contexts. -/
def slotsTaken (n : Nat) (cs : List SavedRegion) (s : State) (cl : Nat) : State :=
  let trees := (treesWith s n cs cl).filter fun e => !treeStays s cs cl e.2
  let slots := slotsWith s n cs cl
  modCluster s cl fun k => { k with trees := eraseAll k.trees (trees.map (·.1)), broker := eraseAll k.broker (slots.map (·.1)) }

/-- A slot's key and the cluster that it goes to with contexts. -/
def slotKeys (s : State) (n : Nat) (cs : List SavedRegion) (h : Moves) (cl : Nat) : List (Nat × Nat × Bool) :=
  (treesWith s n cs cl).map (fun e => (h.cluster cl, e.1, true)) ++ (slotsWith s n cs cl).map fun e => (h.cluster cl, e.1, false)

/-- Every slot that goes to another cluster finds its number free there, so that each keeps its fields until its next TDCFG or
BRCFG (notes/assumptions/62). -/
def slotsFit (s : State) (n : Nat) (cs : List SavedRegion) (h : Moves) : Bool :=
  let cls := (cs.map (·.region / 4)).eraseDups.filter fun cl => h.any (·.1 / 4 == cl)
  let away := cls.filter fun cl => h.cluster cl != cl
  let s' := away.foldl (slotsTaken n cs) s
  let coming := away.flatMap (slotKeys s n cs h)
  coming.length == coming.eraseDups.length && coming.all fun x =>
    let k := clusterOf s' x.1
    if x.2.2 then (lookup none k.trees x.2.1).isNone else (lookup none k.broker x.2.1).isNone

/-- The slots that contexts use go with them: a broker's answers go to the region in place of its own. -/
def moveSlots (n : Nat) (cs : List SavedRegion) (h : Moves) (s : State) : State :=
  let cls := (cs.map (·.region / 4)).eraseDups
  let moved (b : BrSlot) : BrSlot := { b with region := h.region b.region }
  let put {α : Type} (m new : Sparse α) : Sparse α := new.foldl (fun m e => store m e.1 e.2) m
  let out := (cls.filter fun cl => h.cluster cl != cl).foldl (slotsTaken n cs) s
  cls.foldl (fun t cl => modCluster t (h.cluster cl) fun k => { k with
    trees := put k.trees (treesWith s n cs cl), broker := put k.broker (mapVals (fun _ b => b.map moved) (slotsWith s n cs cl)) }) out

/-! ### The search (R126) -/

/-- The moves put the contexts they list into regions that the queue holds for them, where each configuration is accepted. -/
def movesOk (s : State) (n q : Nat) (cs : List SavedRegion) (h : Moves) : Bool :=
  slotsFit s n cs h && (cs.filter fun c => h.any (·.1 == c.region)).all fun c =>
    let g := regionOf s (h.region c.region)
    g.owner == n && g.queue == q && g.state == .restoring && managerIdle s (h.region c.region) &&
    (!inBanks s c || h.region c.region == c.region) &&
    c.places.all fun x =>
      let g := (graphOf s n x.1).config
      stillPlaced s n h x || x.2.1.swapped || (h.fits g x.2.1 && accepts s n q g (h.place x.2.1))

/-- The ways to put regions into those of a cluster that are not used yet, each first where it is in its own. -/
def clusterMoves (used : List Nat) (cl : Nat) : List Nat → List Moves
  | [] => [[]]
  | r :: rest => (clusterMoves used cl rest).flatMap fun m =>
      ((r % 4 :: [0, 1, 2, 3].filter (· != r % 4)).filter fun k => !used.contains (4 * cl + k) && !m.any (·.2 == 4 * cl + k)).map
        fun k => (r, 4 * cl + k) :: m

/-- Moves for the regions of each of a list of clusters, each into one cluster of its die, its own first, such that the regions of
`need` are among those that they go to. -/
def findMoves (ok : Moves → Bool) (need rs : List Nat) : List Nat → Moves → Option Moves
  | [], h => if need.all fun r => h.any (·.2 == r) then some h else none
  | cl :: rest, h =>
    let others := (List.range Config.clusters).filter fun k => k != cl && clusterDie k == clusterDie cl
    ((cl :: others).flatMap fun k => clusterMoves (h.map (·.2)) k (rs.filter (· / 4 == cl))).findSome? fun m =>
      if ok (h ++ m) then findMoves ok need rs rest (h ++ m) else none

/-- Where a queue's contexts can be restored (R126): in place where they can, or else in any regions of their die that the
queue holds where every configuration is accepted again. Every region of `need` is used. -/
def movesWith (s : State) (n q : Nat) (need : List Nat) : Option Moves :=
  let cs := contexts s n q
  let rs := (cs.map (·.region)).eraseDups
  findMoves (movesOk s n q cs) need rs (rs.map (· / 4)).eraseDups []
def restoreMoves (s : State) (n q : Nat) : Option Moves := movesWith s n q []

/-- The state in which every region that a partition may hold has been granted to a queue of it and is clear. -/
def asIfGranted (s : State) (n q : Nat) : State :=
  (allRegions.filter (mayHold s n)).foldl (fun s r => modRegion (handOver s r n) r fun g => { g with
    owner := n, queue := q, last := n, state := .restoring, task := none }) s

/-- Regions with which, and with others that the partition may come to hold, a queue's contexts could be restored (R126). -/
def suitsWith (s : State) (n q : Nat) (need : List Nat) : Bool := (movesWith (asIfGranted s n q) n q need).isSome

end Sys2Proof.Machine
end

