-- ==== Sys2Proof/Machine/Grant.lean ====
section
/-! DEFINITION. Queues and their turns (R118, R119), the victim for one that needs a region, and the grant of a region (R107 to R109,
R121). -/

namespace Sys2Proof.Machine

/-! ### Queues and their turns (R106, R108, R118, R119) -/

/-- A queue waits to be restored (R126): it has saved work and is not kept (R129). -/
def restoreWanted (s : State) (n q : Nat) : Bool :=
  let u := queueOf s n q
  u.savedCtx && !u.holdSaved && (u.state == .saved || u.state == .run) && s.dev.linkUp &&
    (!(partOf s n).hold || !(regionsOf s n q).isEmpty)

/-- The graph a queue's head packet, or a stream, waits to be placed. -/
def graphsWanted (s : State) (n q : Nat) : List Nat := ((partOf s n).graphs.map (·.1)).filter (placeWanted s n q)

/-- A queue needs a region and is ready (R111, R118). -/
def wantsRegion (s : State) (n q : Nat) : Bool :=
  let u := queueOf s n q
  if u.savedCtx then restoreWanted s n q && (regionsOf s n q).length < max 1 (contexts s n q).length
  else plainState u && (graphsWanted s n q).any fun h =>
    let g := (graphOf s n h).config
    (findOrigin s n q g).isNone && (stagePlace s n q g).isNone

/-- A queue is ready (R118): it has an admissible packet that needs a region, or a stream that opens, or saved work. -/
def readyQueue (s : State) (n q : Nat) : Bool :=
  restoreWanted s n q || (plainState (queueOf s n q) && !(queueOf s n q).savedCtx &&
    (partOf s n).graphs.any fun g => injectWaits s n q g.1 || openingWaits s n q g.1)

/-- A queue's number g (R118). -/
def queueNumber (n q : Nat) : Nat := 4 * (n - 1) + q

/-- Every queue of the device. -/
def allQueues : List (Nat × Nat) := (List.range 24).flatMap fun k => [0, 1, 2, 3].map fun q => (k + 1, q)

def prioOf (s : State) (x : Nat × Nat) : Nat := (queueOf s x.1 x.2).prio.toNat

/-- A region that a queue may come by: a free one, or one whose holder could give way to it (R118, R119). -/
def obtainable (s : State) (n q r : Nat) : Bool :=
  let g := regionOf s r
  g.owner == 0 || prioOf s (g.owner, g.queue) ≤ prioOf s (n, q) || queueState s g.owner g.queue == .idle

/-- The regions that a queue lacks of a footprint for a graph that it waits to place: of the footprints at the regions' corners
that it may hold whole (R108, R110) those whose regions it could come by, where there are any, and of them those that lack the
fewest (notes/assumptions/62). -/
def regionsSought (s : State) (n q : Nat) : List Nat :=
  let t := asIfGranted s n q
  let held := regionsOf s n q
  let lacks := (graphsWanted s n q).flatMap fun h =>
    let g := (graphOf s n h).config
    (List.range 6).flatMap fun cl => [0, 16].flatMap fun x0 => [0, 8].filterMap fun y0 =>
      let at_ (v : Bool) : Placement := { cluster := cl, x0 := x0, y0 := y0, v := v, queue := q }
      let lack := (regionsUnder g (at_ false)).filter (!held.contains ·)
      if x0 + g.w ≤ 32 && y0 + g.h ≤ 16 && lack ≠ [] && held.length + lack.length ≤ (partOf s n).rmax &&
        [false, true].any (fun v => accepts t n q g (at_ v)) then some lack else none
  let near := lacks.filter fun l => l.all (obtainable s n q)
  let ways := if near.isEmpty then lacks else near
  (ways.filter fun l => ways.all (l.length ≤ ·.length)).flatten

/-- A region suits a queue: with saved work, one that its contexts need beside those it holds (R126); else one that it seeks, and
any where no footprint can be its own or its partition holds RMAX (notes/assumptions/62). -/
def suits (s : State) (n q r : Nat) : Bool :=
  if (queueOf s n q).savedCtx then suitsWith s n q (r :: regionsOf s n q)
  else !belowMax s n || (let l := regionsSought s n q; l.isEmpty || l.contains r)

/-- The queues that could be given a region: one with saved work, a region that suits its contexts (R126). -/
def contenders (s : State) (r : Nat) : List (Nat × Nat) :=
  allQueues.filter fun x => wantsRegion s x.1 x.2 && mayHold s x.1 r && belowMax s x.1 && suits s x.1 x.2 r

/-- The queue whose turn it is (R118, R119): the highest level, and within it the next in ascending g after the one last
served. -/
def turnOf (s : State) (r : Nat) : Option (Nat × Nat) :=
  let cs := contenders s r
  let top := cs.foldl (fun a x => max a (prioOf s x)) 0
  let level := cs.filter (prioOf s · == top)
  let last := lookup 96 s.dev.rounds top
  (level.find? fun x => last < queueNumber x.1 x.2).or level.head?

/-- A holder's charge is within its deficit. -/
def withinDeficit (u : Queue) : Bool := u.charge ≤ u.deficit

/-- The victim for a queue (R118, R119): a holder of strictly lower priority, or one that is IDLE; the lowest priority,
then the least deficit, then the higher g. A partition that holds RMAX regions takes one only from itself (R108). -/
def victimFor (s : State) (n q : Nat) : Option (Nat × Nat) :=
  let holders := allQueues.filter fun x => (x != (n, q)) && (belowMax s n || x.1 == n) &&
    (regionsOf s x.1 x.2).any (fun r => mayHold s n r && suits s n q r) &&
    (prioOf s x < prioOf s (n, q) || queueState s x.1 x.2 == .idle)
  let worse (a b : Nat × Nat) : Bool :=
    let ua := queueOf s a.1 a.2
    let ub := queueOf s b.1 b.2
    prioOf s a < prioOf s b || (prioOf s a == prioOf s b && (ua.deficit < ub.deficit ||
      (ua.deficit == ub.deficit && queueNumber b.1 b.2 < queueNumber a.1 a.2)))
  holders.foldl (fun best x => match best with
    | none => some x
    | some b => if worse x b then some x else some b) none

/-- A queue's deficit as the round reaches it (R119): what is left, up to a quantum, and a quantum more. -/
def addQuantum (u : Queue) : Queue := { u with deficit := min (u.deficit - u.charge) Config.quantum + Config.quantum, charge := 0 }

/-- A level's round goes on, in ascending g, from the queue it last served to a queue (R119): it reaches each that is ready on
its way, and that queue. -/
def roundReaches (s : State) (n q : Nat) : State :=
  let top := prioOf s (n, q)
  let last := lookup 96 s.dev.rounds top
  let to_ := queueNumber n q
  let onWay (k : Nat) : Bool := if last < to_ then last < k && k ≤ to_ else last < k || k ≤ to_
  let reached := allQueues.filter fun x => x == (n, q) || (prioOf s x == top && onWay (queueNumber x.1 x.2) && readyQueue s x.1 x.2)
  let s := reached.foldl (fun s x => modQueue s x.1 x.2 addQuantum) s
  modDev s fun d => { d with rounds := store d.rounds top to_ }

/-! ### Grants (R107 to R109, R121) -/

/-- The state of a granted region once it is clear (R107): it is restored into for a queue with saved work, loads for one with
no configuration placed in it, and otherwise runs; the queue may be in its ladder already. -/
def settleRegion (s : State) (r : Nat) : State :=
  let g := regionOf s r
  let u := queueOf s g.owner g.queue
  let st : RegState :=
    if u.state == .draining then .draining
    else if u.state == .saving then .saving
    else if u.savedCtx then .restoring
    else if (placesIn s r).isEmpty then .loading else .run
  modRegion s r fun g => { g with last := g.owner, state := st }

/-- A free region granted (R108, R109, R121): one that held another partition's contents is cleared first, and a queue with saved
work comes to be restored. One that comes back to the partition whose contents it holds keeps its banks with their modes
(notes/assumptions/59). -/
def grant (s : State) (r n q : Nat) : State :=
  let m := (regionOf s r).last
  let back := (queueOf s n q).savedCtx
  let s := if (regionsOf s n q).isEmpty then roundReaches s n q else s
  let s := if s.regions.all (·.2.owner = 0) then modDev s fun d => { d with chargedAt := tt s } else s
  let s := modRegion s r fun g => { g with owner := n, queue := q, time := 0, state := .clearing }
  let s := if m = 0 || m = n then settleRegion s r else s
  let s := schedEvent s 0 r n q
  if !back && (queueOf s n q).rung == 1 then backToRun s n q else s

/-- The manager has cleared a region for its new holder (R109, R107): its result reaches the FGE, which accepts it once it is not
paused (R103). -/
def cleared (s : State) (r : Nat) : State :=
  let g := regionOf s r
  if g.state == .clearing && g.owner != 0 && managerIdle s r && !s.fge.results.contains (.cleared r) then
    let s := handOver (if g.last = 0 then s else progress s g.last) r g.owner
    if fgePaused s then pushResult s (.cleared r) else settleRegion s r
  else s

end Sys2Proof.Machine
end

