-- ==== Sys2Proof/Machine/System.lean ====
section
/-! DEFINITION. Ordering and system instructions, opcodes 0xA3 to 0xAB (R212, R404 to R410). -/

namespace Sys2Proof.Machine

/-- Operand A to D0 and D1, formed as R162 gives. -/
def passOp : Op := moveOp false headerA fun x => [{ tok := wholeA x }]

/-! ### FENCE, ACQ and REL (R212) -/

/-- What an ordering instruction of a region waits on: for a release, the dirty lines, and at SYS the writes that the host port has
accepted; for an acquire, the loads that have begun. -/
def orderOf (s : State) (rel acq : Bool) (scope : Nat) (f : Firing) (results : List Flight) : Order :=
  let region := elemRegion f.el
  { rel := rel, acq := acq, scope := scope, part := f.part, region := region, results := results
    el := f.el, slot := key16 f.v f.slot, cfg := f.cfg, tag := f.tag
    writes := if rel && scope == 3 then hostWaits s region else []
    loads := if acq && scope != 0 then (s.reqs.filter fun r => r.region == region && r.begun.isSome).map (·.ident) else [] }

/-- A release of a region has stores to make performed: dirty lines, or writes that the host port has accepted and no
release has covered, of stores acknowledged there. -/
def storesToRelease (s : State) (r : Nat) : Bool :=
  (ackedAt s r).any fun a => (regionOf s a.region).lines.any (fun l => a.lines.contains l.1 && !l.2.dirty.isEmpty) ||
    s.posted.any fun po => a.sent po && !po.released

/-- An order's action is over at once. -/
def orderFree (s : State) (o : Order) : Bool :=
  o.writes.isEmpty && o.loads.isEmpty && !(o.rel && o.scope != 0 && storesToRelease s o.region)

/-- An order's action (R212): none while the link keeps back a host write it waits for, or a load that began before it has not
returned. -/
def orderAct (s : State) (o : Order) : Option State :=
  let awaited (s : State) (po : Posted) : Bool :=
    o.scope == 3 && sysCovers s o.region po && (o.writes.contains po.owner || po.owner == 0)
  let s1 := if o.rel then let s := releaseStores s o.region o.scope; completeWhere s (awaited s) else s
  let waits := o.rel && s1.posted.any (awaited s1)
  if waits || o.loads.any fun k => s.reqs.any (·.ident == k) then none
  else some (if o.acq then acquire s1 o.region o.scope else s1)

/-- Two ordering actions are of one slot, whose results leave in the order of its firings (R159). -/
def sameSlot (o p : Order) : Bool := o.el == p.el && o.slot == p.slot

/-- The action of order `k` is done, and its results go out, those of its slot's earlier firings before them. -/
def orderDone (s : State) (k : Nat) : State :=
  match s.orders[k]? with
  | none => s
  | some o => if (s.orders.take k).any (sameSlot o) then s else match orderAct s o with
    | some s => { s with orders := dropAt s.orders k, net := s.net ++ o.results }
    | none => s

/-- A release at SYS stays unfired while the loss of the link keeps back host writes of its region (R223). -/
def orderHeld (s : State) (rel : Bool) (scope r : Nat) : Bool := rel && scope == 3 && !s.dev.linkUp && !(hostWaits s r).isEmpty

/-- The result of an ordering instruction, which fired in state `before`: it goes out at once where the action is over and no earlier
one of its slot waits, and else waits with it. -/
def emitOrder (rel acq : Bool) (scope : Nat) (before s : State) (f : Firing) (out : Out) : Option State :=
  let r := elemRegion f.el
  if orderHeld before rel scope r then none
  else match resultTag s f with
    | none => none
    | some (tag, s) =>
      let s1 := sendOut f tag s out
      let o := orderOf before rel acq scope f (s1.net.drop s.net.length)
      if orderFree before o && !s.orders.any (sameSlot o) then
        let s2 := afterFiring s1 f
        some (if acq then acquire s2 r scope else s2)
      else some (afterFiring { s1 with net := s.net, orders := s1.orders ++ [o] } f)

/-- What an ordering instruction does when its slot is ready: EOS and NULL tokens take the action too. -/
def orderReady (rel acq : Bool) (scope : Nat) (s : State) : Ready → State
  | .eos f s' => (emitOrder rel acq scope s s' f { tok := eosTok f.head.fmt, d1 := passOp.eosD1 }).getD s
  | .null f s' =>
    let (fmt, pred, aux) := passOp.header f
    (emitOrder rel acq scope s s' f { tok := nullTok (passOp.nullLanes f) fmt pred aux, d1 := passOp.eosD1 }).getD s
  | .go f s' => (emitOrder rel acq scope s s' f { tok := wholeA f }).getD s
  | .wait => s
  | .dropped s' => s'
  | .poison f s' => poisonFault s' f

/-- The firing of an ordering instruction. -/
def fireOrder (rel acq : Bool) (scope : Nat) (fm : Form) (s : State) : State :=
  match opInfo fm.op with
  | none => s
  | some i => fireSlot fm s fun s h => orderReady rel acq scope s (gather s h fm (readFields i fm) false)

/-- FENCE (R212): the action of REL, then that of ACQ. -/
def execFence (a : BitVec 4) (m : BitVec 2) (d e : BitVec 6) (t : BitVec 4) (s : State) : Answer :=
  .next (fireOrder true true m.toNat (form 0xA3 a (m.setWidth 4) d e t) s)

/-- ACQ (R212). -/
def execAcq (a : BitVec 4) (m : BitVec 2) (d e : BitVec 6) (t : BitVec 4) (s : State) : Answer :=
  .next (fireOrder false true m.toNat (form 0xA4 a (m.setWidth 4) d e t) s)

/-- REL (R212). -/
def execRel (a : BitVec 4) (m : BitVec 2) (d e : BitVec 6) (t : BitVec 4) (s : State) : Answer :=
  .next (fireOrder true false m.toNat (form 0xA5 a (m.setWidth 4) d e t) s)

/-- TRAP (R406): the fault TRAP, with lane 0 of A as DETAIL. -/
def execTrap (a t : BitVec 4) (s : State) : Answer :=
  .next (fire { compare := false, header := headerA
                body := fun s x => (emit s x []).map fun s =>
                  raise s { code := 0x20, part := x.part, tag := some x.tag, detail := laneOf x.a 0, region := elemRegion x.el } }
    (form 0xA6 a 0 0 0 t) s)

/-- EVT (R406): a GRAPH event with the modifier as code and lane 0 of A as payload. -/
def execEvt (a m : BitVec 4) (d e : BitVec 6) (t : BitVec 4) (s : State) : Answer :=
  .next (fire { compare := false, header := headerA
                body := fun s x => emit (emitEvent s (elemDie x.el) (srcElem x.el) 5 m.toNat x.part (laneOf x.a 0).toNat
                  (floorOf x.toks)) x [{ tok := wholeA x }] }
    (form 0xA7 a m d e t) s)

/-- The time TIME returns (R407): the die's trace time, at least the causal floor. -/
def timeOf (s : State) (x : Firing) : Nat := max (dieTT s (elemDie x.el)).toNat (floorOf x.toks).toNat

/-- TIME (R407). Its result carries the time as its causal floor, so that a TIME it causes returns no less, whatever the clock of
a die has been set to since. -/
def execTime (a : BitVec 4) (d e : BitVec 6) (t : BitVec 4) (s : State) : Answer :=
  .next (fire { compare := false
                body := fun s x => emit s x [{ tok := { dataTok [BitVec.ofNat 32 (timeOf s x), BitVec.ofNat 32 (timeOf s x / 2 ^ 32)] 3 .i32 with floor := BitVec.ofNat 64 (timeOf s x) } }] }
    (form 0xA8 a 0 d e t) s)

/-! ### MBXS (R408) -/

/-- The 64 bytes of a graph message. -/
def graphMessage (s : State) (x : Firing) : List Byte :=
  let root := ((ownerOf s x.part x.tag).map (·.root.toNat)).getD 0
  leBytes 2 (0x8000 + (laneOf x.a 0).toNat % 0x8000) ++ leBytes 2 root ++ leBytes 2 x.tag.toNat ++ leBytes 2 x.head.seq.toNat ++
  leBytes 8 (tt s).toNat ++ ((List.range 7).flatMap fun j => leBytes 4 (if j + 1 < x.count then (laneOf x.a (j + 1)).toNat else 0)) ++
  [x.mask.setWidth 8] ++ List.replicate 19 0

/-- MBXS's firing: the message is written and A goes on; a mailbox that is off, or whose write faults, discards it and
counts. It holds while the ring is full or the reserve waits, and until its release at SYS is done. -/
def mbxsOp : Op :=
  { compare := false, header := headerA
    body := fun s x => (releaseSys s (elemRegion x.el)).bind fun s =>
      let m := (partOf s x.part).mbx
      let on := emit s x [{ tok := wholeA x }]
      let dropped (s : State) := bump s x.el .dropCnt 1
      if !mbxOn m then on.map dropped
      else if !m.reserve.isEmpty then none
      else match writeMessage s x.part (graphMessage s x) with
        | .hold => none
        | .page _ => none
        | .perm => (emit (mbxFault s x.part) x [{ tok := wholeA x }]).map dropped
        | .done s => emit s x [{ tok := wholeA x }] }

/-- A firing holds for room: from then on it is in flight (R411). -/
def holdFiring (s : State) (f : Firing) : State :=
  let k := (key16 f.v f.slot, f.tag)
  modElem s f.el fun e => if e.holding.contains k then e else { e with holding := e.holding ++ [k] }

/-- MBXS (R408). A write that waits for room or for a page keeps the firing held (R75). -/
def execMbxs (a : BitVec 4) (d e : BitVec 6) (t : BitVec 4) (s : State) : Answer :=
  let fm := form 0xA9 a 0 d e t
  match readyFiring mbxsOp fm s with
  | some f =>
    if !mbxOn (partOf s f.part).mbx then .next (fire mbxsOp fm s)
    else if !(partOf s f.part).mbx.reserve.isEmpty then .next (holdFiring s f)
    else match writeMessage s f.part (graphMessage s f) with
      | .page x => .next (mbxPark (holdFiring s f) f.part x)
      | .hold => .next (holdFiring s f)
      | _ => .next (fire mbxsOp fm s)
  | none => .next (fire mbxsOp fm s)

/-! ### QPUT (R409) -/

/-- The packet QPUT publishes: 16 elements of the record, header bits [63:32] taking P. -/
def qputPacket (l : Loaded) (p : BitVec 32) : List Byte :=
  let ws := l.lanes.mapIdx fun j w => if j = 1 then p else w
  ws.flatMap fun w => leBytes 4 w.toNat

/-- The packet written into its ring's slot and published (R57), after a release at SYS. -/
def qputWrite (s : State) (x : Firing) (l : Loaded) : Access State :=
  let q := qputQueue x
  let i := qputRing x
  let r := ringOf s x.part q i
  match (if r.host && !s.dev.linkUp then none else releaseSys s (elemRegion x.el)) with
  | none => .hold
  | some s => match placesVia (fun a => translateRing s x.part r.host r.pasid a .write) (r.base + 64 * (r.prod.toNat % 2 ^ r.rlog2)) 64 with
    | .error e => failed e
    | .ok ps => if hostHeld s ps then .hold else .done (modRing (saveAt s ps (qputPacket l r.prod)) x.part q i fun r => { r with prod := r.prod + 1 })

/-- A read of places of the host sees what the region's ports have stored past the caches (R206). -/
def seeHost (s : State) (r : Nat) (x : Except Xlate RecPlaces) : State :=
  match x with
  | .ok ps => if ps.1.any (·.2.any (·.host)) || ps.2.any (·.host) then pushHost s (some r) else s
  | .error _ => s

/-- What QPUT does once it is not refused: the record is read, the packet written and P answered; it holds while the ring
is full. -/
def qputDo (s : State) (x : Firing) : Access (State × Word) :=
  let r := ringOf s x.part (qputQueue x) (qputRing x)
  let idx := recField (recordWord x)
  match recOf s x.cfg idx with
  | none => .perm
  | some rc =>
    if !hasRight rc 0 then .perm
    else
      let s := seeHost s (elemRegion x.el) (recordPlaces s (elemDie x.el) x.cfg rc (clipCoord rc [(laneOf x.a 1).toNat]) .read (List.range 16))
      match loadRecord s (seenWord s (elemRegion x.el)) (elemDie x.el) x.cfg rc (clipCoord rc [(laneOf x.a 1).toNat]) 16 with
      | .hold => .hold
      | .perm => .perm
      | .page e => .page e
      | .done l =>
        if (r.prod - r.rhead).toNat = 2 ^ r.rlog2 then .hold
        else match qputWrite (countOob s x.cfg idx l.oob) x l with
          | .hold => .hold
          | .perm => .perm
          | .page e => .page e
          | .done s => .done (s, r.prod)

/-- QPUT's lane 1 of A; a masked or absent lane reads as zero. -/
def qputOp : Op :=
  { compare := false
    body := fun s x =>
      if qputRefused s x then emit s x [{ tok := { dataTok [0xFFFFFFFF#32] 1 .i32 with mask := 0 } }]
      else match qputDo s x with
        | .hold => none
        | .page _ => none
        | .perm => some (permFault s x)
        | .done (s, p) => emit s x [{ tok := dataTok [p] 1 .i32 }] }

/-- QPUT (R409). A page that is not present keeps the firing held until it is resolved; one that is found not present
again after a replay faults PERM (R200). -/
def execQput (a b : BitVec 4) (d e : BitVec 6) (t : BitVec 4) (s : State) : Answer :=
  let fm := form 0xAA a b d e t
  match readyFiring qputOp fm s with
  | some f =>
    if qputRefused s f then .next (fire qputOp fm s)
    else match qputDo s f with
      | .page (.absent die page pte) =>
        match s.pageFaults.find? fun g => g.part == f.part && g.page == page with
        | some g => if g.again then .next (fire { qputOp with body := fun s x => some (permFault s x) } fm s) else .next s
        | none => .next (parkOn s die f.part page pte)
      | .page (.atsMiss page) => .next (askHost s page)
      | .hold => .next (holdFiring s f)
      | _ => .next (fire qputOp fm s)
  | none => .next (fire qputOp fm s)

/-- YIELD (R410): a stage's input may be taken as empty from the firing on. -/
def execYield (a : BitVec 4) (d e : BitVec 6) (t : BitVec 4) (s : State) : Answer :=
  .next (fire { passOp with body := fun s x => (emit s x [{ tok := wholeA x }]).map fun s =>
                  modGraphAt s x.cfg fun g => if g.config.stage then { g with yielded := true } else g }
    (form 0xAB a 0 d e t) s)

end Sys2Proof.Machine
end

