-- ==== Sys2Proof/Machine/Restore.lean ====
section
/-! DEFINITION. The exchange with the shadow banks (R125), restore (R126), who gives way (R118, R119, R133), the charge of region
time, and HOLD (R129). -/

namespace Sys2Proof.Machine

/-! ### The exchange (R109, R123 to R126) -/

/-- A context in the shadow banks moved to its owner's save area (R125). -/
def spillShadow (s : State) (r : Nat) : State :=
  match (regionOf s r).shadow with
  | none => s
  | some c =>
    let s := modPart s c.part fun p => { p with saveArea := p.saveArea ++ [c] }
    ladderEvent (modRegion s r fun g => { g with shadow := none }) c.part c.queue r 6

/-- Every command of the queue in a region has reached its boundary (R124), and every row on its way to a core there has
arrived (R265). -/
def boundariesReached (s : State) (n q r : Nat) : Bool :=
  (s.cmds.all fun c => !(c.part == n && c.queue == q && c.region == r) || c.saved) &&
    s.drpRows.all fun d => !(coresOf r).contains d.core

/-- The queue whose context in a region's shadow banks comes back by the exchange that saves the holder's (R126): it waits to be
restored, and the region, once free, is its to have. -/
def exchangePartner (s : State) (r : Nat) : Option SavedRegion :=
  (regionOf s r).shadow.filter fun c =>
    let s' := releaseRegion s r
    !fgePaused s && restoreWanted s c.part c.queue && mayHold s c.part r && belowMax s' c.part &&
      (turnOf s' r == some (c.part, c.queue) || !(regionsOf s c.part c.queue).isEmpty)

/-- A request has nothing left to do at its port before its context is saved (R211, R223): it is parked, or waits for what is not
there, or for one that does. -/
def requestStuck (s : State) (k : Nat) (r : MemReq) : Bool :=
  !itsTurn s k r || (match perform s r with | .hold => true | _ => false)

/-- The form of an instruction word. -/
def wordForm (w : Nat) : Form := ⟨bits w 31 24, bits w 23 20, bits w 19 16, bits w 15 10, bits w 9 4, bits w 3 0⟩

/-- A firing that holds for room at an element has it by now, so that it completes before the element halts (R411). -/
def heldGoes (s : State) (el : Nat) (k : Nat × Tag) : Bool :=
  let s := { s with focus := some ⟨el, 16 ≤ k.1, k.1 % 16, k.2⟩ }
  let fm := wordForm (lookup 0 (elemOf s el).instr k.1).toNat
  let op := if fm.op = 0xA9 then mbxsOp else qputOp
  (readyFiring op fm s).any fun f => (op.body s f).isSome

/-- No firing of a region that holds for room could go on. -/
def heldQuiet (s : State) (r : Nat) : Bool :=
  s.elems.all fun e => elemRegion e.1 != r || !e.2.holding.any (heldGoes s e.1)

/-- The ports of a region have performed what they can, and no ordering action there is left that can be done (R223). -/
def portsQuiet (s : State) (n r : Nat) : Bool :=
  (s.reqs.zip (List.range s.reqs.length)).all (fun x => !(x.1.region == r && reqPart x.1 == n) || requestStuck s x.2 x.1) &&
    s.orders.all fun o => !(o.region == r && o.part == n) || (orderAct s o).isNone

/-- A region's context is saved: it is released, and with the last one the save of its queue is complete. -/
def takeSaved (s : State) (r : Nat) : State :=
  let g := regionOf s r
  if g.state != .saving || g.owner = 0 then s
  else
    let s := releaseRegion s r
    if (regionsOf s g.owner g.queue).isEmpty then finishSave s g.owner g.queue r else s

/-- The context of a frozen region exchanged with its shadow banks, once its stores have performed at DEV (R211); the FGE, once it
is not paused (R103), then releases the region. A context in the banks that is to be restored there comes back in the same exchange; any other goes to its
owner's save area first. -/
def exchange (s : State) (r : Nat) : State :=
  let g := regionOf s r
  let n := g.owner
  let q := g.queue
  if g.state != .saving || n = 0 || !boundariesReached s n q r || !managerIdle s r || !portsQuiet s n r || !heldQuiet s r ||
    s.fge.results.contains (.saved r) then s
  else
    let s := settleStores s r
    let back := exchangePartner s r
    let s := if back.isNone then spillShadow s r else s
    let c := contextOf s n q r
    let s := progress (modRegion (emptyContext s n q r) r fun g => { g with shadow := some c }) n
    let s := if fgePaused s then pushResult s (.saved r) else takeSaved s r
    match back with
    | some b => modRegion (grant s r b.part b.queue) r fun g => { g with loaded := some b }
    | none => s

/-- SHADOW_EXCHANGE (R125). -/
def execShadowExchange (r : Nat) (s : State) : Answer := .next (exchange s r)

/-! ### Giving way and grants (R118, R119, R133) -/

/-- The regions a queue was given for a restore that has not come about are given up again. -/
def giveUp (s : State) (n q : Nat) : State :=
  if (queueOf s n q).savedCtx then (regionsOf s n q).foldl releaseRegion s else s

/-- A holder gives way (R118, R119, R133): one in RESTORING completes its restore first, or, where none is possible in its
regions, gives them up; any other enters the ladder. -/
def giveWay (s : State) (n q : Nat) : State :=
  if !(queueOf s n q).savedCtx then startLadder s n q
  else if (restoreMoves s n q).isSome then s
  else giveUp s n q

/-- The FGE acts on a queue that needs a region: it grants one that is free in the queue's turn, or, where none that the
queue may hold is free, or its partition holds RMAX, sends the holder of the one named, if it is the victim, into the
ladder. A queue that holds regions already and is within its deficit may take a free one out of turn (notes/assumptions/62). -/
def grantOrReclaim (s : State) (r n q : Nat) : State :=
  let free (r : Nat) : Bool := (regionOf s r).owner == 0 && mayHold s n r && belowMax s n && suits s n q r
  if n = 0 || 24 < n || 24 ≤ r || 4 ≤ q || fgePaused s || !wantsRegion s n q || !mayHold s n r || !suits s n q r then s
  else if free r then
    if turnOf s r == some (n, q) || (!(regionsOf s n q).isEmpty && withinDeficit (queueOf s n q)) then grant s r n q else s
  else if allRegions.any free then s
  else match victimFor s n q with
    | some (m, p) => if (regionsOf s m p).contains r then giveWay s m p else s
    | none => s

/-- REGION_GRANT (R108, R118). -/
def execRegionGrant (r n q : Nat) (s : State) : Answer := .next (grantOrReclaim s r n q)

/-- The holders of a partition from the one that gives way first: lowest priority, least deficit, higher g (R118). -/
def holdersOf (s : State) (n : Nat) : List Nat :=
  let hs := [3, 2, 1, 0].filter fun q => !(regionsOf s n q).isEmpty
  let before (a b : Nat) : Bool := prioOf s (n, a) < prioOf s (n, b) ||
    (prioOf s (n, a) == prioOf s (n, b) && (queueOf s n a).deficit < (queueOf s n b).deficit)
  hs.foldl (fun l q => (l.takeWhile fun k => !before q k) ++ q :: l.dropWhile fun k => !before q k) []

/-- After a write of PARTCFG (R106, R108), and for as long as more is held than it allows: queues with a region that the partition
may not hold any more give way, and then others, until the regions of those that stay are within RMAX (the model's way:
notes/assumptions/20). -/
def enforceConfig (s : State) (n : Nat) : State :=
  let barred (q : Nat) : Bool := (regionsOf s n q).any fun r => !mayHold s n r
  let stays := (holdersOf s n).filter fun q => !barred q && !inLadder (queueOf s n q)
  let held := (stays.map fun q => (regionsOf s n q).length).sum
  let go := (stays.foldl (fun (acc : List Nat × Nat) q =>
    if acc.2 ≤ min (partOf s n).rmax 24 then acc else (acc.1 ++ [q], acc.2 - (regionsOf s n q).length)) ([], held)).1
  ((holdersOf s n).filter barred ++ go).foldl (fun s q => giveWay s n q) s

/-! ### The charge of region time (R107, R119) -/

/-- A region counts against its holder: not while it is in the ladder. -/
def charged (g : Region) : Bool := g.state != .draining && g.state != .saving

/-- Region time charged to a holder. -/
def chargeQueue (us : Nat) (s : State) (x : Nat × Nat) : State :=
  let (n, q) := x
  let rs := (regionsOf s n q).filter fun r => charged (regionOf s r)
  let s := rs.foldl (fun s r => modRegion s r fun g => { g with time := g.time + BitVec.ofNat 32 us }) s
  if queueState s n q == .idle then modQueue s n q fun u => { u with deficit := 0, charge := 0 }
  else modQueue s n q fun u => { u with charge := u.charge + us * rs.length }

/-- A queue of the same level waits for a region of the holder (R119). -/
def peerWaits (s : State) (x : Nat × Nat) : Bool :=
  allQueues.any fun y => y != x && prioOf s y == prioOf s x && wantsRegion s y.1 y.2 && (belowMax s y.1 || y.1 == x.1) &&
    (regionsOf s x.1 x.2).any fun r => mayHold s y.1 r && suits s y.1 y.2 r

/-- A holder over its deficit gives way to a waiting peer; where none waits, the round comes back to it, if it is ready. -/
def reclaimOver (s : State) (x : Nat × Nat) : State :=
  if (regionsOf s x.1 x.2).isEmpty || withinDeficit (queueOf s x.1 x.2) then s
  else if peerWaits s x then giveWay s x.1 x.2
  else if readyQueue s x.1 x.2 then roundReaches s x.1 x.2
  else s

/-- Microseconds of region time not yet charged (R119). -/
def uncharged (s : State) : Nat :=
  let d := (tt s - s.dev.chargedAt).toNat
  if d < 2 ^ 63 then d / 16000 else 0

/-- QUANTUM_CHARGE (R119): `us` microseconds of region time that have passed and are not charged yet. -/
def execQuantumCharge (us : Nat) (s : State) : Answer :=
  .next (if fgePaused s || uncharged s < us then s
    else
      let s := modDev (allQueues.foldl (chargeQueue us) s) fun d => { d with chargedAt := d.chargedAt + BitVec.ofNat 64 (16000 * us) }
      allQueues.foldl reclaimOver s)

/-! ### Restore (R126) -/

/-- One element's tables with every used entry absent (R126). -/
def absentTab (c : Nat) (p : Placement) (s : State) (x : Nat × ElemTab) : State :=
  modElem s x.1 fun e => { e with
    absent := e.absent ++ usedEntries p.v x.2
    owner := (usedSlots x.2).foldl (fun o n => store o (key16 p.v n) c) e.owner }

/-- A placement of a context put back, with its set units' contents. -/
def restorePlace (n q : Nat) (h : Moves) (s : State) (x : Nat × Placement × List SetUnit) : State :=
  let units (s : State) (p : Placement) : State := (p.sets.zip x.2.2).foldl (fun s u => putSetUnit s u.1 (h.unit u.2)) s
  if stillPlaced s n h x then units s x.2.1
  else
    let g := (graphOf s n x.1).config
    let p := { h.place x.2.1 with queue := q }
    let (s, sets) := bindSets p g.scopes s []
    let p := { p with sets := sets }
    let s := modGraph s n x.1 fun g => { g with
      places := g.places ++ [p], parkedTokens := g.parkedTokens.map h.flight
      parkedStreams := g.parkedStreams.map fun b => (h.elem b.1, b.2) }
    units (if p.swapped then s else (tabElems g p).foldl (absentTab (cfgOf n x.1) p) s) p

/-- A restored access that was saved parked (R123): it stays parked while its page's fault is still being resolved, or the host is
still asked, and is replayed otherwise. -/
def resumeParked (s : State) (r : MemReq) : MemReq :=
  match r.parked with
  | none => r
  | some page =>
    let asked := s.atsPending.contains page
    match faultOf s (reqPart r) page with
    | some f => if asked || !f.again then r else { r with parked := none, replay := some page }
    | none => if asked then r else { r with parked := none, replay := if isHostPage page then none else some page }

/-- What a context holds put back into its region. -/
def restoreRegion (h : Moves) (s : State) (c : SavedRegion) : State :=
  let r := h.region c.region
  let s := c.elems.foldl (fun s e => modElem s (h.elem e.1) fun x => withContext x e.2) s
  let kept := r == c.region && !c.cleared
  let s := c.cores.foldl (fun s k => modCore s (h.core k.1) fun x => { k.2 with banks := if kept then x.banks else k.2.banks }) s
  let s := c.hwq.foldl (fun s k => modHwq s (r / 4) (h.hwq c.region k.1) fun _ => { k.2 with home := h.region k.2.home }) s
  let s := modCluster s (r / 4) fun k => { k with
    fifos := c.fifos.foldl (fun m f => store m f.1 (f.2 ++ lookup [] m f.1)) k.fifos
    paths := c.paths.foldl (fun m p => store m p.1 p.2) k.paths }
  let s := modRegion s r fun g => { g with
    spill := c.spill.map fun x => (4 * h.elem (x.1 / 4) + x.1 % 4, x.2), streams := c.streams }
  { s with net := c.net.map h.flight ++ s.net, reqs := c.reqs.map (fun x => resumeParked s (h.req x)) ++ s.reqs, orders := c.orders.map h.order ++ s.orders }

/-- The queue's commands, copies and rows on their way, where the moves take them. -/
def moveWork (s : State) (n q : Nat) (h : Moves) : State :=
  let mine (c : Cmd) := c.part == n && c.queue == q
  let rowMine (r : DrpRow) := s.cmds.any fun c => c.ident == r.cmd && mine c
  let held := (contexts s n q).map (·.region)
  let s := { s with
    drpRows := s.drpRows.map fun r => if rowMine r then { r with core := h.core r.core } else r
    cmds := s.cmds.map fun c => if mine c then h.cmd c else c
    copies := s.copies.map fun c => if c.part == n && c.queue == q then h.copy c else c
    dev := { s.dev with windows := s.dev.windows.map fun w => match w.hq with
      | some k => if w.part == n && k < 1024 && held.contains (hqRegion (k / 64) (k % 64)) then { w with hq := some (h.key k) } else w
      | none => w } }
  modFollowers s n q fun d => { d with bound := d.bound.map fun b => (h.dest b.1, h.dest b.2) }

/-- The contexts of a queue leave the banks and the save area, and its regions run. -/
def takeContexts (s : State) (n q : Nat) : State :=
  let other (c : SavedRegion) : Bool := !(c.part == n && c.queue == q)
  let s := modPart s n fun p => { p with saveArea := p.saveArea.filter (·.queue != q) }
  { s with regions := mapVals (fun _ g => { g with
    shadow := g.shadow.filter other, loaded := g.loaded.filter other
    state := if g.owner == n && g.queue == q && g.state == .restoring then .run else g.state }) s.regions }

/-- A saved queue is restored into the regions it holds, if they suit its contexts (R126); it runs with RUNG 0, and its saved
commands resume at their engines. What the partition's engines hold in a cluster that it has left for good is lost (R257, R267).
Regions with which no restore can come about are given up again. Under HOLD a restore that was begun is completed, and rung 2
begins again (R126, R129). -/
def restoreQueue (s : State) (n q : Nat) : State :=
  let cs := contexts s n q
  if !restoreWanted s n q || (regionsOf s n q).isEmpty || fgePaused s then s
  else match restoreMoves s n q with
    | none => if suitsWith s n q (regionsOf s n q) then s else giveUp s n q
    | some h =>
      let s := moveWork (moveSlots n cs h s) n q h
      let s := takeContexts s n q
      let s := cs.foldl (fun s c => c.places.foldl (restorePlace n q h) s) s
      let s := loseAll (cs.foldl (restoreRegion h) s) n
      let s := ladderEvent s n q (firstRegion s n q) 5
      let s := backToRun s n q
      let s := modFollowers s n q fun d => if d.state == .saved && !d.held then { d with state := .run, rung := 0 } else d
      let s := progress s n
      if (partOf s n).hold then startRung2 s n q else s

/-- QUEUE_RESTORE (R126): of the queue in hand. -/
def execQueueRestore (s : State) : Answer := .next (restoreQueue s s.hand.1 s.hand.2)

/-! ### HOLD (R129) -/

/-- A queue that is away is kept SAVED by HOLD, with the data rings that follow it. -/
def keepSaved (s : State) (n q : Nat) : State :=
  modFollowers (modQueue (giveUp s n q) n q fun u => { u with state := .saved, holdSaved := true }) n q fun d =>
    if d.state == .saved then { d with held := true } else d

/-- HOLD reaches a queue, enabled or not: from rung 2 on, where it is not in a ladder, or in ERROR with nothing running (R62, R127:
there it stays until CMD reset; notes/assumptions/20). One that is away stays away, but a restore that is begun and possible completes first
(R126). -/
def holdQueue (n : Nat) (s : State) (q : Nat) : State :=
  let u := queueOf s n q
  if u.state == .saved || (u.savedCtx && plainState u) then
    if !(regionsOf s n q).isEmpty && (restoreMoves s n q).isSome then s else keepSaved s n q
  else if u.state == .linkLost || u.state == .recovery then modQueue s n q fun u => { u with holdSaved := true }
  else if inLadder u || (u.state == .error && !(partOf s n).acts.any (·.queue == q)) then s
  else startRung2 (errorInLadder s n q) n q

/-- PARTCFG.HOLD set. -/
def setHold (s : State) (n : Nat) : State :=
  if (partOf s n).hold then s else [0, 1, 2, 3].foldl (holdQueue n) (modPart s n fun p => { p with hold := true })

/-- PARTCFG_HOLD_SET (R129). -/
def execPartcfgHoldSet (n : Nat) (s : State) : Answer := .next (setHold s n)

/-- PARTCFG_HOLD_CLEAR (R129): each queue stays SAVED until CMD resume. -/
def execPartcfgHoldClear (n : Nat) (s : State) : Answer := .next (modPart s n fun p => { p with hold := false })

end Sys2Proof.Machine
end

