-- ==== Sys2Proof/Machine/Commands.lean ====
section
/-! DEFINITION. The commands of QCTL (R81), faults at the FGE (R103, R130), and the spill watchdog (R128). -/

namespace Sys2Proof.Machine

/-! ### CMD resume and CMD reset (R25, R26, R81, R129) -/

/-- The MSI-X messages held during a link loss that a test selects are signalled, once the link is up (R26). -/
def releaseMsix (s : State) (which : Option (Nat × Nat) → Bool) : State :=
  modDev s fun d => if d.linkUp then
    { d with msix := d.msix ++ (d.msixHeld.filter fun x => which x.2).map (·.1), msixHeld := d.msixHeld.filter fun x => !which x.2 }
  else d

/-- CMD resume: a saved queue may run again; without a saved context it does at once. -/
def resumeQueue (s : State) (n q : Nat) : State :=
  let u := queueOf s n q
  if (u.state != .saved && u.state != .recovery) || (partOf s n).hold then s
  else
    let s := modQueue s n q fun u => { u with state := .run, fault := if u.errorDue then u.fault else 0, holdSaved := false }
    let s := releaseMsix (flushCpl s n q) (· == some (n, q))
    if (contexts s n q).isEmpty && !(partOf s n).acts.any (·.queue == q) then backToRun s n q else s

/-- QCTL_CMD_RESUME (R81). -/
def execQctlCmdResume (n q : Nat) (s : State) : Answer := .next (resumeQueue s n q)

/-- A placement of graph `h` serves work of a queue other than `q`. -/
def servesOther (s : State) (n q h : Nat) (p : Placement) : Bool :=
  let kept (c : SavedRegion) : Bool := c.part == n && c.queue != q && c.places.any fun x => x.1 == h && x.2.1 == p
  (partOf s n).acts.any (fun a => a.queue != q && a.handle == h) ||
  (partOf s n).rings.any (fun d => d.2.graph == h && d.2.tag.isSome && dringQueue s n d.2 != q) ||
  (partOf s n).saveArea.any kept || s.regions.any fun r => r.2.shadow.any kept

/-- Placements made for a queue end with its reset, and their set units are free (R313). -/
def endPlaces (s : State) (n q : Nat) : State :=
  let mine := (partOf s n).graphs.flatMap fun g => (g.2.places.filter fun p => p.queue == q && !servesOther s n q g.1 p).map fun p => (g.1, p)
  mine.foldl (fun s x => unplace s n x.1 x.2) s

/-- CMD reset: activations go through rung 3 without records, packets not admitted are discarded, and the queue shows
RESETTING with ENABLE 0; LASTSEQ stays. Its placements end, and what its packets waited for goes on for none. -/
def resetQueue (s : State) (n q : Nat) : State :=
  let u := queueOf s n q
  let works := (partOf s n).acts.any (·.queue == q) || !(contexts s n q).isEmpty
  let s := if works then forceLossy (ladderEvent s n q (firstRegion s n q) 3) n q else s
  let s := if works || !(regionsOf s n q).isEmpty then resetRings s n q else s
  let s := discardContext s n q
  let s := ((partOf s n).acts.filter (·.queue == q)).foldl (fun s a => dropActivation s n a.root) s
  let s := endPlaces s n q
  let s := loseAll ((regionsOf s n q).foldl releaseRegion s) n
  let s := modQueue s n q fun x => { stopQueue x with
    state := .resetting, rung := 3, fault := 0, detail := 0, errorDue := false, inFlight := [], failed := []
    held := if u.cplFailed then [] else x.held, savedCtx := false, holdSaved := false, fireStallAt := none
    cplPage := none, cplFailed := false, rings := mapVals (fun _ r => { r with rstat := .active }) x.rings }
  let s := modPart s n (forgetOwed q)
  releaseMsix (flushCpl s n q) (· == some (n, q))

/-- The reset of a queue ends (R81): IDLE, RUNG 0, FAULT 0x00. -/
def resetDone (s : State) (n q : Nat) : State :=
  let u := queueOf s n q
  if u.state == .resetting && !u.enable then unforce (modQueue s n q fun u => { u with state := .idle, rung := 0, fault := 0 }) n q
  else s

/-- QCTL_CMD_RESET (R81). -/
def execQctlCmdReset (n q : Nat) (s : State) : Answer := .next (resetQueue s n q)

/-! ### Faults and watchdogs (R103, R128, R130) -/

/-- FAULT_TOKEN (R130): the FGE takes the oldest fault. -/
def execFaultToken (s : State) : Answer :=
  .next (match s.faults with
    | [] => s
    | f :: rest => if fgePaused s then s else takeFault { s with faults := rest } f)

/-- The form of an instruction word (R325). -/
def formOf (w : Word) : Form :=
  let w := w.toNat
  ⟨bits w 31 24, bits w 23 20, bits w 19 16, bits w 15 10, bits w 9 4, bits w 3 0⟩

/-- The firing at a site waits for room that only the host can make: an MBXS for its mailbox, a QPUT for its ring (R128). -/
def waitsForHost (s : State) (st : Site) : Bool :=
  let fm := formOf (lookup 0 (elemOf s st.el).instr (key16 st.v st.slot))
  if fm.op != 0xA9 && fm.op != 0xAA then false
  else match readyFiring { compare := false, body := fun _ _ => none } fm { s with focus := some st } with
    | none => false
    | some f =>
      if fm.op == 0xA9 then
        let m := (partOf s f.part).mbx
        mbxOn m && 2 ^ m.log2 ≤ (m.tail - m.head).toNat
      else
        let r := ringOf s f.part (qputQueue f) (qputRing f)
        !qputRefused s f && (r.prod - r.rhead).toNat == 2 ^ r.rlog2

/-- A firing of the partition waits for room in a mailbox or command ring that only the host can drain (R128). -/
def hostHolds (s : State) (n : Nat) : Bool :=
  s.elems.any fun e => (regionOf s (elemRegion e.1)).owner == n && e.2.parts.any fun pt => pt.fields.any fun f =>
    [false, true].any fun v => waitsForHost s ⟨e.1, v, f.1 / 3, pt.tag⟩

/-- A queue whose context is saved stands at rung 2 until its restore (R121, R129). -/
def savedAway (u : Queue) : Bool := u.savedCtx && u.rung == 2

/-- The spill watchdog of a partition runs (R128). -/
def watched (s : State) (n : Nat) : Bool :=
  let p := partOf s n
  !(liveTags s n).isEmpty && !p.queues.any (fun u => inRung u.2 || savedAway u.2) && !p.trace.stalled && !hostHolds s n

/-- SPILL_WATCHDOG (R128). -/
def execSpillWatchdog (n : Nat) (s : State) : Answer :=
  .next (if !fgePaused s && watched s n && tenMs ≤ (tt s - (partOf s n).progressAt).toNat then
    takeFault (progress s n) { code := 0x21, part := n, tag := none }
  else s)

end Sys2Proof.Machine
end

