-- ==== Sys2Proof/Machine/Power.lean ====
section
/-! DEFINITION. Power, the stages of start-up, feature negotiation, the sideband's sensors and wear page, and the links
but for their loss (R8 to R20, R28 to R36, R40, R41). -/

namespace Sys2Proof.Machine

/-! ### Stages (R28 to R31, R35) -/

/-- Feature bits offered from a stage (R34). -/
def stageFeatures : Stage → BitVec 32
  | .s1 => 0x1401#32
  | .s2 => 0x68FE#32
  | .s3 => 0x0300#32
  | _ => 0

/-- The device enters a stage (R35): DEVFEAT, FEATPEND and MSI-X vector 0 of the PF. -/
def enterStage (s : State) (g : Stage) : State :=
  signal (modDev s fun d => { d with stage := g, devFeat := d.devFeat ||| stageFeatures g, featPend := true }) 0 0

/-- Regions joined to the pool (R29, R30). -/
def offer (s : State) (rs : List Nat) : State := rs.foldl (fun s r => modRegion s r fun g => { g with avail := true }) s

/-- POWER_AUX_3V3_ON (R10, R28): the management controller boots the image the flash marker names (R53). -/
def execPowerAux3v3On (s : State) : Answer :=
  .next (modDev s fun d => if d.stage = .off then
    { d with aux33 := true, uptime := 0, stage := .booting, castle := { d.castle with current := d.castle.committed } } else d)

/-- A verified flash record applied (R32), if its value is in the field's range (R12, R26, R122). -/
def applyFlash (d : Device) : FlashItem → Device
  | .powerCap w => if Config.powerCapMin ≤ w && w ≤ Config.powerCapMax then { d with capW := w } else d
  | .recoveryTimeout t => if 1 ≤ t && t ≤ 3600 then { d with recoveryS := t } else d
  | .t1Default t => if 1 ≤ t && t ≤ 1000000 then { d with t1def := t } else d
  | .t2Default t => if 1 ≤ t && t ≤ 1000000 then { d with t2def := t } else d
  | .minSecurity b v => { d with castle := { d.castle with minSecurity := putBody d.castle.minSecurity b v } }

/-- A flash record read at S0: its value, or its default and a report. -/
def readFlash (s : State) (r : FlashRecord) : State :=
  modDev s fun d => if r.verifies then applyFlash d r.item else { d with sideband := d.sideband ++ [.flashFailure r.item] }

/-- QT1 and QT2 of every queue at the defaults of flash (R122). -/
def defaultDeadlines (s : State) : State :=
  if s.dev.t1def = Config.t1Default && s.dev.t2def = Config.t2Default then s
  else allQueues.foldl (fun s x => modQueue s x.1 x.2 fun u => { u with t1us := s.dev.t1def, t2us := s.dev.t2def }) s

/-- Units of the oscillator, 1/16 ns each, in a millisecond. -/
def milli : Nat := 16000000

/-- Time since PERST# was deasserted. -/
def sincePerst (s : State) : Nat := s.dev.uptime - s.dev.perstAt

/-- STAGE_S0_REACHED (R28, R32, R38, R135): within 50 ms of the 3.3 V rail; flash records, one BOOT entry for each firmware
body, and TT from 0. -/
def execStageS0Reached (flash : List FlashRecord) (s : State) : Answer :=
  .next (if s.dev.stage = .booting && s.dev.uptime ≤ 50 * milli then
    let s := modDev s fun d => { d with stage := .s0, clk := { d.clk with tt := 0 } }
    let s := defaultDeadlines (flash.foldl readFlash s)
    [Body.engine, .scheduler, .controller].foldl (fun s b => appendLog s 1 b) s
  else s)

/-- PERST_DEASSERT (R28). -/
def execPerstDeassert (s : State) : Answer :=
  .next (modDev s fun d => if d.perst then { d with perst := false, perstAt := d.uptime } else d)

/-- STAGE_S1_REACHED (R28, R29): within 300 ms of PERST#, or else the device stays at S0 (R31); regions 0 and 12; a missing
54 V rail is reported (R11). -/
def execStageS1Reached (s : State) : Answer :=
  .next (if s.dev.stage = .s0 && !s.dev.perst && s.dev.linkUp && sincePerst s ≤ 300 * milli then
    let s := offer (enterStage s .s1) [0, 12]
    if s.dev.aux54 then s else sendReply s .noAux54
  else s)

/-- AUX_54V_ARRIVES (R11). -/
def execAux54vArrives (s : State) : Answer := .next (modDev s fun d => { d with aux54 := true })

/-- The units that S2 waits for, by FAILUNIT's numbers (R28, R33): the eight stacks and the six clusters. -/
def s2Units : List Nat := (List.range 8).map (1 + ·) ++ (List.range 6).map (0x10 + ·)

/-- STAGE_S2_REACHED (R28, R30): every stack trained and every cluster at its rate; every region, at 1.2 GHz. STALLED and
FAILUNIT stay as they are (notes/assumptions/44). -/
def execStageS2Reached (s : State) : Answer :=
  .next (if s.dev.stage = .s1 && s.dev.aux54 && s2Units.all s.dev.trained.contains then
    modDev (offer (enterStage s .s2) allRegions) fun d => { d with clockMHz := Config.clockMax }
  else s)

/-- The CXL tier is enumerated, where the card has expanders (R17, R31). -/
def tierReady (s : State) : Bool := !s.dev.cxlCabled || s.dev.cxlGts != 0

/-- STAGE_S3_REACHED (R31): PTP lock, and the CXL tier mapped where the card has expanders; a late stage is no longer
stalled. -/
def execStageS3Reached (s : State) : Answer :=
  .next (if s.dev.stage = .s2 && s.dev.clk.lock && tierReady s then
    modDev (enterStage s .s3) fun d => { d with cxlMapped := true, stalled := false, failUnit := 0 }
  else s)

/-- A unit of FAILUNIT's table (R33) that a stage waits for: the stage the device then stays at. -/
def waitsAt (unit : Nat) : Option Stage :=
  if (1 ≤ unit && unit ≤ 8) || (0x10 ≤ unit && unit ≤ 0x15) then some .s1
  else if unit = 0x20 || unit = 0x30 then some .s2
  else none

/-- The unit is not ready (R28): a stack or a cluster not trained, the CXL tier of a card with expanders not enumerated, no PTP
lock. -/
def notReady (s : State) (unit : Nat) : Bool :=
  if unit = 0x20 then !tierReady s else if unit = 0x30 then !s.dev.clk.lock else !s.dev.trained.contains unit

/-- The deadline of the stage that comes next has passed (R28): 4 s for S2, 10 s for S3. -/
def stageLate (s : State) : Bool := (if s.dev.stage = .s1 then 4000 * milli else 10000 * milli) ≤ sincePerst s

/-- A unit has missed a deadline: it is shown and reported, and a stack or a cluster is trained once more; one that fails
again has failed for good, and the CXL tier and the PTP lock are reported once (R31). -/
def missDeadline (s : State) (unit : BitVec 8) : State :=
  let u := unit.toNat
  let again (d : Device) : Device :=
    if d.stage != .s1 then { d with failed := d.failed ++ [u] }
    else if d.retried.contains u then { d with failed := d.failed ++ [u] }
    else { d with retried := d.retried ++ [u] }
  sendReply (modDev s fun d => again { d with stalled := true, failUnit := unit }) (.failure unit)

/-- STAGE_DEADLINE_MISSED (R31): of the stage in hand, by a unit that is not ready; without the 54 V rail the device waits
at S1 and no unit fails (R11). Where that rail comes only after the deadline, the units that are not trained are late at once
(notes/assumptions/61). -/
def execStageDeadlineMissed (unit : BitVec 8) (s : State) : Answer :=
  .next (if waitsAt unit.toNat = some s.dev.stage && s.dev.aux54 && stageLate s && notReady s unit.toNat &&
      !s.dev.failed.contains unit.toNat then missDeadline s unit
  else s)

/-- A stack or a cluster is trained (R28), once the host link's domain is out of reset, unless it has failed for good
(R31). -/
def unitTrained (s : State) (unit : Nat) : State :=
  if s2Units.contains unit && !s.dev.perst && s.dev.aux54 && !s.dev.failed.contains unit && !s.dev.trained.contains unit then
    modDev s fun d => { d with trained := d.trained ++ [unit] }
  else s

/-! ### Features (R34, R35) -/

/-- The tag allocator of a partition whose VF comes to exist (R70). -/
def firstTag (s : State) : State := { s with parts := mapVals (fun _ p => { p with tagNext := 1 }) s.parts }

/-- DRVFEAT written; FEATACT.VFS newly set brings the VFs into being (R36, R70). -/
def setDrvFeat (s : State) (v : BitVec 32) : State :=
  let s := if !featOn s 12 && (s.dev.devFeat &&& v).getLsbD 12 then firstTag s else s
  modDev s fun d => { d with drvFeat := v &&& 0x7FFF#32, featAct := d.featAct ||| (d.devFeat &&& v), featPend := false }

/-- DRVFEAT_WRITE (R35). -/
def execDrvfeatWrite (v : BitVec 32) (s : State) : Answer := .next (setDrvFeat s v)

/-! ### Power cap, clock, sensors, wear (R12, R19, R40, R41) -/

/-- POWER event (R142), to every ring. -/
def powerEvent (s : State) (code v : Nat) : State := emitEvent s 0 srcMgmt 19 code 0 v

/-- A power cap set over PLDM (R12); one outside the range changes nothing and is not answered (notes/assumptions/44). -/
def setPowerCap (s : State) (watts : Nat) : State :=
  if sidebandUp s && Config.powerCapMin ≤ watts && watts ≤ Config.powerCapMax then
    powerEvent (modDev s fun d => { d with capW := watts }) 1 watts
  else s

/-- POWER_CAP_SET (R12). -/
def execPowerCapSet (watts : Nat) (s : State) : Answer :=
  .next (if controllerPaused s then latch s (.powerCapSet watts) else setPowerCap s watts)

/-- CLOCK_STEP (R12): at S1 rates the clock is held (R11). -/
def execClockStep (up : Bool) (s : State) : Answer :=
  let now := s.dev.clockMHz
  let mhz := if up then now + Config.clockStep else now - Config.clockStep
  .next (if atStage s .s2 && !controllerPaused s && Config.clockMin ≤ mhz && mhz ≤ Config.clockMax then
    powerEvent (modDev s fun d => { d with clockMHz := mhz }) 0 mhz
  else s)

/-- The thermal limit is met (R142): POWER code 2 with the clock it leaves. -/
def thermalLimit (s : State) (mhz : Nat) : State :=
  if atStage s .s2 && Config.clockMin ≤ mhz && mhz ≤ Config.clockMax then
    powerEvent (modDev s fun d => { d with clockMHz := mhz }) 2 mhz
  else s

/-- A sensor's number, for the free readings. -/
def sensorNumber : Sensor → Nat
  | .cardPower => 0
  | .temperature k => k + 1
  | _ => 0

/-- A sensor read and answered. -/
def readSensor (s : State) (sensor : Sensor) : State :=
  match sensor with
  | .powerCap => sendReply s (.sensor sensor (BitVec.ofNat 32 s.dev.capW))
  | .clock => sendReply s (.sensor sensor (BitVec.ofNat 32 s.dev.clockMHz))
  | _ =>
    let (m, s) := nextMoment s
    sendReply s (.sensor sensor (Config.sensorValue (sensorNumber sensor) m))

/-- PLDM_SENSOR_READ (R19). -/
def execPldmSensorRead (sensor : Sensor) (s : State) : Answer :=
  .next (if controllerPaused s then latch s (.pldmSensorRead sensor) else readSensor s sensor)

/-- An indicator as the page holds it (R41): bits [127:124] zero, EOLSEC zero while STATE is 0; entry 20 counts the
identity signatures left (R40). -/
def wearEntry (s : State) (i : Nat) (v : BitVec 128) : BitVec 128 :=
  let v := bits v.toNat 123 0
  let v := if bits v 123 120 = 0 then bits v 63 0 + 2 ^ 112 * bits v 119 112 else v
  BitVec.ofNat 128 (if i = 20 then v / 2 ^ 32 * 2 ^ 32 + signaturesLeft s else v)

/-- An update of the wear page is due (R40): the first, and then one every 60 s. -/
def wearDue (s : State) : Bool :=
  match s.dev.wearAt with
  | none => true
  | some t => t + 60000 * milli ≤ s.dev.uptime

/-- WEAR_UPDATE (R40, R41): one that is due makes the generation odd and takes the indicators; the next writes them, makes
the generation even again, and reports them over the sideband. -/
def execWearUpdate (entries : List (BitVec 128)) (s : State) : Answer :=
  .next (if !sidebandUp s || controllerPaused s then s
    else match s.dev.wearNext with
      | some page =>
        let s := modDev s fun d => { d with wear := page, wearNext := none, wearGen := d.wearGen + 1 }
        sendReply s (.wear s.dev.wearGen page)
      | none =>
        if !wearDue s then s
        else
          let page := (List.range 21).map fun i => (i, wearEntry s i (entries.getD i 0))
          modDev s fun d => { d with wearNext := some page, wearGen := d.wearGen + 1, wearAt := some d.uptime })

/-! ### Links (R8, R13, R14, R17, R18) -/

/-- LINK event (R142) of link 0 host, 1 CXL, 2 die-to-die, to the device ring. -/
def linkEvent (s : State) (link code gts n : Nat) : State :=
  let src := if link = 0 then srcHost else if link = 1 then srcCxl else srcD2d
  emitEvent s (if link = 1 then 1 else 0) src 12 code 0 (link + 256 * (gts % 256) + 65536 * (n % 65536))

/-- An expander is one of a whole interleave set (R17): 1, 2, 4 or 8 of one size over one range, each way once. -/
def wholeSet (xs : List Expander) (x : Expander) : Bool :=
  [1, 2, 4, 8].contains x.ways && x.bytes % 4096 == 0 && (List.range x.ways).all fun k =>
    (xs.filter fun y => y.base == x.base && y.ways == x.ways && y.bytes == x.bytes && y.way == k).length == 1

/-- Two expanders share no address unless they interleave over one range. -/
def apart (x y : Expander) : Bool :=
  x.base == y.base || x.base + x.bytes * x.ways ≤ y.base || y.base + y.bytes * y.ways ≤ x.base

/-- The rates that the CXL link trains to (R17): 128 GT/s only where every expander and its switch advertise it, 64, and 32 or
below. -/
def cxlRateOk (gts : Nat) (xs : List Expander) : Bool :=
  (gts = 128 && !xs.isEmpty && xs.all (·.fast)) || gts = 64 || (1 ≤ gts && gts ≤ 32)

/-- What the port attaches (R17): at most eight expanders, 4 TiB, in whole interleave sets within the second tier's range. -/
def expandersOk (xs : List Expander) : Bool :=
  xs.length ≤ 8 && (xs.map (·.bytes)).foldl (· + ·) 0 ≤ 2 ^ 42 &&
    xs.all fun x => 0x10000000000 ≤ x.base && x.base + x.bytes * x.ways ≤ 0x50000000000 && x.way < x.ways && wholeSet xs x &&
      xs.all fun y => apart x y && (x.base != y.base || x.ways == y.ways)

/-- CXL_LINK_TRAINED (R17): with expanders, which the card then has. -/
def execCxlLinkTrained (gts width : Nat) (expanders : List Expander) (s : State) : Answer :=
  .next (if s.dev.aux54 && cxlRateOk gts expanders && [1, 2, 4, 8, 16].contains width then
    linkEvent (modDev s fun d => { d with cxlCabled := d.cxlCabled || !expanders.isEmpty, cxlGts := gts, cxlWidth := width,
                                          expanders := if expandersOk expanders then expanders else [] }) 1 0 gts width
  else s)

/-- EXPANDER_LOST (R18): its range is lost, with the LINK event. -/
def execExpanderLost (k : Nat) (s : State) : Answer :=
  .next (match s.dev.expanders[k]? with
    | none => s
    | some x =>
      let s := modDev s fun d => { d with expanders := dropAt d.expanders k, lostRanges := d.lostRanges ++ [x] }
      linkEvent s 1 3 s.dev.cxlGts s.dev.lostRanges.length)

/-- D2D_CORRECTABLE_RETRY (R8): counted and traced. -/
def execD2dCorrectableRetry (s : State) : Answer :=
  let s := modDev s fun d => { d with d2dRetries := d.d2dRetries + 1 }
  .next (linkEvent s 2 1 Config.d2dGts.toNat s.dev.d2dRetries)

/-- D2D_UNCORRECTABLE_FLIT (R8): the flit's granules, of device memory or of the host traffic that crosses the link (R9),
are poisoned (R202). -/
def execD2dUncorrectableFlit (granules : List (Bool × Nat)) (s : State) : Answer :=
  let s := granules.foldl (fun s g => poisonAt s ⟨g.1, 64 * g.2⟩) s
  let s := modDev s fun d => { d with d2dFlits := d.d2dFlits + 1 }
  .next (linkEvent s 2 2 Config.d2dGts.toNat s.dev.d2dFlits)

/-! ### BAR2 (R15) -/

/-- BAR2BASE written: bits [51:30], ignored where the base is no multiple of the BAR's size. -/
def setBar2Base (s : State) (v : Nat) : State :=
  let base := bits v 51 30 * 2 ^ 30
  if base % 2 ^ s.dev.bar2log2 = 0 then modDev s fun d => { d with bar2base := BitVec.ofNat 64 base } else s

/-- BAR2BASE_WRITE (R15). -/
def execBar2baseWrite (v : BitVec 64) (s : State) : Answer := .next (setBar2Base s v.toNat)

/-- Memory that a host access through BAR2 finds at an address. -/
def backed (s : State) (a : Nat) : Bool := present s a && !lostAt s a

/-- HOST_BAR2_ACCESS (R15): of as many bytes as `data` has. An access of which only some bytes are backed is one to nothing,
and one past the BAR's size changes nothing (notes/assumptions/44). -/
def execHostBar2Access (off : Nat) (write : Bool) (data : List Byte) (s : State) : Answer :=
  let a := s.dev.bar2base.toNat + off
  .next (if 2 ^ s.dev.bar2log2 < off + data.length then s
    else if (List.range data.length).all fun i => backed s (a + i) then
      if write then save s ⟨false, a⟩ data else modDev s fun d => { d with hostRead := load s ⟨false, a⟩ data.length }
    else
      let s := modDev s fun d => { d with bar2Unmapped := d.bar2Unmapped + 1,
                                          hostRead := if write then d.hostRead else data.map fun _ => 0xFF#8 }
      linkEvent s 0 (Config.bar2Code.toNat % 5) s.dev.linkGts s.dev.bar2Unmapped)

end Sys2Proof.Machine
end

