-- ==== Sys2Proof/Machine/Time.lean ====
section
/-! DEFINITION. Trace time's discipline (R20, R134 to R137): PPS edges, holdover, era, the queenside counter; and the
passing of time, with the timers it moves (R128, R150, R152, R53). -/

namespace Sys2Proof.Machine

def modClk (s : State) (f : Clock → Clock) : State := modDev s fun d => { d with clk := f d.clk }

/-! ### Marks in trace time -/

/-- The stamps a queue's deadlines count from, moved by `d`. -/
def shiftQueue (d : DWord) (u : Queue) : Queue := { u with rungAt := u.rungAt + d, stallAt := u.stallAt.map (· + d)
                                                           fireStallAt := u.fireStallAt.map (· + d) }

/-- The stamps a partition's watchdogs and deadlines count from, moved by `d`, each queue's by `f`. -/
def shiftPart (f : Queue → Queue) (d : DWord) (p : Part) : Part :=
  { p with progressAt := p.progressAt + d, freedAt := p.freedAt + d
           queues := mapVals (fun _ u => f u) p.queues
           rings := mapVals (fun _ r => { r with stallAt := r.stallAt.map (· + d) }) p.rings }

/-- TT stepped by `d` (R135): every deadline keeps the time it has left. -/
def stepTime (s : State) (d : DWord) : State :=
  { s with
    parts := mapVals (fun _ p => shiftPart (shiftQueue d) d p) s.parts
    dev := { s.dev with
      chargedAt := s.dev.chargedAt + d
      clk := { s.dev.clk with tt := s.dev.clk.tt + d, lastEdge := s.dev.clk.lastEdge.map (· + d), edgeAt := s.dev.clk.edgeAt.map (· + d) }
      castle := { s.dev.castle with
        importAt := s.dev.castle.importAt + d, beatAt := s.dev.castle.beatAt + d, pauseAt := s.dev.castle.pauseAt + d
        latched := s.dev.castle.latched.map fun x => (x.1, x.2 + d) } } }

/-! ### PPS edges (R135) -/

/-- Units of TT in a second. -/
def second : Int := 16000000000

/-- How long ago the edge in hand came, in units: more than 0 for one that was latched (R49). -/
def edgeAge (s : State) : Nat := match s.dev.clk.edgeAt with | some t => (s.dev.clk.tt - t).toNat | none => 0

/-- TT with its era when the edge in hand came, since the PTP epoch. -/
def fullTime (s : State) : Int := (s.dev.clk.era.toNat * 2 ^ 64 + s.dev.clk.tt.toNat : Nat) - (edgeAge s : Int)

/-- The second nearest to the edge. -/
def nearSecond (s : State) : Int := (fullTime s + second / 2) / second

/-- Units from the nearest whole second to the edge. -/
def phase (s : State) : Int := fullTime s - nearSecond s * second

/-- A number of nanoseconds saturated to 32 bits, signed. -/
def satNs (n : Int) : Nat := (BitVec.ofInt 32 (max (-2147483648) (min 2147483647 n))).toNat

/-- The time from which the next edge is awaited (R20). -/
def noteEdge (s : State) : State := modClk s fun c => { c with lastEdge := some (c.edgeAt.getD c.tt), holdover := false }

/-- An edge that is taken as a true one. -/
def takeEdge (s : State) : State := noteEdge (modClk s fun c => { c with rejects := [] })

/-- The first edge with a delivered time of day sets TT and ERA. -/
def firstEdge (s : State) (secs : Nat) : State :=
  let target : Nat := secs * 16000000000
  let d := BitVec.ofNat 64 (target + edgeAge s) - s.dev.clk.tt
  let ns := ((target % 2 ^ 64 : Nat) - (s.dev.clk.tt.toNat : Int)) / 16
  let s := modClk (stepTime s d) fun c => { c with era := BitVec.ofNat 8 (target / 2 ^ 64), stepped := true, inBand := 1, ppsOfs := 0 }
  timeEvent (timeEvent (takeEdge s) 2 (satNs ns)) 4 s.dev.clk.era.toNat

/-- An edge within 20 ns of a whole second: the second running sets PTPLOCK. -/
def goodEdge (s : State) : State :=
  let s := modClk (takeEdge s) fun c => { c with inBand := c.inBand + 1 }
  if 2 ≤ s.dev.clk.inBand && !s.dev.clk.lock then timeEvent (modClk s fun c => { c with lock := true }) 0 0 else s

/-- An edge that is off by up to 1 µs: the lock is lost and TT is slewed towards it. -/
def offEdge (s : State) : State :=
  let p := phase s
  timeEvent (modClk (takeEdge s) fun c => { c with inBand := 0, lock := false, owed := -p, slewAcc := 0 }) 5 (satNs (p / 16))

/-- Three rejected edges agree: within 20 ns of phase, in consecutive seconds. -/
def agree : List (Int × Nat) → Bool
  | [a, b, c] => b.2 == a.2 + 1 && c.2 == b.2 + 1 && max a.1 (max b.1 c.1) - min a.1 (min b.1 c.1) ≤ 320
  | _ => false

/-- A rejected edge, named `sec` by the tray; the third of three that agree is the true time. -/
def rejectEdge (s : State) (sec : Nat) : State :=
  let p := phase s
  let true_ := (sec : Int) * second
  let s := modClk s fun c => { c with
    inBand := 0, lock := c.lock && p.natAbs ≤ 320
    rejects := (c.rejects.drop (c.rejects.length - 2)) ++ [(fullTime s - true_, sec)] }
  let s := timeEvent s 6 (satNs (p / 16))
  if agree s.dev.clk.rejects then
    modClk (takeEdge s) fun c => { c with lock := false, owed := true_ - fullTime s, slewAcc := 0 }
  else s

/-- A rising edge of PPS with the time of day delivered for it, if any. Before the first step of TT an edge without one only
starts the wait for the next. -/
def edge (s : State) : State :=
  let tod := s.dev.clk.tod
  let s := modClk s fun c => { c with tod := none }
  if !s.dev.clk.stepped then (match tod with | some t => firstEdge s t | none => noteEdge s)
  else
    let p := phase s
    let s := modClk s fun c => { c with ppsOfs := BitVec.ofNat 32 (satNs (p / 16)) }
    let other := match tod with | some t => (t : Int) != nearSecond s | none => false
    if other || 16000 < p.natAbs then rejectEdge s (tod.getD (nearSecond s).toNat)
    else if p.natAbs ≤ 320 then goodEdge s
    else offEdge s

/-- PPS_EDGE (R135); latched through the controller's castling pause (R49). -/
def execPpsEdge (s : State) : Answer :=
  .next (if !sidebandUp s then s else if controllerPaused s then latch s .ppsEdge else edge s)

/-- The time of day for the next edge. -/
def deliverTime (s : State) (secs : Nat) : State := if sidebandUp s then modClk s fun c => { c with tod := some secs } else s

/-- TIME_OF_DAY_DELIVERY (R20). -/
def execTimeOfDayDelivery (secs : Nat) (s : State) : Answer :=
  .next (if controllerPaused s then latch s (.timeOfDayDelivery secs) else deliverTime s secs)

/-- Whether 1.5 s have gone by since the last edge (R20). -/
def edgesLate (s : State) : Bool := match s.dev.clk.lastEdge with
  | some t => 24000000000 ≤ (tt s - t).toNat
  | none => false

/-- PPS_HOLDOVER (R20, R135): 1.5 s since the last edge that was not rejected. -/
def execPpsHoldover (s : State) : Answer :=
  .next (if !s.dev.clk.holdover && edgesLate s then
    timeEvent (modClk s fun c => { c with holdover := true, lock := false, inBand := 0 }) 1 0
  else s)

/-- TT has wrapped: ERA goes up, with its event. -/
def nextEra (s : State) : State :=
  let s := modClk s fun c => { c with era := c.era + 1 }
  timeEvent s 4 s.dev.clk.era.toNat

/-- TT_ERA_WRAP (R135): the count passes from its end to 0. -/
def execTtEraWrap (s : State) : Answer :=
  .next (if tt s = BitVec.allOnes 64 then nextEra (modClk s fun c => { c with tt := 0 }) else s)

/-- D2D_TIME_CALIBRATION (R136): the difference measured, with the alarm where it exceeds 24 units. -/
def execD2dTimeCalibration (diff : BitVec 16) (s : State) : Answer :=
  let s := modClk s fun c => { c with skew := diff }
  .next (if 24 < diff.toInt.natAbs then timeEvent s 3 diff.toNat else s)

/-- SKEW_ALARM (R136). -/
def execSkewAlarm (s : State) : Answer := .next (timeEvent s 3 s.dev.clk.skew.toNat)

/-! ### The passing of time -/

/-- TT advanced by `units` of the oscillator, slewed by at most one unit in 1,000 (R135). -/
def advance (c : Clock) (units : Nat) : Nat × Clock :=
  let acc := c.slewAcc + units
  let k := min c.owed.natAbs (acc / 1000)
  let d := if 0 ≤ c.owed then units + k else units - k
  (d, { c with tt := c.tt + BitVec.ofNat 64 d, owed := if 0 ≤ c.owed then c.owed - k else c.owed + k
               slewAcc := if c.owed = 0 then 0 else acc % 1000 })

/-- T1 and T2 of a queue pause, and its tag stall where `tags` says so; the recovery timeout does not. -/
def pauseQueue (d : DWord) (tags : Bool) (u : Queue) : Queue :=
  { u with rungAt := if u.state == .recovery then u.rungAt else u.rungAt + d
           stallAt := if tags then u.stallAt.map (· + d) else u.stallAt
           fireStallAt := if tags then u.fireStallAt.map (· + d) else u.fireStallAt }

/-- What `d` units do to a partition's timers: all pause while it is trace-stalled (R128, R152), the spill watchdog while it
is not watched. -/
def timePart (s : State) (d : Nat) (n : Nat) (p : Part) : Part :=
  let w := BitVec.ofNat 64 d
  if p.trace.stalled then
    let climb (m : Sparse Nat) (u : Nat × Queue) : Sparse Nat := if inRung u.2 then store m u.1 (lookup 0 m u.1 + d) else m
    { shiftPart (pauseQueue w true) w p with trace := { p.trace with
        stallUnits := p.trace.stallUnits + d, rungStall := p.queues.foldl climb p.trace.rungStall } }
  else if watched s n then p else { p with progressAt := p.progressAt + w }

/-- Time passes: `units` of 1/16 ns of the oscillator, from the 3.3 V rail on (R28); TT counts from S0 on. -/
def passTime (s : State) (units : Nat) : State :=
  let s := if s.dev.aux33 then modDev s fun d => { d with uptime := d.uptime + units } else s
  if !sidebandUp s then s
  else
    let old := tt s
    let (d, c) := advance s.dev.clk units
    let s := { s with parts := mapVals (timePart s d) s.parts, dev := { s.dev with clk := c } }
    if (tt s).toNat < old.toNat then nextEra s else s

end Sys2Proof.Machine
end

