-- ==== Sys2Proof/Machine/Castling.lean ====
section
/-! DEFINITION. Castling: live firmware replacement (R42 to R53), and the staging window (R43). -/

namespace Sys2Proof.Machine

def modCastle (s : State) (f : Castle → Castle) : State := modDev s fun d => { d with castle := f d.castle }
def modStaging (s : State) (f : Staging → Staging) : State := modDev s fun d => { d with staging := f d.staging }

/-! ### States, log and notices (R44, R52) -/

/-- CASTLING event (R142) of the state entered, to every ring. -/
def castleEvent (s : State) : State :=
  let c := s.dev.castle
  emitEvent s 0 srcMgmt 17 (castleCode c.state) 0 (bodyCode c.body + 4 * c.heartbeats + 512 * c.reason)

/-- A state of CASTLESTAT entered. -/
def enterCastle (s : State) (g : CastleState) (reason : Nat := 0) : State :=
  castleEvent (modCastle s fun c => { c with state := g, reason := reason })

/-- The REMEASURE message for the newest log entry (R52). -/
def remeasure (e : LogEntry) : Message :=
  { bytes := leBytes 2 1 ++ leBytes 1 e.kind ++ leBytes 1 (bodyCode e.body) ++ leBytes 4 e.seq ++ leBytes 8 e.tt.toNat ++
      leBytes 32 e.measurement.toNat ++ leBytes 4 e.version.toNat ++ leBytes 12 0
    remeasure := true }

/-- Log entry, class 18 event and a REMEASURE to every partition's mailbox (R52). -/
def notify (s : State) (kind : Nat) : State :=
  let s := appendLog s kind s.dev.castle.body
  match s.dev.log.getLast? with
  | none => s
  | some e =>
    let s := emitEvent s 0 srcMgmt 18 kind 0 e.seq
    (List.range 24).foldl (fun s k => postMessage s (k + 1) (remeasure e)) s

/-! ### Requests (R38, R42, R44) -/

/-- Castling of a body can be requested now (R42). -/
def castleOffered (s : State) : Body → Bool
  | .controller => sidebandUp s
  | _ => featOn s 11

/-- The staging area is freed once CASTLESTAT leaves VERIFY (R43). -/
def freeStaging (s : State) : State := modStaging s fun g => if g.requested then { g with image := [] } else g

/-- The standby stores of the engines that have still to swap back after a fall-back (R51). -/
def standbys (c : Castle) : List (FwStore × ImageFacts) :=
  c.stores.filter fun x => match x.1 with | .engineStandby e => c.back.contains e | _ => false

/-- A request with no castling under way: VERIFY, or REFUSED with STAGE or LOGFULL. -/
def requestCastle (s : State) (b : Body) (img : ImageFacts) : State :=
  let s := modCastle s fun c => { c with body := b, image := some img, verified := false, record := none, checkpoint := none
                                         stores := standbys c }
  if !castleOffered s b then freeStaging (enterCastle s .refused 4)
  else if Config.measurementLogEntries ≤ s.dev.log.length then freeStaging (enterCastle s .refused 5)
  else enterCastle s .verify

/-- An image delivered over PLDM. -/
def fwUpdate (s : State) (body : Body) (img : ImageFacts) : State :=
  if !sidebandUp s then s
  else if castling s then sendReply s (.castleRefused 3)
  else requestCastle s body img

/-- PLDM_FW_UPDATE (R42): refused with BUSY while one runs, which goes on undisturbed. -/
def execPldmFwUpdate (body : Body) (img : ImageFacts) (s : State) : Answer :=
  .next (if controllerPaused s then latch s (.pldmFwUpdate body img) else fwUpdate s body img)

/-! ### VERIFY and STAGED (R45, R46, R102) -/

/-- The lowest security version a body's image may have. -/
def minSecurityOf (s : State) (b : Body) : Nat := ((s.dev.castle.minSecurity.find? (·.1 == b)).map (·.2)).getD 0

/-- Why VERIFY refuses an image, as REASON has it. -/
def refusal (s : State) (b : Body) (img : ImageFacts) : Option Nat :=
  let v := (imageOf s b).schema
  if !img.signatureOk then some 1
  else if img.security < minSecurityOf s b then some 6
  else if v < img.importLo || img.importHi < v || !img.writes.contains v then some 2
  else if b == .scheduler && 512 < img.fgePeak then some 2
  else none

/-- CASTLE_VERIFY (R45). A loss of the host link while an image is verified does not stop the castling either
(notes/assumptions/43). -/
def execCastleVerify (s : State) : Answer :=
  let c := s.dev.castle
  .next (match c.state, c.image with
    | .verify, some img =>
      match refusal s c.body img with
      | some r => freeStaging (enterCastle s .refused r)
      | none => modCastle s fun c => { c with verified := true }
    | _, _ => s)

/-- Engines with a control store: 144 matrix cores, the four cluster engines of each cluster, two ingress units. -/
def engineCount : Nat := 170

/-- The places a body's second image takes (R46). -/
def storesOf : Body → List FwStore
  | .scheduler => .fgeInactive :: (List.range 24).map .managerBank
  | .engine => (List.range engineCount).map .engineStandby
  | .controller => [.controllerHalf]

/-- CASTLE_STAGED (R46): the new image is loaded beside the old one, an engine's once every engine has swapped back (R51). -/
def execCastleStaged (s : State) : Answer :=
  .next (match s.dev.castle.image with
    | some img =>
      if s.dev.castle.state = .verify && s.dev.castle.verified && (s.dev.castle.body != .engine || s.dev.castle.back.isEmpty) then
        freeStaging (enterCastle (modCastle s fun c => { c with stores := standbys c ++ (storesOf c.body).map fun x => (x, img) }) .staged)
      else s
    | none => s)

/-! ### State records (R47, R48, R50) -/

/-- Units of trace time left of a deadline `us` microseconds after a stamp. -/
def timeLeft (s : State) (us : Nat) (t : DWord) : Nat := us * 16000 - (tt s - t).toNat

/-- The time that each running timer of a queue has left (R104): T1, T2, the quantum of a holder, and its tag stalls. -/
def queueTimers (s : State) (n q : Nat) : List (Timer × Nat) :=
  let u := queueOf s n q
  (if u.state == .draining then [(.t1 n q, timeLeft s u.t1lim u.rungAt)] else []) ++
  (if u.state == .saving then [(.t2 n q, timeLeft s u.t2lim u.rungAt)] else []) ++
  (if (regionsOf s n q).isEmpty then [] else [(.quantum n q, 16000 * (u.deficit - u.charge))]) ++
  (u.stallAt.map fun t => (Timer.headStall n q, timeLeft s 10000 t)).toList ++
  (u.fireStallAt.map fun t => (Timer.fireStall n q, timeLeft s 10000 t)).toList

/-- The time that each running timer of a partition has left. -/
def partTimers (s : State) (n : Nat) : List (Timer × Nat) :=
  [0, 1, 2, 3].flatMap (queueTimers s n) ++
  (partOf s n).rings.filterMap (fun d => d.2.stallAt.map fun t => (Timer.ringStall n d.1, timeLeft s 10000 t)) ++
  (if watched s n then [(.spill n, timeLeft s 10000 (partOf s n).progressAt)] else [])

/-- The time that each running timer of the FGE has left (R47, R104). -/
def timersLeft (s : State) : List (Timer × Nat) := (List.range 24).flatMap fun k => partTimers s (k + 1)

/-- The scheduler's private state: what a record or a checkpoint of it holds (R48). -/
def capture (s : State) : FwRecord :=
  { credits := allQueues.filterMap fun x =>
      let u := queueOf s x.1 x.2
      if u.deficit = 0 && u.charge = 0 then none else some (x.1, x.2, u.deficit, u.charge)
    rounds := s.dev.rounds }

/-- A record imported: the scheduler's private state is what it holds. What the hardware holds stays (R48). -/
def importRecord (s : State) (r : FwRecord) : State :=
  let put (s : State) (x : Nat × Nat) : State :=
    let e := r.credits.find? fun c => c.1 == x.1 && c.2.1 == x.2
    let d := match e with | some c => c.2.2 | none => (0, 0)
    if (queueOf s x.1 x.2).deficit = d.1 && (queueOf s x.1 x.2).charge = d.2 then s
    else modQueue s x.1 x.2 fun u => { u with deficit := d.1, charge := d.2 }
  modDev (allQueues.foldl put s) fun d => { d with rounds := r.rounds }

/-! ### The castle point and probation (R47 to R51) -/

/-- The body is at its castle point (R47): for the scheduler every region manager is between tasks. The model takes packets,
commands and messages whole, so that none is ever half done between two steps. -/
def atCastlePoint (s : State) : Bool :=
  s.dev.castle.body != .scheduler || s.regions.all fun r => r.2.task.isNone

/-- CASTLE_POINT (R47): the old image writes its state record; the scheduler's has beside it the matching store, what the
timers have left, and the faults queued. -/
def execCastlePoint (s : State) : Answer :=
  .next (if s.dev.castle.state = .staged && atCastlePoint s then
    let r : FwRecord := if s.dev.castle.body = .scheduler then
        { capture s with store := s.fge.store, timers := timersLeft s, faults := s.faults }
      else {}
    enterCastle (modCastle s fun c => { c with record := some r, checkpoint := none, swapped := [], stall := none, pauseAt := tt s }) .castlePoint
  else s)

/-- A place's image exchanged with the one in control. -/
def flipStore (old : ImageFacts) (place : FwStore) (l : List (FwStore × ImageFacts)) : List (FwStore × ImageFacts) :=
  l.map fun x => if x.1 == place then (place, old) else x

/-- The engine is at a boundary (R47, R124): none of its commands is in the midst of work that may not be cut. -/
def engineAtBoundary (s : State) (e : Nat) : Bool :=
  s.cmds.all fun c => engineNumber c.region c.port != e || !c.issued || c.finished || cutHere c

/-- ENGINE_STORE_SWAP (R47, R51): one engine at a time stalls at a boundary, and then runs from its other store: the new one
at the castle point, the old one after a fall-back, whatever castling has been asked for since. -/
def execEngineStoreSwap (e : Nat) (s : State) : Answer :=
  let c := s.dev.castle
  let due := c.back.contains e || (c.body == .engine && c.state == .castlePoint && !c.swapped.contains e)
  .next (if engineCount ≤ e || !due then s
    else if c.stall == some e then
      modCastle s fun c => { c with
        stall := none, swapped := if c.back.contains e then c.swapped else c.swapped ++ [e]
        back := c.back.filter (· != e)
        stores := if c.back.contains e && c.state != .fallback then c.stores.filter (·.1 != .engineStandby e)
                  else flipStore (imageIn c.committed .engine) (.engineStandby e) c.stores }
    else if c.stall.isNone && engineAtBoundary s e then modCastle s fun c => { c with stall := some e }
    else s)

/-- Every engine the body concerns runs the new image. -/
def allSwapped (c : Castle) : Bool := c.body != .engine || (List.range engineCount).all c.swapped.contains

/-- T1 and T2 deadlines that fall within the scheduler's pause are extended by it, by at most 50 µs (R53). -/
def extendDeadlines (s : State) : State :=
  let from_ := s.dev.castle.pauseAt
  let pause := (tt s - from_).toNat
  let more := BitVec.ofNat 64 (min pause (50 * 16000))
  let falls (u : Queue) (us : Nat) : Bool :=
    let before := (from_ - u.rungAt).toNat
    before ≤ us * 16000 && us * 16000 ≤ before + pause
  let one (s : State) (x : Nat × Nat) : State :=
    let u := queueOf s x.1 x.2
    if (u.state == .draining && falls u u.t1lim) || (u.state == .saving && falls u u.t2lim) then
      modQueue s x.1 x.2 fun u => { u with rungAt := u.rungAt + more }
    else s
  allQueues.foldl one s

/-- One thing that was latched through the controller's pause is handled: an edge at the time it came (R49). -/
def handleLatched (s : State) (x : Item × DWord) : State :=
  match x.1 with
  | .event _ .ppsEdge => modClk (edge (modClk s fun c => { c with edgeAt := some x.2 })) fun c => { c with edgeAt := none }
  | .event _ (.timeOfDayDelivery secs) => deliverTime s secs
  | .event _ (.powerCapSet watts) => setPowerCap s watts
  | .event _ (.pldmSensorRead sensor) => readSensor s sensor
  | .event _ (.attestationRequestSideband nonce) => attestSideband s nonce
  | .event _ (.pldmFwUpdate body img) => fwUpdate s body img
  | _ => s

/-- A manager's result that waited is accepted (R103). -/
def takeResult (s : State) (x : ManagerResult) : State :=
  match x with
  | .saved r => takeSaved s r
  | .cleared r => if (regionOf s r).state == .clearing then settleRegion s r else s
  | .evicted n h => if (graphOf s n h).life == .evicting then evictDone s n h else s
  | x => takeLoad s x

/-- The managers' results that waited through a pause, in the order they came. -/
def takeResults (s : State) : State := s.fge.results.foldl takeResult { s with fge := { s.fge with results := [] } }

/-- The pause is over: deadlines are extended, the managers' results are accepted, held replies go out, and what was latched is handled in the order it came
(R47, R49, R53). -/
def endPause (s : State) : State :=
  match s.dev.castle.body with
  | .scheduler => takeResults (extendDeadlines s)
  | .controller =>
    let c := s.dev.castle
    let s := modDev s fun d => { d with sideband := d.sideband ++ c.replies, castle := { d.castle with replies := [], latched := [] } }
    c.latched.foldl handleLatched s
  | .engine => s

/-- The new image of a body takes control. -/
def takeControl (s : State) (img : ImageFacts) : State :=
  let c := s.dev.castle
  let old := imageOf s c.body
  let s := match c.body, c.record with
    | .scheduler, some r => importRecord s r
    | _, _ => s
  let s := modCastle s fun c => { c with
    current := putBody c.current c.body img, heartbeats := 0, importAt := tt s, beatAt := tt s
    stores := if c.body = .engine then c.stores else (storesOf c.body).foldl (fun l p => flipStore old p l) c.stores }
  endPause (enterCastle s .probation)

/-- CASTLE_IMPORT_DONE (R47, R48): the new image has imported the record and is in control; the old one stays beside it;
nothing the hardware holds changes. -/
def execCastleImportDone (s : State) : Answer :=
  let c := s.dev.castle
  .next (match c.state, c.image with
    | .castlePoint, some img => if allSwapped c then takeControl s img else s
    | _, _ => s)

/-- Units of trace time in 10 ms. -/
def beatLimit : Nat := 160000000

/-- Time since the last heartbeat, or since the import. -/
def sinceBeat (s : State) : Nat := (tt s - s.dev.castle.beatAt).toNat

/-- CASTLE_HEARTBEAT (R50): with its checkpoint in the old image's schema. -/
def execCastleHeartbeat (s : State) : Answer :=
  .next (if s.dev.castle.state = .probation && sinceBeat s ≤ beatLimit then
    modCastle s fun c => { c with
      heartbeats := min 127 (c.heartbeats + 1), beatAt := tt s
      checkpoint := some (if c.body = .scheduler then capture s else {}) }
  else s)

/-- A castling ends in fall-back and the old image is in control (R22, R51); through a pause that it ends it has been in
control. The engines that run the new image are to swap back. -/
def abandon (s : State) : State :=
  let c := s.dev.castle
  let s := modCastle s fun c => { c with
    current := putBody c.current c.body (imageIn c.committed c.body), image := none, record := none, checkpoint := none, stall := none
    back := c.back ++ c.swapped, swapped := [], stores := if c.body = .engine then c.stores else standbys c }
  let s := notify (enterCastle s .fallback) 3
  if c.state = .castlePoint then endPause s else s

/-- Fall-back (R51): the old image imports the latest checkpoint, or its own record. -/
def fallBack (s : State) : State :=
  let c := s.dev.castle
  abandon (match c.state, c.body, c.checkpoint.or c.record with
    | .probation, .scheduler, some r => importRecord s r
    | _, _, _ => s)

/-- HEARTBEAT_DEADLINE (R51). -/
def execHeartbeatDeadline (s : State) : Answer :=
  .next (if s.dev.castle.state = .probation && beatLimit ≤ sinceBeat s then fallBack s else s)

/-- CASTLE_COMMIT (R50): 1 s after the import with no deadline missed. -/
def execCastleCommit (s : State) : Answer :=
  let c := s.dev.castle
  .next (match c.state, c.image with
    | .probation, some img =>
      if (tt s - c.importAt).toNat < 16000000000 || beatLimit < sinceBeat s then s
      else
        let s := modCastle s fun c => { c with
          committed := putBody c.committed c.body img, minSecurity := putBody c.minSecurity c.body img.security
          image := none, swapped := [], stores := standbys c, record := none, checkpoint := none }
        notify (enterCastle s .committed) 2
    | _, _ => s)

/-! ### The staging window (R43) -/

/-- An image size FWSSIZE admits. -/
def sizeOk (n : Nat) : Bool := n % 64 = 0 && 64 ≤ n && n ≤ 2 ^ 28

/-- OPEN written; a chunk being copied and an image still in VERIFY are dropped too (notes/assumptions/43). -/
def fwsOpen (s : State) (body : Nat) : State :=
  modStaging s fun g =>
    let g := { g with body := BitVec.ofNat 2 body, push := false, received := 0, total := g.size, image := [], requested := false }
    if body = 3 || !sizeOk g.size.toNat then { g with state := 3, err := 1 } else { g with state := 1, err := 0 }

/-- FWSCTL_OPEN (R43). -/
def execFwsctlOpen (body : BitVec 2) (s : State) : Answer := .next (if atStage s .s1 then fwsOpen s body.toNat else s)

/-- PUSH written: the chunk is checked and its copy begins. With no image being assembled it is ignored
(notes/assumptions/43). -/
def fwsPush (s : State) : State :=
  modStaging s fun g =>
    if g.push || g.state != 1 then g
    else if g.len.toNat % 64 != 0 || g.len = 0 || 2 ^ 23 < g.len.toNat then { g with state := 3, err := 1 }
    else if g.off != g.received || g.total.toNat < g.off.toNat + g.len.toNat then { g with state := 3, err := 2 }
    else { g with push := true }

/-- FWSPUSH (R43). -/
def execFwspush (s : State) : Answer := .next (if atStage s .s1 then fwsPush s else s)

/-- FWS_CHUNK_COPIED (R43). -/
def execFwsChunkCopied (s : State) : Answer :=
  .next (modStaging s fun g =>
    if !g.push then g
    else
      let chunk := (g.window.filter fun x => x.1 < g.len.toNat).map fun x => (g.off.toNat + x.1, x.2)
      { g with image := g.image ++ chunk, received := g.received + g.len.setWidth 32, push := false })

/-- GO written, with what the image holds: an image whose every byte has come and that has not been handed over yet goes
to VERIFY. A second GO for an image that has been handed over is one for no image: ERR 3 (notes/assumptions/61). -/
def fwsGo (s : State) (img : ImageFacts) : State :=
  let g := s.dev.staging
  if g.total = 0 || g.received != g.total then modStaging s fun g => { g with state := 3, err := 3 }
  else if castling s then modStaging s fun g => { g with state := 3, err := 4 }
  else if g.requested then modStaging s fun g => { g with state := 3, err := 3 }
  else requestCastle (modStaging s fun g => { g with state := 2, err := 0, requested := true }) (bodyOf g.body.toNat) img

/-- FWSCTL_GO (R43). -/
def execFwsctlGo (img : ImageFacts) (s : State) : Answer := .next (if atStage s .s1 then fwsGo s img else s)

end Sys2Proof.Machine
end

