-- ==== Sys2Proof/Machine/Reset.lean ====
section
/-! DEFINITION. Function-level reset (R21 to R23, R27, R35, R153), PERST# and the loss of power (R35, R53). -/

namespace Sys2Proof.Machine

/-! ### FLR of a partition (R21) -/

/-- A queue as reset leaves it: QT1 and QT2 from flash (R122). -/
def freshQueue (s : State) : Queue := { t1us := s.dev.t1def, t2us := s.dev.t2def, t1lim := s.dev.t1def, t2lim := s.dev.t2def }

/-- A queue was in use: enabled, at work or in a state. -/
def inUse (s : State) (n q : Nat) : Bool :=
  (queueOf s n q).enable || (queueOf s n q).state != .idle || (partOf s n).acts.any (·.queue == q)

/-- A queue after FLR: IDLE with FAULT 0; with the link lost meanwhile, one in use takes LINKLOST (R27). -/
def flrQueue (s : State) (n q : Nat) : Queue :=
  if !s.dev.linkUp && inUse s n q then { freshQueue s with state := .linkLost, fault := 0x40 } else freshQueue s

/-- A partition after FLR: what the PF's registers set stays, all else is as reset leaves it. -/
def flrRecord (s : State) (n : Nat) : Part :=
  let p := partOf s n
  { en := p.en, rmax := p.rmax, dies := p.dies, hold := p.hold, ptEn := p.ptEn, ptRoot := p.ptRoot, progressAt := tt s
    queues := [0, 1, 2, 3].map fun q => (q, flrQueue s n q) }

/-- Regions whose contents are the partition's. -/
def regionsWith (s : State) (n : Nat) : List Nat :=
  allRegions.filter fun r => (regionOf s r).owner == n || (regionOf s r).last == n

/-- Set units bound to the partition's configurations. -/
def unitsBound (s : State) (n : Nat) : List (Bool × Nat × Nat) :=
  (partOf s n).graphs.flatMap fun g => g.2.places.flatMap (·.sets)

/-- The partition a manager's task is for. -/
def ManagerTask.part : ManagerTask → Nat
  | .swap n _ _ => n
  | .load n _ => n

/-- The partition that a manager's result of a graph is for. -/
def resultPart : ManagerResult → Option Nat
  | .loaded n _ _ | .failed n _ _ | .evicted n _ => some n
  | .saved _ | .cleared _ => none

/-- A region in which nothing of partition `n` is left: free, where `n` held it or held it last; one that another holds and
whose clearing waits stays that one's. -/
def regionWithout (n : Nat) (rs : List Nat) (r : Nat) (g : Region) : Region :=
  let keep (c : Option SavedRegion) := c.filter (·.part != n)
  let g := { g with shadow := keep g.shadow, loaded := keep g.loaded, task := g.task.filter (·.part != n) }
  if !rs.contains r then g
  else if g.owner = n || g.owner = 0 then { avail := g.avail, shadow := g.shadow }
  else { g with last := 0, lines := [], spill := [], streams := [], lat := [], sets := [], acked := [] }

/-- Regions cleared and returned to the free pool. -/
def clearRegions (s : State) (n : Nat) (rs : List Nat) : State :=
  { s with
    elems := s.elems.filter fun e => !rs.contains (elemRegion e.1)
    cores := eraseAll s.cores (rs.flatMap coresOf)
    regions := mapVals (regionWithout n rs) s.regions }

/-- The partition's engines reset. -/
def clearEngines (s : State) (n : Nat) (rs : List Nat) : State :=
  { s with
    clusters := mapVals (fun cl c => { c with
      trees := c.trees.filter (·.1 / 64 != n), paths := c.paths.filter (·.1 / 64 != n), fifos := c.fifos.filter (·.1 / 16 != n)
      broker := c.broker.filter fun b => b.2.all (·.part != n)
      hwq := c.hwq.filter fun h => !rs.contains (4 * cl + h.1 / 16) }) s.clusters
    ingress := mapVals (fun _ i => { i with
      keys := i.keys.filter (·.1 / 4 != n), packers := i.packers.filter (·.1 / 65536 != n)
      segids := i.segids.filter (·.1 / 65536 != n) }) s.ingress
    drpRows := s.drpRows.filter fun r => !(s.cmds.any fun c => c.ident == r.cmd && c.part == n)
    cmds := s.cmds.filter (·.part != n), copies := s.copies.filter (·.part != n)
    net := s.net.filter (flightPart · != n), reqs := s.reqs.filter (reqPart · != n)
    posted := s.posted.filter (·.part != n), orders := s.orders.filter (·.part != n) }

/-- FLR of partition `n`: nothing of its context survives. -/
def flrPart (s : State) (n : Nat) : State :=
  let rs := regionsWith s n
  let rec_ := flrRecord s n
  let s := (unitsBound s n).foldl (fun s u => putSetUnit s u {}) s
  let s := clearEngines (clearRegions (stripTokens s (·.ctx == n)) n rs) n rs
  setPart { s with
    faults := s.faults.filter (·.part != n)
    fge := { s.fge with quiet := s.fge.quiet.filter (·.2.1 != n), results := s.fge.results.filter (resultPart · != some n) }
    pageFaults := s.pageFaults.filter (·.part != n)
    traceOut := s.traceOut.filter fun e => !(e.ctx == n && e.cls ≤ 10)
    dev := { s.dev with windows := s.dev.windows.filter (·.part != n), msixHeld := s.dev.msixHeld.filter (·.1.1 != n) } } n rec_

/-- VF_FLR (R21): a VF exists while FEATACT.VFS is 1 (R36). -/
def execVfFlr (n : Nat) (s : State) : Answer := .next (if 1 ≤ n && n ≤ 24 && featOn s 12 then flrPart s n else s)

/-! ### FLR of the PF (R22, R35) -/

/-- The partitions' PF registers at their reset values: the scheduler's post-S2 state. -/
def freshConfig (p : Part) : Part := { p with en := false, rmax := 0, dies := 3, hold := false }

/-- FLR of the PF. A castling before commit ends in fall-back, in which the scheduler takes up nothing of its former state. An image not yet requested is discarded, and one in VERIFY is freed with the castling's end (R43). -/
def flrPf (s : State) : State :=
  let s := (List.range 24).foldl (fun s k => modPart (flrPart s (k + 1)) (k + 1) freshConfig) s
  let s := modDev s fun d => { d with drvFeat := 0, featAct := 0, featPend := true, rounds := [], msixHeld := [] }
  let s := modStaging s fun g => { g with
    state := 0, err := 0, received := 0, push := false, total := 0, image := [], requested := false }
  if castling s then abandon s else s

/-- PF_FLR (R22). -/
def execPfFlr (s : State) : Answer := .next (flrPf s)

/-- HOST_VF_BAR_ACCESS_IN_FLR (R23): a write is discarded, a read completes with all ones. -/
def execHostVfBarAccessInFlr (_n _off : Nat) (write : Bool) (_v : BitVec 64) (s : State) : Answer :=
  .next (if write then s else modDev s fun d => { d with hostRead := leBytes 8 (2 ^ 64 - 1) })

/-! ### PERST# and power (R35, R53) -/

/-- PERST# asserted: the PF and every partition are reset, the link is down, and the host-facing registers and stages
begin again from S0. CASTLESTAT, of the management controller, stays as it is (notes/assumptions/61). -/
def perst (s : State) : State :=
  let s := flrPf s
  let s := { s with
    parts := mapVals (fun _ p => { p with ptEn := false, ptRoot := 0 }) s.parts
    regions := mapVals (fun _ g => { g with avail := false }) s.regions
    tlb := [], ats := [], atsPending := [], traceOut := [] }
  modDev s fun d => { d with
    perst := true, linkUp := false, orderlyDown := false, linkGts := 0, linkWidth := 0, stage := if atStage s .s1 then .s0 else d.stage
    stalled := false, failUnit := 0, trained := [], retried := [], failed := [], devFeat := 0, bar2base := 0, tlbinv := 0, trace := {}
    clockMHz := Config.clockMin, msix := [], msixHeld := [], hostRead := [], cxlMapped := false, staging := {} }

/-- PERST_ASSERT (R35). -/
def execPerstAssert (s : State) : Answer := .next (perst s)

/-- POWER_LOSS (R53): what is in flash and what is the host's remains. -/
def execPowerLoss (s : State) : Answer :=
  let c := s.dev.castle
  .next { State.reset with
    agenda := s.agenda, focus := s.focus, hand := s.hand, moment := s.moment
    hostMem := s.hostMem, hostPoison := s.hostPoison
    dev := { xmssIndex := s.dev.xmssIndex, bar2log2 := s.dev.bar2log2, cxlCabled := s.dev.cxlCabled, peers := s.dev.peers
             castle := { committed := c.committed, minSecurity := c.minSecurity } } }

end Sys2Proof.Machine
end

