-- ==== Sys2Proof/Machine/Link.lean ====
section
/-! DEFINITION. The host link's training, its loss and its return (R13, R14, R24 to R27). -/

namespace Sys2Proof.Machine

/-! ### Loss (R24, R25, R150) -/

/-- A queue shows STATE LINKLOST with a rung and FAULT 0x40, and with it the data rings that follow it. -/
def showLost (s : State) (n q rung : Nat) : State :=
  let s := modQueue s n q fun u => { u with state := .linkLost, rung := rung, fault := 0x40, holdSaved := true }
  modFollowers s n q fun d =>
    if (d.enable || d.tag.isSome || !d.closings.isEmpty) && d.state != .error && d.state != .resetting then { d with state := .linkLost, rung := rung, fault := 0x40 }
    else d

/-- A queue at the loss of the link, by the state it is in (R24). A restore in progress completes first. -/
def loseQueue (s : State) (x : Nat × Nat) : State :=
  let (n, q) := x
  let s := restoreQueue s n q
  match queueState s n q with
  | .idle => if (queueOf s n q).enable then showLost s n q 0 else s
  | .run | .parkedFault =>
    if (queueOf s n q).savedCtx then showLost (giveUp s n q) n q 2 else startRung2 s n q
  | .draining => startRung2 s n q
  | .saved | .recovery => showLost (giveUp s n q) n q 2
  | _ => s

/-- A data ring in host memory that no ladder has taken stops too (R101). -/
def loseRing (d : DataRing) : DataRing :=
  if d.enable && d.host && plainRing d then { d with state := .linkLost, fault := 0x40 } else d

/-- Every data ring changed. -/
def modRings (s : State) (f : DataRing → DataRing) : State :=
  { s with parts := mapVals (fun _ p => { p with rings := mapVals (fun _ d => f d) p.rings }) s.parts }

/-- HOST_LINK_LOST (R24): after an orderly message only the link is down. Walks of the host that are pending end (R203). -/
def execHostLinkLost (s : State) : Answer :=
  .next (if !s.dev.linkUp then s
    else if s.dev.orderlyDown then modDev s fun d => { d with linkUp := false }
    else
      let s := allQueues.foldl loseQueue s
      let s := modRings (modDev { s with atsPending := [] } fun d => { d with linkUp := false }) loseRing
      let s := (List.range 24).foldl (fun s k => forceLossy s (k + 1) 4) s
      linkEvent s 0 4 s.dev.linkGts s.dev.linkWidth)

/-- LINKLOST_SAVE_COMPLETE (R24): of the queue in hand. -/
def execLinklostSaveComplete (s : State) : Answer :=
  let (n, q) := s.hand
  .next (if linkLost s && (queueOf s n q).state == .saved then showLost s n q 2 else s)

/-- ORDERLY_POWER_DOWN_MESSAGE (R24). -/
def execOrderlyPowerDownMessage (s : State) : Answer := .next (modDev s fun d => { d with orderlyDown := true })

/-! ### Return (R26) -/

/-- A queue at the return of the link: RECOVERY from rung 2, IDLE with FAULT 0 from rung 0. -/
def returnQueue (s : State) (x : Nat × Nat) : State :=
  let (n, q) := x
  let u := queueOf s n q
  if u.state != .linkLost then s
  else if u.rung = 2 then
    modFollowers (modQueue s n q fun u => { u with state := .recovery, rungAt := tt s }) n q fun d =>
      if d.state == .linkLost then { d with state := .recovery } else d
  else
    flushCpl (modQueue s n q fun u => { u with state := .idle, fault := 0, holdSaved := false }) n q

/-- A data ring that the loss stopped at rung 0 goes on. -/
def returnRing (d : DataRing) : DataRing := if d.state == .linkLost && d.rung = 0 then { d with state := .idle, fault := 0 } else d

/-- What still waits for an answer of the host that the loss of the link ended asks again (R203). -/
def askAgain (s : State) (n : Nat) : State :=
  ((awaited s n).filter fun page => isHostPage page && (faultOf s n page).isNone).foldl askHost s

/-- The link is up at a rate and a width, with its LINK event; queues and rings that the loss stopped go on,
and the loss forces no trace ring lossy any more (R150). MSI-X messages
held are signalled now but for those of queues that wait in RECOVERY. -/
def linkBack (s : State) (gts width : Nat) : State :=
  let s := linkEvent (modDev s fun d => { d with linkUp := true, orderlyDown := false, linkGts := gts, linkWidth := width }) 0 0 gts width
  let s := modRings (allQueues.foldl returnQueue s) returnRing
  let s := (List.range 24).foldl (fun s k => flushReserve (askAgain (unforce s (k + 1) 4) (k + 1)) (k + 1)) s
  releaseMsix s fun x => match x with
    | some (n, q) => (queueOf s n q).state != .recovery
    | none => true

/-- PCIE_LINK_TRAINED (R13, R14): in FLIT mode, at a rate and width the port supports; else the link stays untrained and
the cause is reported. -/
def execPcieLinkTrained (rate : LinkRate) (width : Nat) (s : State) : Answer :=
  .next (if s.dev.perst || !sidebandUp s then s
    else if rate.flit && [32, 64, 128].contains rate.gts && [1, 4, 8, 16].contains width then linkBack s rate.gts width
    else sendReply s (.untrained rate.gts width))

/-- HOST_LINK_RETRAINED (R26): as it was trained before. -/
def execHostLinkRetrained (s : State) : Answer :=
  .next (if s.dev.linkUp || s.dev.linkGts = 0 then s else linkBack s s.dev.linkGts s.dev.linkWidth)

/-- RECOVERY_TIMEOUT (R26): of the queue in hand. -/
def execRecoveryTimeout (s : State) : Answer :=
  let (n, q) := s.hand
  let u := queueOf s n q
  .next (if u.state == .recovery && s.dev.recoveryS * 16000000000 ≤ (tt s - u.rungAt).toNat then resetQueue s n q else s)

end Sys2Proof.Machine
end

