-- ==== Sys2Proof/Machine/TraceRing.lean ====
section
/-! DEFINITION. The trace rings (R144 to R150): their registers, the ring writer with its lost reports, and the element
counters' sampling registers (R177). Ring 0 is the device ring (R149). -/

namespace Sys2Proof.Machine

/-! ### The writer (R148, R149) -/

/-- Where the ring writer puts 16 bytes of a ring: none where no memory takes them (R149, R150). -/
def ringPlaces (s : State) (n va : Nat) : Option (List Place) :=
  if n = 0 then
    (if (List.range 16).all fun i => backed s (va + i) then some ((List.range 16).map fun i => ⟨false, va + i⟩) else none)
  else match placesVia (fun a => translate s 0 n a .write) va 16 with
    | .ok ps => if hostHeld s ps then none else some ps
    | .error _ => none

/-- An event lost to a ring: counted, and to be reported. -/
def loseEvent (g : TraceRing) : TraceRing := { g with lost := satAdd g.lost 1, unreported := g.unreported + 1 }

/-- Slots with no event in them. -/
def emptySlots (g : TraceRing) : Nat := 2 ^ g.log2 - (g.tail - g.head).toNat

/-- An event written at TRTAIL, or the ring faulted. -/
def placeEvent (s : State) (n : Nat) (e : Event) : State :=
  let g := ringAt s n
  match ringPlaces s n (g.base + 16 * (g.tail.toNat % 2 ^ g.log2)) with
  | some ps => modRingAt (saveAt s ps (eventBytes e)) n fun g => { g with tail := g.tail + 1 }
  | none => modRingAt s n fun g => loseEvent { g with faulted := true }

/-- The writer's own event, stamped now, beside the events that wait. -/
def ownEvent (s : State) (n code payload : Nat) : Option Event × State :=
  let s' := ringEvent s n code payload
  (s'.traceOut.getLast?, { s' with traceOut := s.traceOut })

/-- The lost report, once two slots are free: the writer writes it before any event that waits (R148). -/
def report (s : State) (n : Nat) : State :=
  let g := ringAt s n
  if !g.en || g.faulted || g.unreported = 0 || emptySlots g < 2 then s
  else match ownEvent s n 0 g.unreported with
    | (some e, s) => if passes g e then placeEvent (modRingAt s n fun g => { g with unreported := 0 }) n e else s
    | (none, s) => s

/-- A ring makes the writer wait for room with an event: a stalling one of a lossless ring that is full. -/
def mustWait (s : State) (e : Event) (n : Nat) : Bool :=
  let g := ringAt s n
  n != 0 && losslessNow s n && stalling e && passes g e && emptySlots g = 0

/-- The writer's own events are stamped as it writes them, so that they stand in the order of their stamps with its reports (R139,
R141); another emitter's has its stamp. -/
def stampNow (s : State) (n : Nat) (e : Event) : Event × State :=
  if e.cls != 10 then (e, s)
  else
    let x := ownEvent s n e.code e.payload.toNat
    (x.1.getD e, x.2)

/-- An event given to a ring: written, or dropped and counted. -/
def offerEvent (e : Event) (s : State) (n : Nat) : State :=
  if !(ringAt s n).en || !passes (ringAt s n) e then s
  else if (ringAt s n).faulted then modRingAt s n loseEvent
  else
    let s := report s n
    if emptySlots (ringAt s n) = 0 then modRingAt s n loseEvent
    else
      let x := stampNow s n e
      placeEvent x.2 n x.1

/-- The oldest event that no ring makes wait goes to its rings. -/
def writeOne (s : State) : State :=
  match findPlace (fun e => !(ringsFor e).any (mustWait s e)) s.traceOut with
  | none => s
  | some k => match s.traceOut[k]? with
    | none => s
    | some e =>
      let s := (ringsFor e).foldl (offerEvent e) { s with traceOut := dropAt s.traceOut k }
      (ringsFor e).foldl endStall s

/-- TRACE_EVENT_WRITE (R148). -/
def execTraceEventWrite (s : State) : Answer := .next (writeOne s)

/-! ### The registers (R144, R147, R149) -/

/-- A filter change is in force: a TRACE event of code 3, where a value changed (R144). -/
def filterChanged (s : State) (n : Nat) (old : TraceRing) : State :=
  let g := ringAt s n
  if g.cls == old.cls && g.sampk == old.sampk && g.lossless == old.lossless && g.src == old.src then s
  else ringEvent s n 3 0

/-- TRCTL written: setting EN starts the ring at index 0. -/
def setTrctl (s : State) (n v : Nat) : State :=
  let old := ringAt s n
  let s := modRingAt s n fun g =>
    let g := { g with log2 := if g.en then g.log2 else bits v 5 1, sampk := bits v 10 7
                      lossless := bit v 6 && n != 0 && featOn s 10 }
    if !bit v 0 then { g with en := false }
    else if g.en || g.log2 < 8 || 24 < g.log2 then g
    else { g with en := true, head := 0, tail := 0, faulted := false }
  endStall (nowForced (filterChanged s n old) n old) n

/-- TRCTL_EN_SET (R144). -/
def execTrctlEnSet (n : Nat) (v : BitVec 64) (s : State) : Answer :=
  .next (if n ≤ 24 then setTrctl s n (v ||| 1).toNat else s)

/-- A TRSRC entry of a register value. -/
def srcOf (v : Nat) : TrSrc :=
  { base := bits v 11 0, limit := bits v 23 12, die := ofBit (bit v 24), anyDie := bit v 25, en := bit v 26 }

/-- TRCLASS or a TRSRC entry written, by its offset in the page. -/
def setFilterReg (s : State) (n off v : Nat) : State :=
  let old := ringAt s n
  let s := modRingAt s n fun g =>
    if off = 0x120 then { g with cls := classMask (v % 2 ^ 32) }
    else if 0x130 ≤ off && off < 0x170 && off % 8 = 0 then
      let i := (off - 0x130) / 8
      if srcOf v = lookup {} g.src i then g else { g with src := store g.src i (srcOf v) }
    else g
  endStall (filterChanged s n old) n

/-- TRACE_FILTER_WRITE (R144): of TRCTL, TRCLASS or a TRSRC entry, by its offset. -/
def execTraceFilterWrite (n off : Nat) (v : BitVec 64) (s : State) : Answer :=
  .next (if 24 < n then s else if off = 0x108 then setTrctl s n v.toNat else setFilterReg s n off v.toNat)

/-- TRHEAD written: accepted within the ring's size. -/
def setTrhead (s : State) (n : Nat) (v : BitVec 32) : State :=
  let g := ringAt s n
  if (g.tail - v).toNat ≤ 2 ^ g.log2 then endStall (report (modRingAt s n fun g => { g with head := v }) n) n else s

/-- TRHEAD_WRITE (R144). -/
def execTrheadWrite (n : Nat) (v : BitVec 32) (s : State) : Answer := .next (if n ≤ 24 then setTrhead s n v else s)

/-- TRACE_FORCED_LOSSY (R150): 10 ms of trace stall within one ladder rung, of each queue that is in one. -/
def execTraceForcedLossy (n : Nat) (s : State) : Answer :=
  .next (if n = 0 then s
    else ([0, 1, 2, 3].filter fun q => inRung (queueOf s n q) && tenMs ≤ lookup 0 (partOf s n).trace.rungStall q).foldl
      (fun s q => forceLossy s n q) s)

/-! ### Element counters (R177) -/

/-- ELCSEL written: the counter named is sampled, and cleared where CLR says so. -/
def sampleCounter (s : State) (n v : Nat) : State :=
  let r := bits v 4 0
  let g := regionOf s r
  let el := elemAt (r / 4) (16 * (r % 2) + bits v 8 5) (8 * (r % 4 / 2) + bits v 11 9)
  let c := bits v 14 12
  let held := r < 24 && g.owner == n && g.state != .restoring
  let val := if held && c < 7 then (lookup 0 (elemOf s el).counters c).toNat + 2 ^ 32 else if held then 2 ^ 32 else 0
  let s := modPart s n fun p => { p with elcsel := BitVec.ofNat 64 (v % 2 ^ 16), elcval := BitVec.ofNat 64 val }
  if held && c < 7 && bit v 15 then modElem s el fun e => { e with counters := store e.counters c 0 } else s

/-- ELCSEL_WRITE (R177). -/
def execElcselWrite (n : Nat) (v : BitVec 64) (s : State) : Answer :=
  .next (if 1 ≤ n && n ≤ 24 then sampleCounter s n v.toNat else s)

end Sys2Proof.Machine
end

