-- ==== Sys2Proof/Machine/Regs.lean ====
section
/-! DEFINITION. The register map of the PF's BAR0 (R3, R13, R54): what a read of a register shows and what a write of one
does. A register of 32 bits is the low half of its 8 bytes; reserved fields read zero. -/

namespace Sys2Proof.Machine

/-! ### Codes -/

/-- STATE of QSW and DRSTAT (R80, R84). -/
def queueCode : QState → Nat
  | .idle => 0 | .run => 1 | .draining => 2 | .saving => 3 | .saved => 4 | .resetting => 5 | .error => 6 | .parkedFault => 7
  | .linkLost => 8 | .recovery => 9

/-- STATE of REGSTAT (R107). -/
def regionCode : RegState → Nat
  | .free => 0 | .loading => 1 | .run => 2 | .draining => 3 | .saving => 4 | .restoring => 5 | .clearing => 6

/-- RSTAT of a ring descriptor (R56). -/
def rstatCode : RStat → Nat
  | .active => 0 | .parked => 1 | .faulted => 2

/-! ### Reads -/

/-- QSW (R77, R80). -/
def qsw (s : State) (n q : Nat) : Nat :=
  let u := queueOf s n q
  let st := queueState s n q
  queueCode st + 16 * u.rung + 64 * (if st == .parkedFault then 0x10 else u.fault.toNat) + 2 ^ 32 * u.lastSeq.toNat

/-- CASTLESTAT (R44). -/
def castleStat (s : State) : Nat :=
  let c := s.dev.castle
  castleCode c.state + 16 * bodyCode c.body + 256 * c.reason + 4096 * c.heartbeats

/-- TTSTAT (R137). -/
def ttStat (s : State) : Nat :=
  let c := s.dev.clk
  ofBit c.lock + 2 * ofBit c.holdover + 256 * c.era.toNat + 65536 * c.skew.toNat + 2 ^ 32 * c.ppsOfs.toNat

/-- PARTCFG n (R106). -/
def partCfg (s : State) (n : Nat) : Nat :=
  let p := partOf s n
  ofBit p.en + 2 * p.rmax + 64 * p.dies.toNat + 256 * ofBit p.hold + 2 ^ 32 * (heldBy s n).length

/-- REGSTAT r (R107). -/
def regStat (s : State) (r : Nat) : Nat :=
  let g := regionOf s r
  let configs := ((placesIn s r).filter fun x => !x.2.2.2.swapped).length
  g.owner + 32 * g.queue + 128 * regionCode g.state + 2048 * (match g.shadow with | some c => c.part | none => 0) +
    65536 * configs + 2 ^ 32 * g.time.toNat

/-- A trace ring's registers by page offset (R144, R149). -/
def readTrace (s : State) (n off : Nat) : Nat :=
  let g := ringAt s n
  match off with
  | 0x100 => g.base
  | 0x108 => ofBit g.en + 2 * g.log2 + 64 * ofBit g.lossless + 128 * g.sampk + 2048 * ofBit g.faulted + 4096 * ofBit (forcedNow g)
  | 0x110 => g.head.toNat
  | 0x118 => g.tail.toNat
  | 0x120 => g.cls.toNat
  | 0x128 => g.lost.toNat + 2 ^ 32 * (if n = 0 then 0 else g.stallUnits / 16000 % 2 ^ 32)
  | _ =>
    if 0x130 ≤ off && off < 0x170 then
      let e := lookup {} g.src ((off - 0x130) / 8)
      e.base + 2 ^ 12 * e.limit + 2 ^ 24 * e.die + 2 ^ 25 * ofBit e.anyDie + 2 ^ 26 * ofBit e.en
    else 0

/-- The partition page (R75, R137, R144, R177). -/
def readPage (s : State) (n off : Nat) : Nat :=
  let p := partOf s n
  let m := p.mbx
  match off with
  | 0x000 => m.base
  | 0x008 => m.log2 + 16 * m.pasid + 2 ^ 24 * ofBit m.host + 2 ^ 25 * ofBit m.faulted + 2 ^ 32 * m.vector
  | 0x010 => m.head.toNat
  | 0x018 => m.tail.toNat
  | 0x020 => m.lost.toNat
  | 0x178 => (tt s).toNat
  | 0x180 => p.elcsel.toNat
  | 0x188 => p.elcval.toNat
  | _ => readTrace s n off

/-- A queue control page (R56, R78, R122). -/
def readQueuePage (s : State) (n q off : Nat) : Nat :=
  let u := queueOf s n q
  match off with
  | 0x000 => ofBit u.enable + 2 * u.prio.toNat + 16 * u.nrings
  | 0x008 => qsw s n q
  | 0x010 => u.cplBase
  | 0x018 => u.cplLog2 + 32 * u.cplPasid + 2 ^ 25 * ofBit u.cplHost + 2 ^ 32 * u.cplVector
  | 0x020 => u.cplHead.toNat
  | 0x028 => u.cplTail.toNat
  | 0x030 => u.t1us
  | 0x038 => u.t2us + 2 ^ 20 * ofBit u.noDrain
  | _ =>
    if 0x100 ≤ off && off < 0x500 then
      let r := ringOf s n q ((off - 0x100) / 16)
      if off % 16 = 0 then r.base
      else r.rlog2 + 32 * r.pasid + 2 ^ 25 * ofBit r.host + 2 ^ 26 * rstatCode r.rstat + 2 ^ 32 * r.rhead.toNat
    else 0

/-- A data ring's control page (R84). -/
def readRingPage (s : State) (n d off : Nat) : Nat :=
  let r := dringOf s n d
  match off with
  | 0x000 => ofBit r.enable + 2 * r.unit + 4 * r.pubk + 64 * r.rlog2 + 2048 * ofBit r.host + 4096 * r.pasid +
      2 ^ 32 * ofBit r.f32 + 2 ^ 33 * ofBit r.marks
  | 0x008 => r.base
  | 0x010 => r.rowLen + 65536 * r.graph + 2 ^ 24 * r.dent + 2 ^ 28 * r.ment
  | 0x018 => r.pubAddr
  | 0x020 => r.p.toNat
  | 0x028 => queueCode (dringState r) + 16 * r.rung + 64 * (dringFaultShown r).toNat + 2 ^ 32 * r.streams.toNat
  | 0x030 => r.vector + 2048 * ofBit r.irqEn
  | 0x038 => r.skip.toNat
  | _ => 0

/-- A partition window (R54, R57, R83). -/
def readWindow (s : State) (n off : Nat) : Nat :=
  if off < 0x1000 then readPage s n off
  else if off < 0x5000 then readQueuePage s n (off / 0x1000 - 1) (off % 0x1000)
  else if off < 0x10000 then 0
  else if off < 0x110000 then
    let k := off / 0x1000 - 0x10
    if off % 0x1000 = 0 then (ringOf s n (k / 64) (k % 64)).rhead.toNat else 0
  else if off < 0x180000 then 0
  else
    let k := (off - 0x180000) / 0x1000
    if k % 2 = 1 then readRingPage s n (k / 2) (off % 0x1000)
    else if off % 0x1000 = 0 then (nextFetch (dringOf s n (k / 2))).toNat else 0

/-- The wear page (R41): while it is updated an entry reads as the old or the new one. -/
def readWear (s : State) (off : Nat) : Nat :=
  if off = 0 then s.dev.wearGen.toNat
  else if off < 16 then 0
  else
    let i := (off - 16) / 16
    let v := (match s.dev.wearNext with
      | some page => if Config.wearTorn s.moment i then lookup 0 page i else lookup 0 s.dev.wear i
      | none => lookup 0 s.dev.wear i).toNat
    if off % 16 = 0 then v % 2 ^ 64 else v / 2 ^ 64

/-- A latency block (R198). -/
def readLatency (s : State) (k off : Nat) : Nat :=
  let l := lookup {} (regionOf s (k / 6)).lat (k % 6)
  if off = 0 then l.max.toNat
  else if 0x10 ≤ off && off < 0x30 then
    let i := (off - 0x10) / 4
    (lookup 0 l.hist i).toNat + 2 ^ 32 * (lookup 0 l.hist (i + 1)).toNat
  else 0

/-- The staging window's registers (R43). -/
def readStaging (s : State) (off : Nat) : Nat :=
  let g := s.dev.staging
  match off with
  | 0x000 => g.body.toNat
  | 0x008 => g.size.toNat
  | 0x010 => g.off.toNat
  | 0x018 => g.len.toNat
  | 0x020 => ofBit g.push
  | 0x028 => g.state + 16 * g.err + 2 ^ 32 * g.received.toNat
  | _ => 0

/-- The device registers (R15, R33, R34, R44, R106, R107, R137, R149, R198, R199, R201). -/
def readDevice (s : State) (off : Nat) : Nat :=
  let d := s.dev
  match off with
  | 0x0000 => devStage s
  | 0x0008 => d.devFeat.toNat
  | 0x0010 => d.drvFeat.toNat
  | 0x0018 => d.featAct.toNat
  | 0x0020 => castleStat s
  | 0x0028 => (tt s).toNat
  | 0x0030 => ttStat s
  | 0x0040 => d.bar2base.toNat
  | 0x3300 => d.tlbinv.toNat + 2 ^ 63 * ofBit (invalidating s)
  | _ =>
    if 0x2000 ≤ off && off < 0x3000 then readWear s (off - 0x2000)
    else if 0x3010 ≤ off && off < 0x3190 then (if off % 16 = 0 then partCfg s ((off - 0x3000) / 16) else 0)
    else if 0x3208 ≤ off && off < 0x32C8 then
      let p := partOf s ((off - 0x3200) / 8)
      ofBit p.ptEn + p.ptRoot
    else if 0x3400 ≤ off && off < 0x34C0 then regStat s ((off - 0x3400) / 8)
    else if 0x4100 ≤ off && off < 0x4170 then readTrace s 0 (off - 0x4000)
    else if 0x5000 ≤ off && off < 0x7400 then readLatency s ((off - 0x5000) / 0x40) (off % 0x40)
    else if 0x8000 ≤ off && off < 0x9000 then readStaging s (off - 0x8000)
    else if 0x800000 ≤ off then leNat ((List.range 8).map fun i => lookup 0 d.staging.window (off - 0x800000 + i))
    else 0

/-- The 8 bytes of a register at an offset of the PF's BAR0. -/
def regRead (s : State) (off : Nat) : Nat :=
  if off < 0x1000000 then readDevice s off else readWindow s ((off - 0x1000000) / 0x200000 + 1) (off % 0x200000)

/-! ### Writes -/

/-- TRBASE (R144, R149): kept while EN is 0. -/
def setTrbase (s : State) (n v : Nat) : State :=
  modRingAt s n fun g => if g.en then g else { g with base := bits v 56 6 * 64 }

/-- A trace ring register written. -/
def writeTrace (s : State) (n off v : Nat) : State :=
  match off with
  | 0x100 => setTrbase s n v
  | 0x108 => setTrctl s n v
  | 0x110 => setTrhead s n (BitVec.ofNat 32 v)
  | _ => setFilterReg s n off v

/-- The partition page written. -/
def writePage (s : State) (n off v : Nat) : State :=
  match off with
  | 0x000 => flushReserve (modPart s n fun p => { p with mbx := { p.mbx with base := bits v 56 6 * 64 } }) n
  | 0x008 => setMbxCtl s n v
  | 0x010 => setMbxHead s n (BitVec.ofNat 32 v)
  | 0x180 => sampleCounter s n v
  | _ => writeTrace s n off v

/-- QCTL written (R78, R81, R82): the fields, ENABLE, then CMD. -/
def setQctl (s : State) (n q v : Nat) : State :=
  let s := if bit v 0 then enableQueue s n q (BitVec.ofNat 64 v)
    else disableQueue (modQueue s n q fun u => { u with prio := BitVec.ofNat 3 (bits v 3 1), nrings := bits v 10 4 }) n q
  match bits v 13 11 with
  | 1 => resumeQueue s n q
  | 2 => resetQueue s n q
  | _ => s

/-- A ring descriptor's half written, while ENABLE is 0 (R55, R56). -/
def setRing (s : State) (n q off v : Nat) : State :=
  let i := (off - 0x100) / 16
  if (queueOf s n q).enable then s
  else if off % 16 = 0 then modRing s n q i fun r => { r with base := bits v 56 6 * 64 }
  else modRing s n q i fun r => { r with rlog2 := bits v 4 0, pasid := bits v 24 5, host := bit v 25 }

/-- A deadline register's value is one it takes (R122). -/
def deadlineOk (v : Nat) : Bool := 1 ≤ v && v ≤ 1000000

/-- A queue control page written. -/
def writeQueuePage (s : State) (n q off v : Nat) : State :=
  let en := (queueOf s n q).enable
  match off with
  | 0x000 => setQctl s n q v
  | 0x010 => if en then s else modQueue s n q fun u => { u with cplBase := bits v 56 5 * 32 }
  | 0x018 => if en then s else modQueue s n q fun u => { u with
      cplLog2 := bits v 4 0, cplPasid := bits v 24 5, cplHost := bit v 25, cplVector := bits v 42 32 }
  | 0x020 => setCplHead s n q (BitVec.ofNat 32 v)
  | 0x030 => if deadlineOk (bits v 19 0) then modQueue s n q fun u => { u with t1us := bits v 19 0 } else s
  | 0x038 => if deadlineOk (bits v 19 0) then modQueue s n q fun u => { u with t2us := bits v 19 0, noDrain := bit v 20 } else s
  | _ => if 0x100 ≤ off && off < 0x500 then setRing s n q off v else s

/-- DRCTL written (R84, R85). -/
def setDrctl (s : State) (n d v : Nat) : State :=
  let r := dringOf s n d
  let s := if r.enable then (if bit v 0 then s else disableDring s n d) else enableDring s n d v
  match bits v 35 34 with
  | 1 => resumeDring s n d
  | 2 => startRingReset s n d
  | _ => s

/-- A data ring's control page written: three registers only while ENABLE is 0 (R85). -/
def writeRingPage (s : State) (n d off v : Nat) : State :=
  let off_ (f : DataRing → DataRing) : State := if (dringOf s n d).enable then s else modDring s n d f
  match off with
  | 0x000 => setDrctl s n d v
  | 0x008 => off_ fun r => { r with base := bits v 56 6 * 64 }
  | 0x010 => off_ fun r => { r with rowLen := bits v 14 0, graph := bits v 23 16, dent := bits v 27 24, ment := bits v 31 28 }
  | 0x018 => off_ fun r => { r with pubAddr := bits v 56 3 * 8 }
  | 0x030 => modDring s n d fun r => { r with vector := bits v 10 0, irqEn := bit v 11 }
  | _ => s

/-- A partition window written. -/
def writeWindow (s : State) (n off v : Nat) : State :=
  if off < 0x1000 then writePage s n off v
  else if off < 0x5000 then writeQueuePage s n (off / 0x1000 - 1) (off % 0x1000) v
  else if off < 0x10000 || off % 0x1000 != 0 && off < 0x110000 then s
  else if off < 0x110000 then
    let k := off / 0x1000 - 0x10
    doorbell s n (k / 64) (k % 64) (BitVec.ofNat 32 v)
  else if off < 0x180000 then s
  else
    let k := (off - 0x180000) / 0x1000
    if k % 2 = 1 then writeRingPage s n (k / 2) (off % 0x1000) v
    else if off % 0x1000 = 0 then dataDoorbell s n (k / 2) (BitVec.ofNat 32 v) else s

/-- PARTCFG written (R106, R129). -/
def setPartCfg (s : State) (n v : Nat) : State :=
  let s := modPart s n fun p => { p with en := bit v 0, rmax := bits v 5 1, dies := BitVec.ofNat 2 (bits v 7 6) }
  let s := enforceConfig s n
  if bit v 8 then setHold s n else modPart s n fun p => { p with hold := false }

/-- PTROOT written (R199). -/
def setPtRoot (s : State) (n v : Nat) : State :=
  modPart s n fun p => { p with ptEn := bit v 0, ptRoot := bits v 51 12 * 4096 }

/-- FWSCTL written (R43): BODY, and OPEN or GO; what GO's image holds is read out of it. -/
def setFwsctl (s : State) (v : Nat) : State :=
  let s := if bit v 2 then fwsOpen s (bits v 1 0) else modStaging s fun g => { g with body := BitVec.ofNat 2 (bits v 1 0) }
  if bit v 3 then
    let (m, s) := nextMoment s
    fwsGo s (Config.imageFacts m)
  else s

/-- The staging window's registers written (R43). -/
def writeStaging (s : State) (off v : Nat) : State :=
  let idle := !s.dev.staging.push
  match off with
  | 0x000 => setFwsctl s v
  | 0x008 => modStaging s fun g => { g with size := BitVec.ofNat 32 v }
  | 0x010 => if idle then modStaging s fun g => { g with off := BitVec.ofNat 32 v } else s
  | 0x018 => if idle then modStaging s fun g => { g with len := BitVec.ofNat 24 v } else s
  | 0x020 => if bit v 0 then fwsPush s else s
  | _ => s

/-- The data window written (R43): ignored while a chunk is copied. -/
def writeChunk (s : State) (off v : Nat) : State :=
  if s.dev.staging.push then s
  else modStaging s fun g => { g with window := (List.range 8).foldl (fun w i => store w (off + i) (BitVec.ofNat 8 (v / 256 ^ i))) g.window }

/-- A device register written; what is read-only or reserved ignores it. -/
def writeDevice (s : State) (off v : Nat) : State :=
  match off with
  | 0x0010 => setDrvFeat s (BitVec.ofNat 32 v)
  | 0x0040 => setBar2Base s v
  | 0x3300 => if invalidating s then s else invalidate s v
  | _ =>
    if 0x3010 ≤ off && off < 0x3190 && off % 16 = 0 then setPartCfg s ((off - 0x3000) / 16) v
    else if 0x3208 ≤ off && off < 0x32C8 then setPtRoot s ((off - 0x3200) / 8) v
    else if 0x4100 ≤ off && off < 0x4170 then writeTrace s 0 (off - 0x4000) v
    else if 0x5000 ≤ off && off < 0x7400 && off % 0x40 = 8 && bit v 0 then
      let k := (off - 0x5000) / 0x40
      modRegion s (k / 6) fun g => { g with lat := erase g.lat (k % 6) }
    else if !atStage s .s1 then s
    else if 0x8000 ≤ off && off < 0x9000 then writeStaging s (off - 0x8000) v
    else if 0x800000 ≤ off then writeChunk s (off - 0x800000) v
    else s

/-- REGISTER_WRITE (R3): 8 bytes written at an aligned offset of the PF's BAR0, where the partition windows are too
(R54). -/
def execRegisterWrite (off : Nat) (v : BitVec 64) (s : State) : Answer :=
  .next (if off % 8 != 0 || 0x4000000 ≤ off then s
    else if off < 0x1000000 then writeDevice s off v.toNat
    else writeWindow s ((off - 0x1000000) / 0x200000 + 1) (off % 0x200000) v.toNat)

end Sys2Proof.Machine
end

