-- ==== Sys2Proof/Machine/Inner.lean ====
section
/-! DEFINITION. What the device does by itself beside the rows of the opcode table: lines of the caches that are written back or
dropped (R187), writes on their way that perform (R214, R222), lanes and pieces that move by themselves (R221, R222), ordering
actions that are done (R212), a reset that ends (R81), publications and doorbells that waited (R90, R150), regions that are
cleared (R107, R109), PARTCFG's limits (R108), a divider that is free again (R355), and the scheduler graph's firings (R102). -/

namespace Sys2Proof.Machine

/-- An instruction of the scheduler graph fires in the FGE (R102), which runs while it is not paused. What the graph does with its
tokens is the firmware's; the matching store never holds more entries than the image has declared, nor than 512
(notes/assumptions/56). -/
def fireFge (s : State) : State :=
  if !atStage s .s2 || fgePaused s then s
  else { s with fge := { s.fge with
    store := ((Config.fgeStore s.moment).take (min 512 (imageOf s .scheduler).fgePeak)).map fun e => ⟨e.1, e.2.1, e.2.2⟩ } }

/-- A doing of the device itself. -/
def doInner (s : State) : Inner → State
  | .writeBack r g => writeBackLine s r g
  | .dropLine r g => dropLine s r g
  | .posted k => performPosted s k
  | .postedWord k j => performPostedWord s k j
  | .lane k j => performLane s k j
  | .piece k p => runPiece s k p
  | .ordered k => orderDone s k
  | .resetDone n q => resetDone s n q
  | .ringResetDone n d => ringResetDone s n d
  | .publish n d => flushPubs s n d
  | .bell n d => takeBell s n d
  | .cleared r => cleared s r
  | .enforce n => if fgePaused s then s else enforceConfig s n
  | .fgeFire => fireFge s
  | .divided el => modElem s el fun e => { e with divider := none }

end Sys2Proof.Machine
end

