-- ==== Sys2Proof/Machine/Outside.lean ====
section
/-! DEFINITION. What the outside world does to the device beside the rows of the opcode table: BAR2s that are resized, a VF's
BARs (R13, R36, R54), errors of peers, expanders and SRAM (R16, R18, R175, R202), training (R28), the thermal limit (R142). -/

namespace Sys2Proof.Machine

/-- A BAR2's size set (R13): the PF's from 1 GiB to 512 GiB, a VF's from 1 GiB to 64 GiB. -/
def resizeBar2 (s : State) (fn log2 : Nat) : State :=
  if log2 < 30 then s
  else if fn = 0 then (if log2 ≤ 39 then modDev s fun d => { d with bar2log2 := log2 } else s)
  else if fn ≤ 24 && featOn s 12 && log2 ≤ 36 then modDev s fun d => { d with vfBar2 := store d.vfBar2 fn log2 }
  else s

/-- The device answers a read of the host with all ones, as one to nothing (R15, R23). -/
def readOnes (s : State) (n : Nat) : State := modDev s fun d => { d with hostRead := List.replicate n 0xFF }

/-- An access through a VF's BAR2 (R13): an offset is a virtual address of the VF's partition (notes/assumptions/54), so
that it reaches memory of that partition only. -/
def vfBar2Access (s : State) (n off : Nat) (write : Bool) (data : List Byte) : State :=
  if n = 0 || 24 < n || !featOn s 12 || 2 ^ lookup 30 s.dev.vfBar2 n < off + data.length then s
  else match placesVia (fun a => translate s 0 n a (if write then .write else .read)) off data.length with
    | .ok ps =>
      if write then saveAt s ps data
      else modDev s fun d => { d with hostRead := ps.map fun p => (load s p 1).headD 0 }
    | .error _ => if write then s else readOnes s data.length

/-- An access of 8 bytes to a VF's BAR0 (R13, R54), which exists while FEATACT.VFS is 1 (R36). -/
def vfBar0Access (s : State) (n off : Nat) (write : Bool) (v : BitVec 64) : State :=
  if n = 0 || 24 < n || !featOn s 12 || off % 8 != 0 || 0x200000 ≤ off then (if write then s else readOnes s 8)
  else if write then writeWindow s n off v.toNat
  else modDev s fun d => { d with hostRead := leBytes 8 (readWindow s n off) }

/-- Granules of the host bus or of the second tier poisoned, or answered well again where a peer errs no longer. -/
def markHost (s : State) (granules : List Nat) (on : Bool) : State :=
  { s with hostPoison := granules.foldl (fun g k => setPoison g k on) s.hostPoison }

/-- An expander returns data marked as poisoned (R18). -/
def expanderPoison (s : State) (granules : List Nat) : State :=
  { s with poison := (granules.filter fun k => secondTier s (64 * k)).foldl (fun g k => setPoison g k true) s.poison }

/-- A bank's FIFO entries that lie in its granule `g`, 48 bytes each (R190), poisoned. -/
def poisonEntries (l : List Token) (g : Nat) : List Token :=
  l.mapIdx fun i t => if 48 * i < 64 * g + 64 && 64 * g < 48 * i + 48 then { t with poison := true } else t

/-- The line that a granule of a CACHE bank holds, if it holds one, poisoned: which of its lines lies there no rule says
(notes/assumptions/59). -/
def poisonLine (s : State) (core bank granule : Nat) : State :=
  let r := coreRegion (core / 24) (core % 24)
  match ((regionOf s r).lines.filter fun x => x.2.core == core % 24 && x.2.bank == bank)[granule]? with
  | some x => modLine s r x.1 fun l => { l with poison := true }
  | none => s

/-- An uncorrectable error in a granule of a core store's bank (R202): the words of a SCRATCH bank, the line of a CACHE bank, the
entries of a FIFO bank. -/
def sramError (s : State) (core bank granule : Nat) : State :=
  let put (f : Bank → Bank) := modCore s core fun k => { k with banks := store k.banks bank (f (lookup {} k.banks bank)) }
  match (lookup {} (coreOf s core).banks bank).mode with
  | .scratch => put fun b => { b with poison := setPoison b.poison granule true }
  | .fifo => put fun b => { b with entries := poisonEntries b.entries granule }
  | .cache => poisonLine s core bank granule

/-- An uncorrectable error in a granule of an element's local data (R202). -/
def localError (s : State) (el granule : Nat) : State := modElem s el fun e => { e with localPoison := setPoison e.localPoison granule true }

/-- An uncorrectable error in a region's spill ring: the token read back is poisoned (R175, R202). -/
def spillError (s : State) (r place : Nat) : State :=
  modRegion s r fun g => { g with
    spill := modifyAt (fun x => (x.1, { x.2 with tok := { x.2.tok with poison := true } })) g.spill place }

/-- A doing of the outside world. -/
def doOutside (s : State) : Outside → State
  | .resizeBar2 fn log2 => resizeBar2 s fn log2
  | .vfBar2 n off write data => vfBar2Access s n off write data
  | .vfBar0 n off write v => vfBar0Access s n off write v
  | .peerError granules failing => markHost s granules failing
  | .expanderPoison granules => expanderPoison s granules
  | .sramError core bank granule => sramError s core bank granule
  | .localError el granule => localError s el granule
  | .peerWindow base bytes => modDev s fun d => { d with peers := d.peers ++ [(base, bytes)] }
  | .cxlCabled on => modDev s fun d => { d with cxlCabled := on }
  | .spillError r place => spillError s r place
  | .unitTrained unit => unitTrained s unit
  | .thermalLimit mhz => thermalLimit s mhz

end Sys2Proof.Machine
end

