-- ==== Sys2Proof/Machine/Agenda.lean ====
section
/-! DEFINITION. What the device may do by itself when nothing is on its agenda (notes/assumptions/8, 22): every operation that
its state might allow, and the passing of a unit of time; the order in which an element looks for its next firing (R158), the
deadlines that do not wait (R104), and the fairness of the choice (R180). An operation that the state does not allow changes
nothing; `ch` says of an item whether it changes the state. -/

namespace Sys2Proof.Machine

/-- An operation with nothing in hand. -/
def plain (i : Instr) : Item := .event (0, 0) i

/-- An operation for each place of a list. -/
def perPlace {α : Type} (l : List α) (f : Nat → Instr) : List Item := (List.range l.length).map fun k => plain (f k)

/-- The sites of an element in the order in which it searches them (R158): from the slot after the one last fired, upwards with
wrap; in a slot the parts from the oldest on, each in the version in which its configuration has the slot. -/
def siteOrder (el : Nat) (e : Element) : List Item :=
  (List.range 16).flatMap fun k =>
    let n := (e.lastSlot + 1 + k) % 16
    (e.parts.filter fun p => p.fields.any (·.1 / 3 == n)).flatMap fun p =>
      ([false, true].filter fun v => lookup 0 e.owner (key16 v n) == p.cfg).map fun v => .fire ⟨el, v, n, p.tag⟩

/-- An element's doings: the firing its search finds first, absent entries that arrive, spilled parts that return. -/
def elemItems (ch : Item → Bool) (el : Nat) (e : Element) : List Item :=
  ((siteOrder el e).find? ch).toList ++
  e.absent.flatMap (fun x => [plain (.configEntryFetched el x), plain (.rmFetch el x)]) ++
  e.spilled.map fun p => plain (.framePartReload el p.tag)

/-- What a queue's packets and ladder might do. -/
def queueInstrs : List Instr :=
  [.mergeRound, .inject, .reside, .evict, .ib, .waitv, .waitvReread, .writev, .mboxAttestRequest, .mboxEcho, .qbar, .tracectl,
   .nopk, .drainComplete, .t1Deadline, .t2Deadline, .queueRestore, .linklostSaveComplete, .recoveryTimeout, .tagStallWatchdog]

/-- A queue's doings. -/
def queueItems (s : State) (n q : Nat) (u : Queue) : List Item :=
  queueInstrs.map (.event (n, q)) ++ u.rings.map (fun r => plain (.ringFetch n q r.1)) ++ [.inner (.resetDone n q)] ++
  if wantsRegion s n q then allRegions.map fun r => plain (.regionGrant r n q) else []

/-- What a data ring might do. -/
def ringInstrs : List Instr := [.span, .sample, .flush, .dataPacketConsumed, .streamOpen, .streamBind, .streamComplete]

/-- A data ring's doings. -/
def dringItems (n d : Nat) : List Item :=
  ringInstrs.map (.event (n, d)) ++ [.event (n, d + 4) .tagStallWatchdog, .inner (.publish n d), .inner (.bell n d), .inner (.ringResetDone n d)]

/-- The manager's tasks for a graph. -/
def graphItems (p : Part) (n h : Nat) : List Item :=
  [plain (.rmLoad n h), plain (.rmPlace n h), plain (.evictDone n h), plain (.stageInputIdle n h)] ++
  p.graphs.map fun g => plain (.rmStageSwap n h g.1)

/-- A partition's doings. -/
def partItems (s : State) (n : Nat) (p : Part) : List Item :=
  p.queues.flatMap (fun u => queueItems s n u.1 u.2) ++ p.rings.flatMap (fun d => dringItems n d.1) ++
  p.graphs.flatMap (fun g => graphItems p n g.1) ++ p.acts.map (fun a => plain (.activationQuiescent n a.root)) ++
  [plain (.spillWatchdog n), plain (.traceForcedLossy n), .inner (.enforce n)] ++
  [0, 1].map fun die => plain (.translationWalk ⟨die, n⟩ (Config.walkPage s.moment))

/-- Castling's steps. -/
def castleItems (s : State) : List Item :=
  if s.dev.castle.state = .idle && s.dev.castle.back.isEmpty then []
  else [Instr.castleVerify, .castleStaged, .castlePoint, .castleImportDone, .castleHeartbeat, .heartbeatDeadline, .castleCommit].map plain ++
    if s.dev.castle.body = .engine || !s.dev.castle.back.isEmpty then (List.range engineCount).map fun e => plain (.engineStoreSwap e) else []

/-- The management controller's doings (R28, R31, R40). -/
def controllerItems (s : State) : List Item :=
  [plain .stageS1Reached, plain .stageS2Reached, plain .stageS3Reached, plain (.wearUpdate (Config.wearValues s.moment))] ++
  (s2Units ++ [0x20, 0x30]).map fun u => plain (.stageDeadlineMissed (BitVec.ofNat 8 u))

/-- The charge of region time that is due (R119). -/
def chargeItems (s : State) : List Item :=
  if uncharged s = 0 || s.regions.all (·.2.owner = 0) then [] else [plain (.quantumCharge (uncharged s))]

/-- What may happen to memory by itself (R187, R212, R214, R221, R222). -/
def memoryItems (s : State) : List Item :=
  s.regions.flatMap (fun r => r.2.lines.flatMap fun l => [.inner (.writeBack r.1 l.1), .inner (.dropLine r.1 l.1)]) ++
  ((List.range s.posted.length).zip s.posted).flatMap (fun x =>
    .inner (.posted x.1) :: (List.range x.2.writes.length).map fun j => .inner (.postedWord x.1 j)) ++
  (List.range s.reqs.length).flatMap (fun k => (List.range 8).map fun j => .inner (.lane k j)) ++
  ((List.range s.copies.length).zip s.copies).flatMap (fun x => x.2.left.map fun p => .inner (.piece x.1 p.1)) ++
  (List.range s.orders.length).map fun k => .inner (.ordered k)

/-- The device's doings outside partitions and elements. -/
def deviceItems (s : State) : List Item :=
  controllerItems s ++ memoryItems s ++
  perPlace s.net .tokenEnqueue ++ perPlace s.net .engineNoncommandDrop ++ perPlace s.reqs .memoryResponse ++
  perPlace s.cmds .engineFifoIssue ++ perPlace s.cmds .engineRetire ++ perPlace s.cmds .engineBoundarySave ++
  perPlace s.copies .copyRetire ++ perPlace s.drpRows .mxdrpRowArrive ++
  s.clusters.flatMap (fun c => c.2.hwq.map fun h => plain (.copyTrigger c.1 h.1)) ++
  s.regions.flatMap (fun r => [plain (.queueRefill r.1), plain (.shadowExchange r.1), .inner (.cleared r.1)]) ++
  s.pageFaults.map (fun f => plain (.faultReplay f.part f.page)) ++ castleItems s ++
  [.inner .fgeFire, plain .faultToken, plain .traceEventWrite, plain .fwsChunkCopied, plain .ppsHoldover] ++ chargeItems s

/-- The dividers that are busy: 21 cycles of the slowest clock, 600 MHz (R12, R355), are less than a unit of time. -/
def dividerItems (s : State) : List Item := (s.elems.filter (·.2.divider.isSome)).map fun e => .inner (.divided e.1)

/-- The device's own doings that its state might allow. -/
def candidates (ch : Item → Bool) (s : State) : List Item :=
  deviceItems s ++ dividerItems s ++ s.elems.flatMap (fun e => elemItems ch e.1 e.2) ++ s.parts.flatMap fun p => partItems s p.1 p.2

/-! ### Deadlines (R104) -/

/-- The units that a stage's deadline finds for the first time (R31): one that is trained once more has no deadline of its own. -/
def firstMisses (s : State) : List Nat := (s2Units ++ [0x20, 0x30]).filter fun u => !s.dev.retried.contains u

/-- What a stage's deadline does not wait for (R28, R31): the stage where it is ready, and the units that have missed it. -/
def stageTimers (s : State) : List Item :=
  let since := sincePerst s
  if s.dev.perst then []
  else if s.dev.stage = .s0 && since == 300 * milli then [plain .stageS1Reached]
  else if (s.dev.stage = .s1 || s.dev.stage = .s2) && stageLate s then
    [plain .stageS2Reached, plain .stageS3Reached] ++ (firstMisses s).map fun u => plain (.stageDeadlineMissed (BitVec.ofNat 8 u))
  else []

/-- The deadlines of a castling in probation (R50, R51). -/
def castleTimers (s : State) : List Item :=
  if s.dev.castle.state = .probation then [plain .heartbeatDeadline, plain .castleCommit] else []

/-- The time to the next deadline of a stage or of a castling, where one runs. -/
def nextDeadline (s : State) : Option Nat :=
  let stage := if s.dev.perst then none
    else if s.dev.stage = .s0 then some (300 * milli - sincePerst s)
    else if s.dev.stage = .s1 then some (4000 * milli - sincePerst s)
    else if s.dev.stage = .s2 then some (10000 * milli - sincePerst s)
    else none
  let castle := if s.dev.castle.state = .probation then some (beatLimit - sinceBeat s) else none
  match (stage.toList ++ castle.toList).filter (0 < ·) with
  | [] => none
  | d :: ds => some (ds.foldl min d)

/-- The longest that a waiting WAITV goes without a read, 1 µs (R68). -/
def longestWait : Nat := 16000

/-- The reads of the WAITVs that wait (R68). -/
def rereadItems (s : State) : List Item := (waitingQueues s).map fun x => .event x .waitvReread

/-- The deadlines that do not wait: those that a timer of the FGE carries, T1, T2, the quantum, the spill watchdog and the tag-stall
watchdogs, those of the stages and of a castling, PARTCFG's limits, the dividers, and at every whole microsecond
the reads of the WAITVs that wait. -/
def timerItems (s : State) : List Item :=
  stageTimers s ++ castleTimers s ++ chargeItems s ++ dividerItems s ++ (if s.dev.uptime % longestWait = 0 then rereadItems s else []) ++ s.parts.flatMap fun p =>
    p.2.queues.flatMap (fun u => [Instr.t1Deadline, .t2Deadline, .tagStallWatchdog].map (.event (p.1, u.1))) ++
    p.2.rings.map (fun d => .event (p.1, d.1 + 4) .tagStallWatchdog) ++ [plain (.spillWatchdog p.1), .inner (.enforce p.1)]

/-- Timers run: a region is held, or some partition has a queue in its ladder, a stall or a token. -/
def timersRun (s : State) : Bool :=
  s.regions.any (·.2.owner != 0) || s.parts.any fun p =>
    p.2.queues.any (fun u => inRung u.2 || u.2.stallAt.isSome || u.2.fireStallAt.isSome) || p.2.rings.any (·.2.stallAt.isSome) ||
    !(liveTags s p.1).isEmpty

/-- The longest time that passes in one piece while timers run, half a microsecond. -/
def longestPiece : Nat := 8000

/-! ### The choice (R158, R180) -/

/-- How long an item has waited, in steps. -/
def ageOf (s : State) (it : Item) : Nat := ((s.ages.find? (·.1 == it)).map (·.2)).getD 0

/-- The item that has waited longest. -/
def oldest (l : List (Item × Nat)) : Option (Item × Nat) :=
  l.foldl (fun best x => match best with
    | some b => if b.2 < x.2 then some x else best
    | none => some x) none

/-- An item that cannot move now is there still: a site whose tokens stand, or another of the device's doings. -/
def stands (s : State) (all : List Item) (it : Item) : Bool :=
  match it with
  | .fire st => (siteOrder st.el (elemOf s st.el)).contains it
  | _ => all.contains it

/-- What the device does by itself: one of its doings that changes the state, or, while no deadline is due, the passing of a unit
of time. Which of them is free, but that none waits longer than a bound, the times counted when it could have moved, however its
room comes and goes (R180). -/
def chooseItem (ch : Item → Bool) (s : State) : Item × State :=
  let all := candidates ch s
  let cs := all.filter ch
  let cs := if (timerItems s).any ch then cs else cs ++ [.elapse 1]
  let aged := cs.map fun it => (it, ageOf s it + 1)
  let free := (cs[Config.choice s.moment % cs.length]?).getD (.elapse 1)
  let it := match oldest aged with
    | some x => if Config.patience ≤ x.2 then x.1 else free
    | none => free
  let resting := s.ages.filter fun a => !cs.contains a.1 && stands s all a.1
  (it, { s with moment := s.moment + 1, ages := aged.filter (·.1 != it) ++ resting })

/-- What moves next, and the state it moves from: the first item of the agenda, or what the device chooses. A time that is to
pass goes by in pieces, so that a deadline takes effect within 1 µs of its time (R104). -/
def nextItem (ch : State → Item → Bool) (s : State) : Item × State :=
  match s.agenda with
  | [] => chooseItem (ch s) s
  | .elapse k :: rest =>
    match (timerItems s).find? (ch s) with
    | some it => (it, s)
    | none =>
      let piece := min (if timersRun s then longestPiece else k) ((nextDeadline s).getD k)
      let piece := if (rereadItems s).any (ch s) then min piece (longestWait - s.dev.uptime % longestWait) else piece
      if k ≤ piece then (.elapse k, { s with agenda := rest })
      else (.elapse piece, { s with agenda := .elapse (k - piece) :: rest })
  | it :: rest => (it, { s with agenda := rest })

end Sys2Proof.Machine
end

