-- ==== Sys2Proof/Machine/Dispatch.lean ====
section
/-! DEFINITION. One arm per operation and event of spec/opcode_table.json: each calls the meaning of its own. -/

namespace Sys2Proof.Machine

/-- What the machine does for an operation or event. -/
def exec (i : Instr) (s : State) : Host.Outcome State Fault Refusal :=
  match i with
  | .powerAux3v3On => Sys2Proof.Machine.execPowerAux3v3On s
  | .stageS0Reached flash => Sys2Proof.Machine.execStageS0Reached flash s
  | .perstDeassert => Sys2Proof.Machine.execPerstDeassert s
  | .stageS1Reached => Sys2Proof.Machine.execStageS1Reached s
  | .stageS2Reached => Sys2Proof.Machine.execStageS2Reached s
  | .stageS3Reached => Sys2Proof.Machine.execStageS3Reached s
  | .stageDeadlineMissed unit => Sys2Proof.Machine.execStageDeadlineMissed unit s
  | .aux54vArrives => Sys2Proof.Machine.execAux54vArrives s
  | .drvfeatWrite v => Sys2Proof.Machine.execDrvfeatWrite v s
  | .vfFlr n => Sys2Proof.Machine.execVfFlr n s
  | .pfFlr => Sys2Proof.Machine.execPfFlr s
  | .pcieLinkTrained rate width => Sys2Proof.Machine.execPcieLinkTrained rate width s
  | .hostLinkLost => Sys2Proof.Machine.execHostLinkLost s
  | .linklostSaveComplete => Sys2Proof.Machine.execLinklostSaveComplete s
  | .hostLinkRetrained => Sys2Proof.Machine.execHostLinkRetrained s
  | .recoveryTimeout => Sys2Proof.Machine.execRecoveryTimeout s
  | .bar2baseWrite v => Sys2Proof.Machine.execBar2baseWrite v s
  | .hostBar2Access off write data => Sys2Proof.Machine.execHostBar2Access off write data s
  | .hostVfBarAccessInFlr n off write v => Sys2Proof.Machine.execHostVfBarAccessInFlr n off write v s
  | .cxlLinkTrained gts width expanders => Sys2Proof.Machine.execCxlLinkTrained gts width expanders s
  | .expanderLost k => Sys2Proof.Machine.execExpanderLost k s
  | .d2dCorrectableRetry => Sys2Proof.Machine.execD2dCorrectableRetry s
  | .d2dUncorrectableFlit granules => Sys2Proof.Machine.execD2dUncorrectableFlit granules s
  | .ppsEdge => Sys2Proof.Machine.execPpsEdge s
  | .timeOfDayDelivery secs => Sys2Proof.Machine.execTimeOfDayDelivery secs s
  | .ppsHoldover => Sys2Proof.Machine.execPpsHoldover s
  | .ttEraWrap => Sys2Proof.Machine.execTtEraWrap s
  | .d2dTimeCalibration diff => Sys2Proof.Machine.execD2dTimeCalibration diff s
  | .skewAlarm => Sys2Proof.Machine.execSkewAlarm s
  | .powerCapSet watts => Sys2Proof.Machine.execPowerCapSet watts s
  | .clockStep up => Sys2Proof.Machine.execClockStep up s
  | .pldmSensorRead sensor => Sys2Proof.Machine.execPldmSensorRead sensor s
  | .wearUpdate entries => Sys2Proof.Machine.execWearUpdate entries s
  | .attestationRequestSideband nonce => Sys2Proof.Machine.execAttestationRequestSideband nonce s
  | .pldmFwUpdate body img => Sys2Proof.Machine.execPldmFwUpdate body img s
  | .fwsctlOpen body => Sys2Proof.Machine.execFwsctlOpen body s
  | .fwspush => Sys2Proof.Machine.execFwspush s
  | .fwsChunkCopied => Sys2Proof.Machine.execFwsChunkCopied s
  | .fwsctlGo img => Sys2Proof.Machine.execFwsctlGo img s
  | .castleVerify => Sys2Proof.Machine.execCastleVerify s
  | .castleStaged => Sys2Proof.Machine.execCastleStaged s
  | .castlePoint => Sys2Proof.Machine.execCastlePoint s
  | .engineStoreSwap e => Sys2Proof.Machine.execEngineStoreSwap e s
  | .castleImportDone => Sys2Proof.Machine.execCastleImportDone s
  | .castleHeartbeat => Sys2Proof.Machine.execCastleHeartbeat s
  | .heartbeatDeadline => Sys2Proof.Machine.execHeartbeatDeadline s
  | .castleCommit => Sys2Proof.Machine.execCastleCommit s
  | .doorbellWrite n q k v => Sys2Proof.Machine.execDoorbellWrite n q k v s
  | .ringFetch n q k => Sys2Proof.Machine.execRingFetch n q k s
  | .mergeRound => Sys2Proof.Machine.execMergeRound s
  | .inject => Sys2Proof.Machine.execInject s
  | .reside => Sys2Proof.Machine.execReside s
  | .evict => Sys2Proof.Machine.execEvict s
  | .evictDone n h => Sys2Proof.Machine.execEvictDone n h s
  | .ib => Sys2Proof.Machine.execIb s
  | .waitv => Sys2Proof.Machine.execWaitv s
  | .waitvReread => Sys2Proof.Machine.execWaitvReread s
  | .writev => Sys2Proof.Machine.execWritev s
  | .mboxAttestRequest => Sys2Proof.Machine.execMboxAttestRequest s
  | .mboxEcho => Sys2Proof.Machine.execMboxEcho s
  | .qbar => Sys2Proof.Machine.execQbar s
  | .tracectl => Sys2Proof.Machine.execTracectl s
  | .nopk => Sys2Proof.Machine.execNopk s
  | .activationQuiescent n root => Sys2Proof.Machine.execActivationQuiescent n root s
  | .cplheadWrite n q v => Sys2Proof.Machine.execCplheadWrite n q v s
  | .tagStallWatchdog => Sys2Proof.Machine.execTagStallWatchdog s
  | .qctlEnableSet n q v => Sys2Proof.Machine.execQctlEnableSet n q v s
  | .qctlEnableClear n q => Sys2Proof.Machine.execQctlEnableClear n q s
  | .qctlCmdResume n q => Sys2Proof.Machine.execQctlCmdResume n q s
  | .qctlCmdReset n q => Sys2Proof.Machine.execQctlCmdReset n q s
  | .mbxheadWrite n v => Sys2Proof.Machine.execMbxheadWrite n v s
  | .mbxctlWrite n v => Sys2Proof.Machine.execMbxctlWrite n v s
  | .dataDoorbellWrite n d v => Sys2Proof.Machine.execDataDoorbellWrite n d v s
  | .drctlEnableSet n d v => Sys2Proof.Machine.execDrctlEnableSet n d v s
  | .drctlEnableClear n d => Sys2Proof.Machine.execDrctlEnableClear n d s
  | .drctlCmdResume n d => Sys2Proof.Machine.execDrctlCmdResume n d s
  | .drctlCmdReset n d => Sys2Proof.Machine.execDrctlCmdReset n d s
  | .span => Sys2Proof.Machine.execSpan s
  | .sample => Sys2Proof.Machine.execSample s
  | .flush => Sys2Proof.Machine.execFlush s
  | .dataPacketConsumed => Sys2Proof.Machine.execDataPacketConsumed s
  | .streamOpen => Sys2Proof.Machine.execStreamOpen s
  | .streamBind => Sys2Proof.Machine.execStreamBind s
  | .streamComplete => Sys2Proof.Machine.execStreamComplete s
  | .regionGrant r n q => Sys2Proof.Machine.execRegionGrant r n q s
  | .quantumCharge us => Sys2Proof.Machine.execQuantumCharge us s
  | .drainComplete => Sys2Proof.Machine.execDrainComplete s
  | .t1Deadline => Sys2Proof.Machine.execT1Deadline s
  | .engineBoundarySave k => Sys2Proof.Machine.execEngineBoundarySave k s
  | .shadowExchange r => Sys2Proof.Machine.execShadowExchange r s
  | .t2Deadline => Sys2Proof.Machine.execT2Deadline s
  | .queueRestore => Sys2Proof.Machine.execQueueRestore s
  | .partcfgHoldSet n => Sys2Proof.Machine.execPartcfgHoldSet n s
  | .partcfgHoldClear n => Sys2Proof.Machine.execPartcfgHoldClear n s
  | .spillWatchdog n => Sys2Proof.Machine.execSpillWatchdog n s
  | .faultToken => Sys2Proof.Machine.execFaultToken s
  | .rmLoad n h => Sys2Proof.Machine.execRmLoad n h s
  | .rmPlace n h => Sys2Proof.Machine.execRmPlace n h s
  | .rmFetch el entry => Sys2Proof.Machine.execRmFetch el entry s
  | .configEntryFetched el entry => Sys2Proof.Machine.execConfigEntryFetched el entry s
  | .stageInputIdle n h => Sys2Proof.Machine.execStageInputIdle n h s
  | .rmStageSwap n out inn => Sys2Proof.Machine.execRmStageSwap n out inn s
  | .rmResolve n page pte => Sys2Proof.Machine.execRmResolve n page pte s
  | .faultReplay n page => Sys2Proof.Machine.execFaultReplay n page s
  | .trctlEnSet n v => Sys2Proof.Machine.execTrctlEnSet n v s
  | .traceFilterWrite n off v => Sys2Proof.Machine.execTraceFilterWrite n off v s
  | .trheadWrite n v => Sys2Proof.Machine.execTrheadWrite n v s
  | .traceEventWrite => Sys2Proof.Machine.execTraceEventWrite s
  | .traceForcedLossy n => Sys2Proof.Machine.execTraceForcedLossy n s
  | .elcselWrite n v => Sys2Proof.Machine.execElcselWrite n v s
  | .tokenEnqueue k => Sys2Proof.Machine.execTokenEnqueue k s
  | .framePartReload el tag => Sys2Proof.Machine.execFramePartReload el tag s
  | .queueRefill r => Sys2Proof.Machine.execQueueRefill r s
  | .translationWalk tables page => Sys2Proof.Machine.execTranslationWalk tables page s
  | .atsInvalidation pasid page => Sys2Proof.Machine.execAtsInvalidation pasid page s
  | .tlbinvWrite v => Sys2Proof.Machine.execTlbinvWrite v s
  | .hbmForcedRefresh stack pc => Sys2Proof.Machine.execHbmForcedRefresh stack pc s
  | .hbmCorrectedError stack pc count => Sys2Proof.Machine.execHbmCorrectedError stack pc count s
  | .hbmUncorrectableError pa pc => Sys2Proof.Machine.execHbmUncorrectableError pa pc s
  | .latctlClr r p => Sys2Proof.Machine.execLatctlClr r p s
  | .copyTrigger cl hq => Sys2Proof.Machine.execCopyTrigger cl hq s
  | .copyRetire k => Sys2Proof.Machine.execCopyRetire k s
  | .engineFifoIssue k => Sys2Proof.Machine.execEngineFifoIssue k s
  | .engineRetire k => Sys2Proof.Machine.execEngineRetire k s
  | .mxdrpRowArrive k => Sys2Proof.Machine.execMxdrpRowArrive k s
  | .engineNoncommandDrop k => Sys2Proof.Machine.execEngineNoncommandDrop k s
  | .registerWrite off v => Sys2Proof.Machine.execRegisterWrite off v s
  | .iadd a b d e t => Sys2Proof.Machine.execIadd a b d e t s
  | .isub a b d e t => Sys2Proof.Machine.execIsub a b d e t s
  | .iadds a b d e t => Sys2Proof.Machine.execIadds a b d e t s
  | .iaddus a b d e t => Sys2Proof.Machine.execIaddus a b d e t s
  | .isubs a b d e t => Sys2Proof.Machine.execIsubs a b d e t s
  | .imul a b d e t => Sys2Proof.Machine.execImul a b d e t s
  | .imulh a b d e t => Sys2Proof.Machine.execImulh a b d e t s
  | .imulhu a b d e t => Sys2Proof.Machine.execImulhu a b d e t s
  | .imad a b d e t => Sys2Proof.Machine.execImad a b d e t s
  | .idiv a b d e t => Sys2Proof.Machine.execIdiv a b d e t s
  | .idivu a b d e t => Sys2Proof.Machine.execIdivu a b d e t s
  | .irem a b d e t => Sys2Proof.Machine.execIrem a b d e t s
  | .iremu a b d e t => Sys2Proof.Machine.execIremu a b d e t s
  | .imin a b d e t => Sys2Proof.Machine.execImin a b d e t s
  | .imax a b d e t => Sys2Proof.Machine.execImax a b d e t s
  | .iminu a b d e t => Sys2Proof.Machine.execIminu a b d e t s
  | .imaxu a b d e t => Sys2Proof.Machine.execImaxu a b d e t s
  | .iabs a d e t => Sys2Proof.Machine.execIabs a d e t s
  | .ineg a d e t => Sys2Proof.Machine.execIneg a d e t s
  | .and a b d e t => Sys2Proof.Machine.execAnd a b d e t s
  | .or a b d e t => Sys2Proof.Machine.execOr a b d e t s
  | .xor a b d e t => Sys2Proof.Machine.execXor a b d e t s
  | .andn a b d e t => Sys2Proof.Machine.execAndn a b d e t s
  | .not a d e t => Sys2Proof.Machine.execNot a d e t s
  | .shl a b d e t => Sys2Proof.Machine.execShl a b d e t s
  | .shr a b d e t => Sys2Proof.Machine.execShr a b d e t s
  | .sar a b d e t => Sys2Proof.Machine.execSar a b d e t s
  | .rol a b d e t => Sys2Proof.Machine.execRol a b d e t s
  | .clz a d e t => Sys2Proof.Machine.execClz a d e t s
  | .popc a d e t => Sys2Proof.Machine.execPopc a d e t s
  | .brev a d e t => Sys2Proof.Machine.execBrev a d e t s
  | .bfx a b d e t => Sys2Proof.Machine.execBfx a b d e t s
  | .bfi a b d e t => Sys2Proof.Machine.execBfi a b d e t s
  | .iseq a b d e t => Sys2Proof.Machine.execIseq a b d e t s
  | .isne a b d e t => Sys2Proof.Machine.execIsne a b d e t s
  | .islt a b d e t => Sys2Proof.Machine.execIslt a b d e t s
  | .isle a b d e t => Sys2Proof.Machine.execIsle a b d e t s
  | .isltu a b d e t => Sys2Proof.Machine.execIsltu a b d e t s
  | .isleu a b d e t => Sys2Proof.Machine.execIsleu a b d e t s
  | .fadd a b d e t => Sys2Proof.Machine.execFadd a b d e t s
  | .fsub a b d e t => Sys2Proof.Machine.execFsub a b d e t s
  | .fmul a b d e t => Sys2Proof.Machine.execFmul a b d e t s
  | .fma a b d e t => Sys2Proof.Machine.execFma a b d e t s
  | .fmin a b d e t => Sys2Proof.Machine.execFmin a b d e t s
  | .fmax a b d e t => Sys2Proof.Machine.execFmax a b d e t s
  | .fabs a d e t => Sys2Proof.Machine.execFabs a d e t s
  | .fneg a d e t => Sys2Proof.Machine.execFneg a d e t s
  | .fseq a b d e t => Sys2Proof.Machine.execFseq a b d e t s
  | .fslt a b d e t => Sys2Proof.Machine.execFslt a b d e t s
  | .fsle a b d e t => Sys2Proof.Machine.execFsle a b d e t s
  | .fsun a b d e t => Sys2Proof.Machine.execFsun a b d e t s
  | .fscale a b d e t => Sys2Proof.Machine.execFscale a b d e t s
  | .frnd a m d e t => Sys2Proof.Machine.execFrnd a m d e t s
  | .rcpe a d e t => Sys2Proof.Machine.execRcpe a d e t s
  | .rsqe a d e t => Sys2Proof.Machine.execRsqe a d e t s
  | .exp2 a d e t => Sys2Proof.Machine.execExp2 a d e t s
  | .log2 a d e t => Sys2Proof.Machine.execLog2 a d e t s
  | .tanh a d e t => Sys2Proof.Machine.execTanh a d e t s
  | .sigm a d e t => Sys2Proof.Machine.execSigm a d e t s
  | .cvtfi a m d e t => Sys2Proof.Machine.execCvtfi a m d e t s
  | .cvtif a m d e t => Sys2Proof.Machine.execCvtif a m d e t s
  | .cvtfb a d e t => Sys2Proof.Machine.execCvtfb a d e t s
  | .cvtbf a d e t => Sys2Proof.Machine.execCvtbf a d e t s
  | .cvtfh a d e t => Sys2Proof.Machine.execCvtfh a d e t s
  | .cvthf a d e t => Sys2Proof.Machine.execCvthf a d e t s
  | .qe4 a b d e t => Sys2Proof.Machine.execQe4 a b d e t s
  | .qe5 a b d e t => Sys2Proof.Machine.execQe5 a b d e t s
  | .qe2 a b d e t => Sys2Proof.Machine.execQe2 a b d e t s
  | .qai8 a b d e t => Sys2Proof.Machine.execQai8 a b d e t s
  | .qai4 a b d e t => Sys2Proof.Machine.execQai4 a b d e t s
  | .dqf a d e t => Sys2Proof.Machine.execDqf a d e t s
  | .scaleof a m d e t => Sys2Proof.Machine.execScaleof a m d e t s
  | .retag a m d e t => Sys2Proof.Machine.execRetag a m d e t s
  | .vbcast a m d e t => Sys2Proof.Machine.execVbcast a m d e t s
  | .vlane a m d e t => Sys2Proof.Machine.execVlane a m d e t s
  | .vins a b d e t => Sys2Proof.Machine.execVins a b d e t s
  | .vmerge a b d e t => Sys2Proof.Machine.execVmerge a b d e t s
  | .vsplit a m d e t => Sys2Proof.Machine.execVsplit a m d e t s
  | .vmask a b d e t => Sys2Proof.Machine.execVmask a b d e t s
  | .vsum a d e t => Sys2Proof.Machine.execVsum a d e t s
  | .vmax a d e t => Sys2Proof.Machine.execVmax a d e t s
  | .vmin a d e t => Sys2Proof.Machine.execVmin a d e t s
  | .vdot a b d e t => Sys2Proof.Machine.execVdot a b d e t s
  | .vlen a d e t => Sys2Proof.Machine.execVlen a d e t s
  | .vnz a m d e t => Sys2Proof.Machine.execVnz a m d e t s
  | .viota a m d e t => Sys2Proof.Machine.execViota a m d e t s
  | .pass a d e t => Sys2Proof.Machine.execPass a d e t s
  | .steer a m d e t => Sys2Proof.Machine.execSteer a m d e t s
  | .sel a b d e t => Sys2Proof.Machine.execSel a b d e t s
  | .gate a m d e t => Sys2Proof.Machine.execGate a m d e t s
  | .merge d e t => Sys2Proof.Machine.execMerge d e t s
  | .radd b d e t => Sys2Proof.Machine.execRadd b d e t s
  | .rmax b d e t => Sys2Proof.Machine.execRmax b d e t s
  | .count m d e t => Sys2Proof.Machine.execCount m d e t s
  | .eosq a d e t => Sys2Proof.Machine.execEosq a d e t s
  | .eosg a d e t => Sys2Proof.Machine.execEosg a d e t s
  | .tagof a d e t => Sys2Proof.Machine.execTagof a d e t s
  | .free a d e t => Sys2Proof.Machine.execFree a d e t s
  | .sink a t => Sys2Proof.Machine.execSink a t s
  | .const a m d e t => Sys2Proof.Machine.execConst a m d e t s
  | .ldl a m d e t => Sys2Proof.Machine.execLdl a m d e t s
  | .stl a d e t => Sys2Proof.Machine.execStl a d e t s
  | .ldc a m d e t => Sys2Proof.Machine.execLdc a m d e t s
  | .stc a d e t => Sys2Proof.Machine.execStc a d e t s
  | .ldg a b d e t => Sys2Proof.Machine.execLdg a b d e t s
  | .stg a b d e t => Sys2Proof.Machine.execStg a b d e t s
  | .atadd a b d e t => Sys2Proof.Machine.execAtadd a b d e t s
  | .atmin a b d e t => Sys2Proof.Machine.execAtmin a b d e t s
  | .atmax a b d e t => Sys2Proof.Machine.execAtmax a b d e t s
  | .atand a b d e t => Sys2Proof.Machine.execAtand a b d e t s
  | .ator a b d e t => Sys2Proof.Machine.execAtor a b d e t s
  | .atxor a b d e t => Sys2Proof.Machine.execAtxor a b d e t s
  | .atxch a b d e t => Sys2Proof.Machine.execAtxch a b d e t s
  | .atcas a b d e t => Sys2Proof.Machine.execAtcas a b d e t s
  | .ticket a b d e t => Sys2Proof.Machine.execTicket a b d e t s
  | .append a b d e t => Sys2Proof.Machine.execAppend a b d e t s
  | .prefg a b d e t => Sys2Proof.Machine.execPrefg a b d e t s
  | .join a d e t => Sys2Proof.Machine.execJoin a d e t s
  | .leave a d e t => Sys2Proof.Machine.execLeave a d e t s
  | .arrive a d e t => Sys2Proof.Machine.execArrive a d e t s
  | .fence a sc d e t => Sys2Proof.Machine.execFence a sc d e t s
  | .acq a sc d e t => Sys2Proof.Machine.execAcq a sc d e t s
  | .rel a sc d e t => Sys2Proof.Machine.execRel a sc d e t s
  | .trap a t => Sys2Proof.Machine.execTrap a t s
  | .evt a m d e t => Sys2Proof.Machine.execEvt a m d e t s
  | .time a d e t => Sys2Proof.Machine.execTime a d e t s
  | .mbxs a d e t => Sys2Proof.Machine.execMbxs a d e t s
  | .qput a b d e t => Sys2Proof.Machine.execQput a b d e t s
  | .yield a d e t => Sys2Proof.Machine.execYield a d e t s
  | .cparm a b d e t => Sys2Proof.Machine.execCparm a b d e t s
  | .cpdis a b d e t => Sys2Proof.Machine.execCpdis a b d e t s
  | .cpgo a b d e t => Sys2Proof.Machine.execCpgo a b d e t s
  | .gather a b d e t => Sys2Proof.Machine.execGather a b d e t s
  | .scatter a b d e t => Sys2Proof.Machine.execScatter a b d e t s
  | .scatadd a b d e t => Sys2Proof.Machine.execScatadd a b d e t s
  | .tileld a b d e t => Sys2Proof.Machine.execTileld a b d e t s
  | .tilest a b d e t => Sys2Proof.Machine.execTilest a b d e t s
  | .oobrd a b d e t => Sys2Proof.Machine.execOobrd a b d e t s
  | .mxlw a b d e t => Sys2Proof.Machine.execMxlw a b d e t s
  | .mxswap a b d e t => Sys2Proof.Machine.execMxswap a b d e t s
  | .mxstr a b d e t => Sys2Proof.Machine.execMxstr a b d e t s
  | .mxzero a b d e t => Sys2Proof.Machine.execMxzero a b d e t s
  | .mxdrp a b d e t => Sys2Proof.Machine.execMxdrp a b d e t s
  | .mxdrs a b d e t => Sys2Proof.Machine.execMxdrs a b d e t s
  | .mxdrm a b d e t => Sys2Proof.Machine.execMxdrm a b d e t s
  | .mxqp a b d e t => Sys2Proof.Machine.execMxqp a b d e t s
  | .tdcfg a b d e t => Sys2Proof.Machine.execTdcfg a b d e t s
  | .tdsc a b d e t => Sys2Proof.Machine.execTdsc a b d e t s
  | .tdgrp a b d e t => Sys2Proof.Machine.execTdgrp a b d e t s
  | .tdptr a b d e t => Sys2Proof.Machine.execTdptr a b d e t s
  | .tdnode a b d e t => Sys2Proof.Machine.execTdnode a b d e t s
  | .brcfg a b d e t => Sys2Proof.Machine.execBrcfg a b d e t s
  | .brin a b d e t => Sys2Proof.Machine.execBrin a b d e t s
  | .brret a b d e t => Sys2Proof.Machine.execBrret a b d e t s
  | .brstat a b d e t => Sys2Proof.Machine.execBrstat a b d e t s
  | .brpin a b d e t => Sys2Proof.Machine.execBrpin a b d e t s
  | .shidx a b d e t => Sys2Proof.Machine.execShidx a b d e t s
  | .packr a b d e t => Sys2Proof.Machine.execPackr a b d e t s
  | .segid a b d e t => Sys2Proof.Machine.execSegid a b d e t s
  | .perstAssert => Sys2Proof.Machine.execPerstAssert s
  | .powerLoss => Sys2Proof.Machine.execPowerLoss s
  | .memoryResponse k => Sys2Proof.Machine.execMemoryResponse k s
  | .priPageResponse n page ok => Sys2Proof.Machine.execPriPageResponse n page ok s
  | .atsTranslationResponse pasid page answer => Sys2Proof.Machine.execAtsTranslationResponse pasid page answer s
  | .orderlyPowerDownMessage => Sys2Proof.Machine.execOrderlyPowerDownMessage s

end Sys2Proof.Machine
end

