-- ==== Sys2Proof/Machine/Fetch.lean ====
section
/-! DEFINITION. Where a firing's instruction comes from (R154, R158): the word of the site's slot in the element's
instruction table; and the site that a word is placed at to be run next. -/

namespace Sys2Proof.Machine

/-- The instruction word of a site: the word of its slot in its version's table (R154). -/
def fetchWord (s : State) (st : Site) : Word := lookup 0 (elemOf s st.el).instr (key16 st.v st.slot)

/-- The site a word is placed at: slot 0 of version A of the first element, for tag 1. -/
def firstSite : Site := ⟨0, false, 0, 1⟩

/-- The state in which a word stands as the instruction of `firstSite`, in a configuration of partition 1 whose queue 0
holds the region (R107, R110), with a one-lane I32 token in each field, and its firing comes next. -/
def placeWord (s : State) (w : Word) : State :=
  let t : Token := { lanes := [0], mask := 1, tag := firstSite.tag, ctx := 1 }
  let c := cfgOf 1 1
  let s := modRegion s 0 fun r => { r with avail := true, owner := 1, queue := 0, state := .run }
  let s := modElem s firstSite.el fun e => { e with
    instr := store e.instr 0 w, owner := store e.owner 0 c
    parts := [{ cfg := c, tag := firstSite.tag, fields := [(0, some (.tok t)), (1, some (.tok t)), (2, some (.tok t))] }] }
  { s with agenda := .fire firstSite :: s.agenda }

end Sys2Proof.Machine
end

