-- ==== Sys2Proof/Machine/Step.lean ====
section
/-! DEFINITION. One step: what moves next (`nextItem`), run. -/

namespace Sys2Proof.Machine

/-- What an item does: an event with its queue or ring in hand, the firing of the instruction at a site (R158), or the
passing of time. -/
def runItem (s : State) : Item → Host.Outcome State Fault Refusal
  | .event hand i => exec i { s with hand := hand }
  | .fire st =>
    match decode (fetchWord s st) with
    | .ok i => exec i { s with focus := some st }
    | .error _ => .fault .badWord
  | .outside o => .next (doOutside s o)
  | .inner i => .next (doInner s i)
  | .elapse units => .next (passTime s units)

/-- Whether an item changes the state, but for what is in hand. -/
def changes (s : State) (it : Item) : Bool :=
  match runItem s it with
  | .next s' => s' != { s with hand := s'.hand, focus := s'.focus }
  | _ => false

/-- One step. -/
def step (s : State) : Host.Outcome State Fault Refusal :=
  let next := nextItem changes s
  runItem next.2 next.1

/-- The state with an instruction word placed where the next step fetches it. -/
def State.withFetchWord (s : State) (nbits w : Nat) : State := placeWord s (BitVec.ofNat 32 (w % 2 ^ nbits))

end Sys2Proof.Machine
end

