-- ==== Sys2Proof/Safety.lean ====
section
/-! DEFINITION. What the manual promises, in the terms claims use: memory in canonical form, a firing that nothing holds
back, and what a firing sends. -/

namespace Sys2Proof.Machine

/-- Device and host memory are in canonical form. -/
def State.memOk (s : State) : Bool := Memory.wf s.mem && Memory.wf s.hostMem

/-- Nothing holds back a step of partition `n`, whatever faults it raises and events it emits: the FGE's fault FIFO of each die has room
(R103), and its trace ring is not lossless or has every slot free (R150). -/
def reportable (s : State) (n : Nat) : Bool :=
  s.faults.all (fun f => (s.faults.filter fun g => regionDie g.region == regionDie f.region).length < Config.faultFifoEntries) &&
    (!losslessNow s n || decide (max 16 (2 ^ (partOf s n).trace.log2) ≤ freeSlots s n))

/-- Nothing outside the element holds back a firing of partition `n`: its step can report, and the allocator has a tag
(R182). -/
def unheld (s : State) (n : Nat) : Bool := reportable s n && !outOfTags s n

/-- The slot in hand is ready with a form's operands, its destinations have room and a divide finds the divider idle (R157, R158, R166,
R170): `f` is the firing and `s1` the state in which its operands have been consumed. No operand is poisoned, NULL or an EOS. -/
def Goes (s : State) (fm : Form) (compare : Bool) (f : Firing) (s1 : State) : Prop :=
  ∃ h i, slotInHand s = some h ∧ opInfo fm.op = some i ∧ roomFor s h.el h.v fm = true ∧ dividerBusy fm s h = false ∧
    unheld s (cfgPart h.cfg) = true ∧
    gather s h fm (readFields i fm) compare = .go f s1

/-- The state in which a firing has sent its results under its result tag, and what follows them has been done (R164,
R168). One without results takes the stamp of its tag action all the same. -/
def sent (s : State) (f : Firing) (tag : Tag) (outs : List Out) : State :=
  afterFiring (outs.foldl (sendOut f tag) (stampUnsent s f outs)) f

/-- An instruction completes whenever its slot goes and its tag action has a tag: it sends `outs`, and `after` follows. -/
def Yields (i : Instr) (fm : Form) (compare : Bool) (outs : State → Firing → List Out)
    (after : Firing → State → State := fun _ s => s) : Prop :=
  ∀ s f s1 tag s2, Goes s fm compare f s1 → resultTag s1 f = some (tag, s2) →
    exec i s = .next (after f (sent s2 f tag (outs s1 f)))

/-- The lanes of a result: one word for each lane of the firing, zero where its mask bit is 0 (R353). -/
def eachLane (f : Firing) (g : Nat → Word) : List Word :=
  (List.range f.count).map fun j => if f.mask.getLsbD j then g j else 0

/-- One DATA token to D0 and D1. -/
def oneToken (fmt : Fmt) (pred : Bool) (aux : Option Word) (lanes : List Word) (mask : BitVec 8) : List Out :=
  [{ tok := { kind := .data, fmt := fmt, lanes := lanes, mask := mask, pred := pred, aux := aux } }]

/-- The mask of a result that has the firing's lanes. -/
def laneMask (f : Firing) : BitVec 8 := f.mask &&& lowMask f.count

/-- A lane function of A, B and C as a result (R353). -/
def wordResult (fmt : Firing → Fmt) (pred : Firing → Bool) (g : Word → Word → Word → Word) (_ : State) (f : Firing) : List Out :=
  oneToken (fmt f) (pred f) none (eachLane f fun j => g (laneOf f.a j) (laneOf f.b j) (laneP f j)) (laneMask f)

/-- FMT of A where it is a token, or else of B, or else I32 (R352). -/
def fmtOfAB (f : Firing) : Fmt :=
  match f.a, f.b with
  | .tok t, _ => t.fmt
  | .word _, .tok u => u.fmt
  | .word _, .word _ => .i32

/-- Every token among A and B has PRED 1 (R352). -/
def predOfAB (f : Firing) : Bool :=
  match f.a, f.b with
  | .tok t, .tok u => t.pred && u.pred
  | .tok t, .word _ => t.pred
  | .word _, .tok u => u.pred
  | .word _, .word _ => false

/-- FMT of A where it is a token, or else I32. -/
def fmtOfAlone (f : Firing) : Fmt := match f.a with | .tok t => t.fmt | .word _ => .i32

/-- PRED of A. -/
def predOfAlone (f : Firing) : Bool := match f.a with | .tok t => t.pred | .word _ => false

/-- AUX word of A. -/
def auxOfAlone (f : Firing) : Option Word := match f.a with | .tok t => t.aux | .word _ => none

/-- One lane computed in F32, or as two BF16 elements, from an element function (R361, R363). -/
def floatWord (g : Nat → Nat → Nat → Nat → Rounded) (f : Firing) (j : Nat) : LaneResult :=
  floatLane g (firesBf16 f) (laneOf f.a j) (laneOf f.b j) (laneP f j)

/-- An element function as a result (R361, R363). -/
def floatResult (cmp : Bool) (g : Nat → Nat → Nat → Nat → Rounded) (_ : State) (f : Firing) : List Out :=
  oneToken (if cmp then .i32 else if firesBf16 f then .bf16 else .f32) cmp none
    (eachLane f fun j => (floatWord g f j).word) (laneMask f)

/-- Unmasked lanes of a firing that satisfy a test. -/
def lanesThat (f : Firing) (p : Nat → Bool) : Nat := ((List.range f.count).filter fun j => f.mask.getLsbD j && p j).length

/-- NANCNT and OVFCNT raised by the lanes that count in them (R363). -/
def floatCounts (g : Nat → Nat → Nat → Nat → Rounded) (f : Firing) (s : State) : State :=
  countFloat s f.el (lanesThat f fun j => (floatWord g f j).nan) (lanesThat f fun j => (floatWord g f j).ovf)

/-- A result with the header of A (R379). -/
def withHeaderA (f : Firing) (lanes : List Word) (mask : BitVec 8) : Token :=
  { kind := .data, fmt := fmtOfAlone f, lanes := lanes, mask := mask, pred := predOfAlone f, aux := auxOfAlone f }

/-- Operand A as it goes on (R384): its lanes, mask and whole header. -/
def tokenA (f : Firing) : Token := withHeaderA f (eachLane f (laneOf f.a)) (laneMask f)

/-- The NULL token with A's header (R172). -/
def nullTokenA (f : Firing) : Token :=
  { kind := .null, fmt := fmtOfAlone f, lanes := List.replicate f.count 0, mask := 0, pred := predOfAlone f,
    aux := if 3 ≤ fmtCode (fmtOfAlone f) then some ((auxOfAlone f).getD 0) else auxOfAlone f }

/-- The state in which a firing's memory request has reached its port (R392, R395), where it waits, or parks behind one of its page
(R200): it carries operands A and P, the record word, the header of its answer and the destination of D0. -/
def requested (s : State) (f : Firing) (tag : Tag) (word : Word) : State :=
  let st := if stampsSeq f.form.t then takeStamp s f else (f.head.seq, s)
  afterFiring (reachPort st.2 {
    op := f.form.op, el := f.el, v := f.v, slot := f.slot, cfg := f.cfg, region := elemRegion f.el
    port := bits (routeWord s f.el f.v f.form.e) 27 22, a := operandTok f.a, bsel := word, p := f.p
    hdr := headed f tag st.1 {}, d0 := (route s f.el f.v f.form.d).toList, ident := s.nextIdent }) f

/-- The record that lane 0 of B names (R393). -/
def recordNamed (s : State) (f : Firing) : Option Rec := recOf s f.cfg ((laneOf f.b 0).toNat % 4096)

/-- A memory opcode completes: its request leaves whenever its slot goes, its tag action has a tag and `ready` holds. -/
def Requests (i : Instr) (fm : Form) (ready : State → Firing → Prop) (word : Firing → Word)
    (after : Firing → State → State → State := fun _ _ s => s) : Prop :=
  ∀ s f s1 tag s2, Goes s fm false f s1 → resultTag s1 f = some (tag, s2) → ready s1 f →
    exec i s = .next (after f s1 (requested s2 f tag (word f)))

/-- The record named exists and has the rights (R195, R201). -/
def HasRights (rights : List Nat) (s : State) (f : Firing) : Prop :=
  ∃ r, recordNamed s f = some r ∧ ∀ k ∈ rights, r.rights.getLsbD k = true

/-- The state in which a firing's command has left for its engine port (R332): it carries operands A and P, the header in
lane 0 of B, the number of the firing's queue and the destinations of D0 and D1; VSEL of the port's entry chooses its V (R162, R328). -/
def commanded (s : State) (f : Firing) (tag : Tag) : State :=
  let sq := commandSeq s f
  let r := elemRegion f.el
  let entry := routeWord sq.2 f.el f.v (48 + f.slot)
  let port := bits entry 27 22
  let a := applyVsel (vselOf (bits entry 10 9)) (headed f tag sq.1 (operandTok f.a))
  let c : Cmd := { op := BitVec.ofNat 8 f.form.op, hdr := BitVec.ofNat 24 (laneOf f.b 0).toNat, a := a, p := f.p, el := f.el,
                   v := f.v, slot := f.slot, cfg := f.cfg, region := r, port := port, queue := (regionOf sq.2 r).queue,
                   d0 := (route sq.2 f.el f.v f.form.d).toList, d1 := (route sq.2 f.el f.v f.form.e).toList,
                   ident := sq.2.nextIdent }
  afterFiring { sq.2 with net := sq.2.net ++ [{ tok := a, dest := .engine r port .keep, src := f.el, cmd := some c, slot := some (key16 f.v f.slot) }],
                          nextIdent := sq.2.nextIdent + 1 } f

/-- An engine command completes: it is sent whenever its slot goes and its tag action has a tag. -/
def Commands (i : Instr) (fm : Form) : Prop :=
  ∀ s f s1 tag s2, Goes s fm false f s1 → resultTag s1 f = some (tag, s2) → exec i s = .next (commanded s2 f tag)

/-- An element that holds no waiting token. -/
def quietElem (e : Element) : Bool := e.parked.isEmpty && e.queues.all fun q => q.2.isEmpty

/-- Flight `k`, a token `x` for a field of an element that holds no waiting token, is the next of its way, and its region
runs for its partition (R173, R174): `base` is the state in which it has come to the head of its queue and left it, the
acknowledgement of a store delivered there being noted (R212). -/
def Lands (s : State) (k el slot field : Nat) (port : Bool) (x : Token) (base : State) : Prop :=
  ∃ f vsel, s.net[k]? = some f ∧ f.tok = x ∧ f.cmd = none ∧ f.dest = .slot el slot field vsel port ∧ field < 3 ∧
    (s.net.take k).any (sameWay f) = false ∧ regionRuns s (elemRegion el) x.ctx = true ∧ swappedAt s el x = none ∧
    quietElem (elemOf s el) = true ∧ (regionOf s (elemRegion el)).spill = [] ∧ reportable s x.ctx = true ∧
    base = modElem (noteAck { s with net := dropAt s.net k } (elemRegion el) f.ack) el fun e =>
      { e with queues := store e.queues (if port then 3 else field) [] }

/-- Packet `p` is first in line of the queue in hand and may be admitted: the queue takes packets on (R82), fewer than 256
completions wait (R74), the header is sound (R61, R62) and CHAIN lets it (R69). -/
def AtHead (s : State) (n q : Nat) (p : Packet) : Prop :=
  s.hand = (n, q) ∧ queueGoes s n q = true ∧ (queueOf s n q).held.length < 256 ∧ (∃ rest, (queueOf s n q).merged = p :: rest) ∧
    headFault s p = none ∧ chainOk (queueOf s n q) p = true

/-- The packets that a round takes from a ring whose fetched packets these are (R59, R60): the first, and while the last has BUNDLE the
next, up to `k` more. -/
def runOf : Nat → List Packet → List Packet
  | _, [] => []
  | 0, p :: _ => [p]
  | k + 1, p :: ps => p :: if p.bundle then runOf k ps else []

/-- The run comes to a tied packet that has not been fetched (R60). -/
def runBreaks : Nat → List Packet → Bool
  | _, [] => false
  | 0, _ :: _ => false
  | k + 1, p :: ps => p.bundle && (ps.isEmpty || runBreaks k ps)

/-- An element as the packer keeps it, with its mark (R97). -/
def marked (cont : Bool) (seg pos : Nat) (x : SampleElt) : PackElt :=
  ⟨x.1, x.2.1, BitVec.ofNat 32 ((if cont then 2 ^ 31 else 0) + 2 ^ 16 * (seg % 2 ^ 15) + pos % 2 ^ 16), x.2.2⟩

/-- Padding of a row (R96). -/
def padding (n : Nat) : List PackElt := List.replicate n ⟨0, false, 0, false⟩

/-- The data packet of a type at the fetch index of data ring `d` in hand, fetched, with its stream bound (R84, R87, R92). -/
def AtRing (s : State) (n d type : Nat) (bs : List Byte) : Prop :=
  let r := dringOf s n d
  s.hand = (n, d) ∧ r.packet = some bs ∧ leNat (bs.take 8) % 256 = type ∧ r.delivered = false ∧ r.bound.isSome = true ∧
    dringGoes s n r = true ∧ losslessNow s n = false

/-- Core, bank and word in the bank that a word of the cluster address space lies in (R186). -/
def scrAt (w : Nat) : Nat × Nat × Nat := (w % 2 ^ 25 / 2 ^ 20, w / 2 ^ 15 % 32, w % 2 ^ 15)

/-- A word of the cluster address space that partition `n` may use lies in a bank in a mode (R186, R187): the core exists, its region is
the partition's, and the bank is none of its spill ring. -/
def InBank (s : State) (n cl w : Nat) (m : BankMode) : Prop :=
  let a := scrAt w
  a.1 < 24 ∧ holdsCore s n cl a.1 = true ∧ spillBank a.1 a.2.1 = false ∧ (bankOf s cl a.1 a.2.1).mode = m

/-- A word of a bank. -/
def scrValue (s : State) (cl w : Nat) : Word := scrWord s cl (scrAt w).1 (scrAt w).2.1 (scrAt w).2.2

/-- A word of the cluster address space lies in a core of another partition's region, or of none's (R186). -/
def Foreign (s : State) (n cl w : Nat) : Prop := (scrAt w).1 < 24 ∧ holdsCore s n cl (scrAt w).1 = false

/-- Request `k` of an opcode is at its port, and it is its turn (R200, R207): it is not parked, has not begun, its partition holds the
region, and no earlier access of its port keeps it back. -/
def AtPort (s : State) (k : Nat) (r : MemReq) (op : Nat) : Prop :=
  s.reqs[k]? = some r ∧ r.op = op ∧ r.parked = none ∧ r.begun = none ∧ r.early = [] ∧
    (s.reqs.take k).any (behind s · r) = false ∧ holder s r.region = cfgPart r.cfg

/-- The answer of a request, with the header it carries. -/
def answered (r : MemReq) (t : Token) : Token :=
  { t with tag := r.hdr.tag, seq := r.hdr.seq, ctx := r.hdr.ctx, v := r.hdr.v, floor := r.hdr.floor }

/-- A byte of the four at a place. -/
def Within (p : Place) (host : Bool) (x : Nat) : Prop := p.host = host ∧ p.addr ≤ x ∧ x < p.addr + 4

/-- A byte that caches hold stored and have not written back, in a line of a store acknowledged to an element of the region (R187,
R212). -/
def dirtyAt (s : State) (r : Nat) (host : Bool) (x : Nat) : Prop :=
  ∃ a ∈ ackedAt s r, ∃ l ∈ (regionOf s a.region).lines, l.1 ∈ a.lines ∧ ∃ j ∈ l.2.dirty, Within (lineWordPlace l.1 j) host x

/-- A byte that a region's caches hold stored and have not written back (R187). -/
def cachedAt (s : State) (r : Nat) (host : Bool) (x : Nat) : Prop :=
  ∃ l ∈ (regionOf s r).lines, ∃ j ∈ l.2.dirty, Within (lineWordPlace l.1 j) host x

/-- A byte that a write on its way to memory which a test selects stores (R206). -/
def onItsWay (s : State) (f : Posted → Bool) (host : Bool) (x : Nat) : Prop :=
  ∃ po ∈ s.posted, f po = true ∧ ∃ y ∈ po.writes, ∃ p, y.1 = .mem p ∧ Within p host x

/-- A byte that a release of a region at SYS may store (R212). -/
def releasedAt (s : State) (r : Nat) (host : Bool) (x : Nat) : Prop := dirtyAt s r host x ∨ onItsWay s (sysCovers s r) host x

/-- A write to host memory that a read of the host by a region's ports comes after (R206, R212): one of theirs, or one that a release has
made performed. -/
def hostFirst (r : Nat) (po : Posted) : Bool := toHost po && (po.released || (po.port && po.region == r))

/-- Every byte of both memories that a test does not name reads as before. -/
def SameBut (s t : State) (touched : Bool → Nat → Prop) : Prop :=
  ∀ host x, ¬ touched host x → readByte (memOf t host) x = readByte (memOf s host) x

/-- Line `l` is line `l0` of the same key, but for the words that an acquire has invalidated, none of which it has stored (R212, R220). -/
def SameLine (l0 l : Nat × Line) : Prop :=
  l = (l0.1, { l0.2 with lost := l.2.lost }) ∧ (l.2.lost = l0.2.lost ∨ ∀ j ∈ l.2.dirty, j ∉ l.2.lost)

/-- What the firing of an instruction leaves as it was (R158, R162): both memories with their poison, and the writes on their way
there; translations, matrix cores, cluster engines, commands and copies in progress; the device but for its emitters' stamps; every
element's tables; every region but for its set units, clean lines that an acquire drops and the words it invalidates of the others; the ingress units but for what a freed tag leaves there
(R165); and of a partition all but its tags, its
time marks and counts, the stalls of its trace ring, queues and data rings, and whether a stage has yielded. -/
structure Kept (s t : State) : Prop where
  mem : t.mem = s.mem ∧ t.hostMem = s.hostMem ∧ t.poison = s.poison ∧ t.hostPoison = s.hostPoison
  pages : t.tlb = s.tlb ∧ t.ats = s.ats ∧ t.atsPending = s.atsPending ∧ t.pageFaults = s.pageFaults
  engines : t.cores = s.cores ∧ t.clusters = s.clusters ∧ t.cmds = s.cmds ∧ t.copies = s.copies ∧ t.drpRows = s.drpRows ∧
    t.posted = s.posted
  ingress : ∀ d, let i := ingressOf t d
    let i0 := ingressOf s d
    i.keys = i0.keys ∧ (∀ x ∈ i.packers, x ∈ i0.packers) ∧ ∀ x ∈ i.segids, x ∈ i0.segids
  todo : t.agenda = s.agenda ∧ t.focus = s.focus ∧ t.hand = s.hand ∧ t.ages = s.ages ∧ t.fge = s.fge
  dev : t.dev = { s.dev with stamps := t.dev.stamps }
  tables : ∀ el, let e := elemOf t el
    let e0 := elemOf s el
    e.instr = e0.instr ∧ e.lits = e0.lits ∧ e.routes = e0.routes ∧ e.attrs = e0.attrs ∧ e.owner = e0.owner ∧ e.absent = e0.absent
  regions : ∀ r, let g := regionOf t r
    g = { regionOf s r with sets := g.sets, lines := g.lines } ∧ (∀ l ∈ g.lines, ∃ l0 ∈ (regionOf s r).lines, SameLine l0 l) ∧
      ∀ l0 ∈ (regionOf s r).lines, l0.2.dirty ≠ [] → ∃ l ∈ g.lines, SameLine l0 l
  config : ∀ n, let p := partOf t n
    let p0 := partOf s n
    p.en = p0.en ∧ p.rmax = p0.rmax ∧ p.dies = p0.dies ∧ p.hold = p0.hold ∧ p.ptEn = p0.ptEn ∧ p.ptRoot = p0.ptRoot ∧
      p.mbx = p0.mbx ∧ p.elcsel = p0.elcsel ∧ p.elcval = p0.elcval ∧ p.saveArea = p0.saveArea ∧
      p.bankArea = p0.bankArea ∧
      p.trace = { p0.trace with stalled := p.trace.stalled, holders := p.trace.holders, need := p.trace.need } ∧
      p.acts.map (fun a => { a with discard := 0 }) = p0.acts.map fun a => { a with discard := 0 }
  queues : ∀ n q, let u := queueOf t n q
    u = { queueOf s n q with stallAt := u.stallAt, fireStallAt := u.fireStallAt, fireStallPos := u.fireStallPos }
  rings : ∀ n d, dringOf t n d = { dringOf s n d with stallAt := (dringOf t n d).stallAt }
  graphs : ∀ n h, graphOf t n h = { graphOf s n h with yielded := (graphOf t n h).yielded }

end Sys2Proof.Machine
end

