-- ==== Sys2Proof/Certificates/Slice0/Obligations.lean ====
section
/-! DEFINITION. The statements for the provers. -/

open Sys2Proof Sys2Proof.Machine

/-! ### Integer opcodes (R350 to R359) -/

/-- R356 with R352 and R353: the arithmetic, logic, count and compare opcodes. -/
def Obligations.IntegerResults : Prop :=
  ∀ (a b : BitVec 4) (d e : BitVec 6) (t : BitVec 4),
  let plain := wordResult (fun _ => .i32) fun _ => false
  let logic := wordResult fmtOfAB predOfAB
  let compare := wordResult (fun _ => .i32) fun _ => true
  let ofProp (p : Prop) [Decidable p] : Word := if p then 1 else 0
  Yields (.iadd a b d e t) (form 0x01 a b d e t) true (plain fun x y _ => BitVec.ofInt 32 (x.toInt + y.toInt)) ∧
  Yields (.isub a b d e t) (form 0x02 a b d e t) true (plain fun x y _ => BitVec.ofInt 32 (x.toInt - y.toInt)) ∧
  Yields (.iadds a b d e t) (form 0x03 a b d e t) true
    (plain fun x y _ => BitVec.ofInt 32 (max (-2 ^ 31) (min (x.toInt + y.toInt) (2 ^ 31 - 1)))) ∧
  Yields (.iaddus a b d e t) (form 0x04 a b d e t) true
    (plain fun x y _ => BitVec.ofNat 32 (min (x.toNat + y.toNat) 0xFFFFFFFF)) ∧
  Yields (.isubs a b d e t) (form 0x05 a b d e t) true
    (plain fun x y _ => BitVec.ofInt 32 (max (-2 ^ 31) (min (x.toInt - y.toInt) (2 ^ 31 - 1)))) ∧
  Yields (.imul a b d e t) (form 0x06 a b d e t) true (plain fun x y _ => BitVec.ofInt 32 (x.toInt * y.toInt)) ∧
  Yields (.imulh a b d e t) (form 0x07 a b d e t) true (plain fun x y _ => BitVec.ofInt 32 (x.toInt * y.toInt / 2 ^ 32)) ∧
  Yields (.imulhu a b d e t) (form 0x08 a b d e t) true (plain fun x y _ => BitVec.ofNat 32 (x.toNat * y.toNat / 2 ^ 32)) ∧
  Yields (.imad a b d e t) (form 0x09 a b d e t) true
    (plain fun x y z => BitVec.ofInt 32 (x.toInt * y.toInt + z.toInt)) ∧
  Yields (.imin a b d e t) (form 0x0E a b d e t) true (plain fun x y _ => if x.toInt ≤ y.toInt then x else y) ∧
  Yields (.imax a b d e t) (form 0x0F a b d e t) true (plain fun x y _ => if y.toInt ≤ x.toInt then x else y) ∧
  Yields (.iminu a b d e t) (form 0x10 a b d e t) true (plain fun x y _ => if x.toNat ≤ y.toNat then x else y) ∧
  Yields (.imaxu a b d e t) (form 0x11 a b d e t) true (plain fun x y _ => if y.toNat ≤ x.toNat then x else y) ∧
  Yields (.iabs a d e t) (form 0x12 a 0 d e t) true (plain fun x _ _ => BitVec.ofNat 32 x.toInt.natAbs) ∧
  Yields (.ineg a d e t) (form 0x13 a 0 d e t) true (plain fun x _ _ => BitVec.ofInt 32 (-x.toInt)) ∧
  Yields (.and a b d e t) (form 0x14 a b d e t) true (logic fun x y _ => x &&& y) ∧
  Yields (.or a b d e t) (form 0x15 a b d e t) true (logic fun x y _ => x ||| y) ∧
  Yields (.xor a b d e t) (form 0x16 a b d e t) true (logic fun x y _ => x ^^^ y) ∧
  Yields (.andn a b d e t) (form 0x17 a b d e t) true (logic fun x y _ => x &&& ~~~y) ∧
  Yields (.not a d e t) (form 0x18 a 0 d e t) true (wordResult fmtOfAlone (fun _ => false) fun x _ _ => ~~~x) ∧
  Yields (.clz a d e t) (form 0x1D a 0 d e t) true
    (plain fun x _ _ => BitVec.ofNat 32 (32 - ((List.range 33).find? fun n => x.toNat < 2 ^ n).getD 32)) ∧
  Yields (.popc a d e t) (form 0x1E a 0 d e t) true
    (plain fun x _ _ => BitVec.ofNat 32 ((List.range 32).filter fun k => x.getLsbD k).length) ∧
  Yields (.brev a d e t) (form 0x1F a 0 d e t) true (plain fun x _ _ => x.reverse) ∧
  Yields (.iseq a b d e t) (form 0x22 a b d e t) true (compare fun x y _ => ofProp (x = y)) ∧
  Yields (.isne a b d e t) (form 0x23 a b d e t) true (compare fun x y _ => ofProp (x ≠ y)) ∧
  Yields (.islt a b d e t) (form 0x24 a b d e t) true (compare fun x y _ => ofProp (x.toInt < y.toInt)) ∧
  Yields (.isle a b d e t) (form 0x25 a b d e t) true (compare fun x y _ => ofProp (x.toInt ≤ y.toInt)) ∧
  Yields (.isltu a b d e t) (form 0x26 a b d e t) true (compare fun x y _ => ofProp (x.toNat < y.toNat)) ∧
  Yields (.isleu a b d e t) (form 0x27 a b d e t) true (compare fun x y _ => ofProp (x.toNat ≤ y.toNat))

/-- R357: quotients truncate toward zero, a remainder has the sign of its dividend, and division by zero and the one
overflow give the values stated. R157 and R355: a divide keeps the divider of its element busy, unless its result mask is all zero; and
while the divider is busy a divide does not fire. -/
def Obligations.DivisionResults : Prop :=
  ∀ (a b : BitVec 4) (d e : BitVec 6) (t : BitVec 4),
  let divides (i : Instr) (op : Nat) (g : Word → Word → Word) : Prop :=
    Yields i (form op a b d e t) true (wordResult (fun _ => .i32) (fun _ => false) fun x y _ => g x y)
      (fun f s => if f.mask = 0 then s else modElem s f.el fun x => { x with divider := some (f.cfg, f.tag) }) ∧
    ∀ s h, slotInHand s = some h → (elemOf s h.el).divider.isSome = true → exec i s = .next s
  divides (.idiv a b d e t) 0x0A (fun x y =>
    if y = 0 then 0xFFFFFFFF#32 else if x = 0x80000000#32 ∧ y = 0xFFFFFFFF#32 then 0x80000000#32
    else BitVec.ofInt 32 (x.toInt.tdiv y.toInt)) ∧
  divides (.idivu a b d e t) 0x0B (fun x y => if y = 0 then 0xFFFFFFFF#32 else BitVec.ofNat 32 (x.toNat / y.toNat)) ∧
  divides (.irem a b d e t) 0x0C (fun x y =>
    if y = 0 then x else if x = 0x80000000#32 ∧ y = 0xFFFFFFFF#32 then 0
    else BitVec.ofInt 32 (x.toInt - y.toInt * x.toInt.tdiv y.toInt)) ∧
  divides (.iremu a b d e t) 0x0D (fun x y => if y = 0 then x else BitVec.ofNat 32 (x.toNat % y.toNat))

/-- R358: shifts and the rotate by k = b[4:0]. -/
def Obligations.ShiftResults : Prop :=
  ∀ (a b : BitVec 4) (d e : BitVec 6) (t : BitVec 4),
  let plain := wordResult (fun _ => .i32) fun _ => false
  let k (y : Word) : Nat := y.toNat % 32
  Yields (.shl a b d e t) (form 0x19 a b d e t) true (plain fun x y _ => BitVec.ofNat 32 (x.toNat * 2 ^ k y)) ∧
  Yields (.shr a b d e t) (form 0x1A a b d e t) true (plain fun x y _ => BitVec.ofNat 32 (x.toNat / 2 ^ k y)) ∧
  Yields (.sar a b d e t) (form 0x1B a b d e t) true (plain fun x y _ => BitVec.ofInt 32 (x.toInt / 2 ^ k y)) ∧
  Yields (.rol a b d e t) (form 0x1C a b d e t) true (plain fun x y _ =>
    if k y = 0 then x else BitVec.ofNat 32 (x.toNat * 2 ^ k y) ||| BitVec.ofNat 32 (x.toNat / 2 ^ (32 - k y)))

/-- R359: the field of b[4:0] and b[13:8], cut at bit 31, taken out and put in. -/
def Obligations.BitFieldResults : Prop :=
  ∀ (a b : BitVec 4) (d e : BitVec 6) (t : BitVec 4),
  let pos (y : Word) : Nat := y.toNat % 32
  let len (y : Word) : Nat := min (y.toNat / 2 ^ 8 % 64) (32 - pos y)
  Yields (.bfx a b d e t) (form 0x20 a b d e t) true (wordResult (fun _ => .i32) (fun _ => false) fun x y _ =>
    let f := x.toNat / 2 ^ pos y % 2 ^ len y
    if len y = 0 then 0
    else if y.getLsbD 16 = true ∧ 2 ^ (len y - 1) ≤ f then BitVec.ofInt 32 ((f : Int) - 2 ^ len y) else BitVec.ofNat 32 f) ∧
  Yields (.bfi a b d e t) (form 0x21 a b d e t) true (wordResult fmtOfAlone (fun _ => false) fun x y z =>
    let m : Word := BitVec.ofNat 32 ((2 ^ len y - 1) * 2 ^ pos y)
    (x &&& ~~~m) ||| (BitVec.ofNat 32 (z.toNat * 2 ^ pos y) &&& m))

/-! ### Float opcodes (R360 to R367) -/

/-- R365 with R363: one rounding of the exact value, counted in NANCNT and OVFCNT. -/
def Obligations.FloatArithmetic : Prop :=
  ∀ (a b m : BitVec 4) (d e : BitVec 6) (t : BitVec 4),
  let float (i : Instr) (fm : Form) (g : Nat → Nat → Nat → Nat → Rounded) :=
    Yields i fm true (floatResult false g) (floatCounts g)
  float (.fadd a b d e t) (form 0x30 a b d e t) (fun p x y _ => roundWide p (sumNums [wide p x, wide p y])) ∧
  float (.fsub a b d e t) (form 0x31 a b d e t) (fun p x y _ => roundWide p (sumNums [wide p x, negNum (wide p y)])) ∧
  float (.fmul a b d e t) (form 0x32 a b d e t) (fun p x y _ => roundWide p (mulNum (wide p x) (wide p y))) ∧
  float (.fma a b d e t) (form 0x33 a b d e t)
    (fun p x y z => roundWide p (sumNums [mulNum (wide p x) (wide p y), wide p z])) ∧
  float (.fscale a b d e t) (form 0x3C a b d e t) (fun p x y _ =>
    match wide p x with
    | .fin neg m ex => roundWide p (.fin neg m (if m = 0 then 0 else ex + signed (if p = 24 then 32 else 16) y))
    | v => roundWide p v) ∧
  float (.frnd a m d e t) (form 0x3D a m d e t) (fun p x _ _ =>
    match wide p x with
    | .fin neg n ex => roundWide p (.fin neg (roundMag m.toNat neg n ex) 0)
    | v => roundWide p v)

/-- R365: minimum, maximum, sign and compare opcodes, on the encodings of F32 and BF16. Nothing is counted. -/
def Obligations.FloatSelection : Prop :=
  ∀ (a b : BitVec 4) (d e : BitVec 6) (t : BitVec 4),
  let code (g : Nat → Nat → Nat → Nat) : Nat → Nat → Nat → Nat → Rounded := fun p x y _ => { code := g p x y }
  let nan (p x : Nat) : Bool := decide (255 * 2 ^ (p - 1) < x % 2 ^ (p + 7))
  let quiet (p : Nat) : Nat := 255 * 2 ^ (p - 1) + 2 ^ (p - 2)
  let mag (p x : Nat) : Nat := if x % 2 ^ (p + 7) < 2 ^ (p - 1) then 0 else x % 2 ^ (p + 7)
  let neg (p x : Nat) : Bool := x / 2 ^ (p + 7) % 2 == 1
  let pack (p : Nat) (n : Bool) (m : Nat) : Nat := (if n then 2 ^ (p + 7) else 0) + m
  let val (p x : Nat) : Int := if neg p x then -(mag p x : Int) else mag p x
  let below (p x y : Nat) : Bool := decide (val p x < val p y) || (val p x == val p y && (neg p x || !neg p y))
  let pick (lo : Bool) (p x y : Nat) : Nat :=
    if nan p x || nan p y then quiet p
    else if (if lo then below p x y else below p y x) then pack p (neg p x) (mag p x) else pack p (neg p y) (mag p y)
  let test (g : Nat → Nat → Nat → Bool) : Nat → Nat → Nat → Nat := fun p x y => if g p x y then 1 else 0
  let ordered (p x y : Nat) : Bool := !nan p x && !nan p y
  let float (cmp : Bool) (i : Instr) (fm : Form) (g : Nat → Nat → Nat → Nat) :=
    Yields i fm true (floatResult cmp (code g))
  float false (.fmin a b d e t) (form 0x34 a b d e t) (pick true) ∧
  float false (.fmax a b d e t) (form 0x35 a b d e t) (pick false) ∧
  float false (.fabs a d e t) (form 0x36 a 0 d e t) (fun p x _ => if nan p x then quiet p else mag p x) ∧
  float false (.fneg a d e t) (form 0x37 a 0 d e t) (fun p x _ => if nan p x then quiet p else pack p (!neg p x) (mag p x)) ∧
  float true (.fseq a b d e t) (form 0x38 a b d e t) (test fun p x y => ordered p x y && val p x == val p y) ∧
  float true (.fslt a b d e t) (form 0x39 a b d e t) (test fun p x y => ordered p x y && decide (val p x < val p y)) ∧
  float true (.fsle a b d e t) (form 0x3A a b d e t) (test fun p x y => ordered p x y && decide (val p x ≤ val p y)) ∧
  float true (.fsun a b d e t) (form 0x3B a b d e t) (test fun p x y => nan p x || nan p y)

/-- R366 with R233: the special functions go through F32, and in BF16x2 the F32 result is rounded once more. The function of
an F32 encoding is `special`, whose values the second part pins. R367: the special inputs and exact points of the six
functions, by F32 encoding. -/
def Obligations.SpecialFunctions : Prop :=
  (∀ (a : BitVec 4) (d e : BitVec 6) (t : BitVec 4),
   let elt (k : Nat) : Nat → Nat → Nat → Nat → Rounded := fun p x _ _ =>
     if p = 24 then special k x
     else
       let r := special k (x * 2 ^ 16)
       let q := roundWide 8 (f32 r.code)
       { code := q.code, nan := r.nan, ovf := r.ovf || q.ovf }
   let float (i : Instr) (fm : Form) (k : Nat) := Yields i fm true (floatResult false (elt k)) (floatCounts (elt k))
   float (.rcpe a d e t) (form 0x3E a 0 d e t) 4 ∧ float (.rsqe a d e t) (form 0x3F a 0 d e t) 5 ∧
   float (.exp2 a d e t) (form 0x40 a 0 d e t) 0 ∧ float (.log2 a d e t) (form 0x41 a 0 d e t) 1 ∧
   float (.tanh a d e t) (form 0x42 a 0 d e t) 2 ∧ float (.sigm a d e t) (form 0x43 a 0 d e t) 3) ∧
  (let inf := 0x7F800000
   let nan : Rounded := { code := 0x7FC00000 }
   let invalid : Rounded := { code := 0x7FC00000, nan := true }
   let val (c : Nat) : Rounded := { code := c }
   (∀ fn ∈ [0, 1, 2, 3, 4, 5], ∀ w, inf < w % 2 ^ 31 → w < 2 ^ 32 → special fn w = nan) ∧
   (∀ s ∈ [0, 2 ^ 31], special 4 s = val (s + inf) ∧ special 4 (s + inf) = val s ∧ special 5 s = val (s + inf) ∧
     special 1 s = val (2 ^ 31 + inf) ∧ special 2 s = val s ∧ special 2 (s + inf) = val (s + 0x3F800000)) ∧
   (∀ w, 2 ^ 31 + 2 ^ 23 ≤ w → w ≤ 2 ^ 31 + inf → special 5 w = invalid ∧ special 1 w = invalid) ∧
   special 5 inf = val 0 ∧ special 0 (2 ^ 31 + inf) = val 0 ∧ special 0 inf = val inf ∧ special 1 inf = val inf ∧
   (∀ k : Int, -126 ≤ k → k ≤ 127 →
     special 0 (roundWide 24 (.fin (k < 0) k.natAbs 0)).code = val ((k + 127).toNat * 2 ^ 23) ∧
     special 1 ((k + 127).toNat * 2 ^ 23) = val (roundWide 24 (.fin (k < 0) k.natAbs 0)).code) ∧
   (∀ w, w < inf → special 2 (2 ^ 31 + w) = { special 2 w with code := 2 ^ 31 + (special 2 w).code }) ∧
   (∀ w, 0x41200000 ≤ w → w ≤ inf → special 2 w = val 0x3F800000) ∧
   special 3 0 = val 0x3F000000 ∧ special 3 (2 ^ 31 + inf) = val 0 ∧
   (∀ w, 0x41900000 ≤ w → w ≤ inf → special 3 w = val 0x3F800000))

/-! ### Conversions (R368 to R376) -/

/-- R368 to R371, R374 and R375: the elements of A in packet order, each converted, fill result lanes and packets in order;
lanes of A with a counted element count once. R376: RETAG sends the lane words as they stand under the target format, with
the AUX word that format takes. In values: R370's rounding by mode and saturation, R371's one rounding to FP16 with its subnormals,
R374's exact product of code and scale, and R368's filling of lanes and packets. -/
def Obligations.ConversionResults : Prop :=
  (∀ (a m : BitVec 4) (d e : BitVec 6) (t : BitVec 4),
   let conv (i : Instr) (fm : Form) (ns : Firing → Nat) (nr : Nat) (fmt : Fmt) (g : Firing → Nat → Rounded) :=
     Yields i fm false
       (fun _ f => convertPackets (ns f) nr fmt none (convertLanes (ns f) (g f) f))
       fun f s => countFloat s f.el (countedLanes (·.nan) (convertLanes (ns f) (g f) f))
         (countedLanes (·.ovf) (convertLanes (ns f) (g f) f))
   let one : Firing → Nat := fun _ => 1
   let two : Firing → Nat := fun _ => 2
   conv (.cvtfi a m d e t) (form 0x50 a m d e t) one 1 .i32 (fun _ => eltToInt m.toNat) ∧
   conv (.cvtif a m d e t) (form 0x51 a m d e t) one 1 .f32 (fun _ x =>
     let v : Int := if m.getLsbD 2 then (x % 2 ^ 32 : Nat) else (BitVec.ofNat 32 x).toInt
     { code := (roundWide 24 (.fin (v < 0) v.natAbs 0)).code }) ∧
   conv (.cvtfb a d e t) (form 0x52 a 0 d e t) one 2 .bf16 (fun _ x =>
     let r := roundWide 8 (f32 x)
     if r.ovf then { code := r.code / 2 ^ 15 * 2 ^ 15 + 0x7F7F, ovf := true } else r) ∧
   conv (.cvtbf a d e t) (form 0x53 a 0 d e t) two 1 .f32 (fun _ x => roundWide 24 (bf x)) ∧
   conv (.cvtfh a d e t) (form 0x54 a 0 d e t) one 2 .i32 (fun _ => eltToFp16) ∧
   conv (.cvthf a d e t) (form 0x55 a 0 d e t) two 1 .f32 (fun _ x => roundWide 24 (valueOf fp16 x)) ∧
   conv (.dqf a d e t) (form 0x5B a 0 d e t) (fun f => perLane (fmtOfAlone f)) 1 .f32 (fun f x =>
     eltDequant (fmtOfAlone f) ((auxOfAlone f).getD 0).toNat x) ∧
   conv (.scaleof a m d e t) (form 0x5C a m d e t) one 1 .f32 (fun _ => eltScaleOf m.toNat)) ∧
  (∀ (a m : BitVec 4) (d e : BitVec 6) (t : BitVec 4),
   let w (f : Firing) : Nat := ((auxOfAlone f).getD 0).toNat
   let group (f : Firing) : Nat := if w f / 2 ^ 24 % 4 = 3 then 0 else w f / 2 ^ 24 % 4
   let zp (f : Firing) : Nat := w f / 2 ^ 16 % (if m.toNat = 7 then 16 else 256)
   m.toNat < 8 →
   Yields (.retag a m d e t) (form 0x5D a m d e t) false fun _ f =>
     oneToken (fmtOf m.toNat) false
       (if m.toNat ≤ 2 then none
        else if m.toNat ≤ 5 then some (BitVec.ofNat 32 (w f % 2 ^ 10))
        else some (BitVec.ofNat 32 (group f * 2 ^ 24 + zp f * 2 ^ 16 + w f % 2 ^ 16)))
       (eachLane f (laneOf f.a)) (laneMask f)) ∧
  (let nearest (x d n : Nat) : Prop :=
     2 * x ≤ (2 * n + 1) * d ∧ 2 * n * d ≤ 2 * x + d ∧ ((2 * x = (2 * n + 1) * d ∨ 2 * x + d = 2 * n * d) → n % 2 = 0)
   (∀ m a : Nat,
      let lo : Int := if m.testBit 2 then 0 else -2 ^ 31
      let hi : Int := if m.testBit 2 then 2 ^ 32 - 1 else 2 ^ 31 - 1
      (f32 a = .nan → eltToInt m a = { code := 0, ovf := true }) ∧
      (∀ neg, f32 a = .inf neg → eltToInt m a = { code := ((if neg then lo else hi) % 2 ^ 32).toNat, ovf := true }) ∧
      ∀ neg n e, f32 a = .fin neg n e →
        let x := n * 2 ^ e.toNat
        let d := 2 ^ (-e).toNat
        let up := (x + d - 1) / d
        ∃ k, (m % 4 = 0 → nearest x d k) ∧ (m % 4 = 1 → k = x / d) ∧ (m % 4 = 2 → k = if neg then up else x / d) ∧
          (m % 4 = 3 → k = if neg then x / d else up) ∧
          let v : Int := if neg then -k else k
          (eltToInt m a).code = (max lo (min v hi) % 2 ^ 32).toNat ∧ ((eltToInt m a).ovf = true ↔ v < lo ∨ hi < v)) ∧
   (∀ a : Nat, (f32 a = .nan → eltToFp16 a = { code := 0x7E00 }) ∧
      (∀ neg, f32 a = .inf neg → eltToFp16 a = { code := (if neg then 0x8000 else 0) + 0x7C00 }) ∧
      (∀ neg e, f32 a = .fin neg 0 e → eltToFp16 a = { code := if neg then 0x8000 else 0 }) ∧
      ∀ neg m e, f32 a = .fin neg m e → m ≠ 0 →
        let sign := if neg then 0x8000 else 0
        let q : Int := max (m.log2 + e - 10) (-24)
        ∃ k, nearest (m * 2 ^ (e - q).toNat) (2 ^ (q - e).toNat) k ∧
          let mag : Int := (q + 24) * 2 ^ 10 + k
          eltToFp16 a = if mag ≤ 0x7BFF then { code := sign + mag.toNat } else { code := sign + 0x7BFF, ovf := true }) ∧
   (∀ (fmt : Fmt) (aux c : Nat), fmt ∈ [Fmt.e4m3, .e5m2, .e2m1, .ai8, .ai4] → c < 256 →
      let zp : Nat := aux / 2 ^ 16 % (if fmt = .ai4 then 16 else 256)
      let q : Int := (c : Int) - zp
      let value : Machine.Num := match fmt with
        | .e4m3 => valueOf e4m3 c | .e5m2 => valueOf e5m2 c | .e2m1 => valueOf e2m1 c | _ => .fin (q < 0) q.natAbs 0
      let scale : Machine.Num := if fmt = .ai8 ∨ fmt = .ai4 then valueOf fp16 (aux % 2 ^ 16) else s10Value (aux % 2 ^ 10)
      let r := eltDequant fmt aux c
      ((∀ neg m e, scale ≠ .fin neg m e) → r = { code := 0x7FC00000 }) ∧
      (∀ sneg sm se, scale = .fin sneg sm se →
        (value = .nan → r = { code := 0x7FC00000 }) ∧
        (∀ neg, value = .inf neg → r = if sm = 0 then { code := 0x7FC00000, nan := true }
          else { code := if neg ≠ sneg then 0xFF800000 else 0x7F800000 }) ∧
        (∀ neg m e, value = .fin neg m e → r.nan = false ∧ r.ovf = false ∧
          (m * sm = 0 → r.code % 2 ^ 31 = 0) ∧
          (m * sm ≠ 0 → ∃ k g, f32 r.code = .fin (neg != sneg) k g ∧ ∀ z : Nat, 0 ≤ g + z → 0 ≤ e + se + z →
            k * 2 ^ (g + z).toNat = m * sm * 2 ^ (e + se + z).toNat)))) ∧
   (∀ (ns : Nat) (g : Nat → Rounded) (f : Firing), (convertLanes ns g f).length = f.count ∧ ∀ j < f.count,
      (convertLanes ns g f)[j]? = some (if f.mask.getLsbD j then
        some ((List.range ns).map fun i => g ((laneOf f.a j).toNat / 2 ^ (32 / ns * i) % 2 ^ (32 / ns))) else none)) ∧
   (∀ (ns nr : Nat) (fmt : Fmt) (aux : Option Word) (ls : List (Option (List Rounded))), 1 ≤ ns → nr ∈ [1, 2, 4, 8] →
      (∀ rs, some rs ∈ ls → rs.length = ns) →
      let total := ns * ls.length
      let elt (k : Nat) : Nat × Bool := match ls[k / ns]? with
        | some (some rs) => (((rs.map (·.code)).getD (k % ns) 0), true)
        | _ => (0, false)
      let packets := convertPackets ns nr fmt aux ls
      packets.length = (total + 8 * nr - 1) / (8 * nr) ∧ ∀ p < packets.length, ∃ t : Token, packets[p]? = some { tok := t } ∧
        t.kind = .data ∧ t.fmt = fmt ∧ t.aux = aux ∧ t.lanes.length = min 8 ((total + nr - 1) / nr - 8 * p) ∧
        ∀ l < t.lanes.length,
          let at_ (i : Nat) : Nat := nr * (8 * p + l) + i
          (t.mask.getLsbD l = true ↔ ∃ i < nr, at_ i < total ∧ (elt (at_ i)).2 = true) ∧
          ∀ i < nr, (t.lanes.getD l 0).toNat / 2 ^ (32 / nr * i) % 2 ^ (32 / nr) =
            if at_ i < total then (elt (at_ i)).1 % 2 ^ (32 / nr) else 0))

/-- R372 and R373: quantisation under the scale of B's lane 0, which the AUX word carries. R237 and R373 in the values of the
formats: an F32 element x quantised under a finite nonzero FP16 scale s and zero point zp gives clamp(rne(x / s) + zp, 0,
qmax). R238 and R375: SCALEOF gives the S10 value at or above |a| / fmax, so a QE instruction that takes it as its scale gets
that same S10 code. -/
def Obligations.QuantisationResults : Prop :=
  (∀ (a b : BitVec 4) (d e : BitVec 6) (t : BitVec 4),
   let conv (i : Instr) (fm : Form) (nr : Nat) (fmt : Fmt) (aux : Firing → Word) (g : Firing → Nat → Rounded) :=
     Yields i fm false
       (fun _ f => convertPackets 1 nr fmt (some (aux f)) (convertLanes 1 (g f) f))
       fun f s => countFloat s f.el (countedLanes (·.nan) (convertLanes 1 (g f) f))
         (countedLanes (·.ovf) (convertLanes 1 (g f) f))
   let s10 (f : Firing) : Nat := s10Of (f32 (laneOf f.b 0).toNat)
   let block (i : Instr) (op nr : Nat) (fmt : Fmt) :=
     conv i (form op a b d e t) nr fmt (fun f => BitVec.ofNat 32 (s10 f)) (fun f => eltQuant fmt (s10 f))
   let w (f : Firing) : Nat := (laneOf f.b 0).toNat
   let group (f : Firing) : Nat := if w f / 2 ^ 24 % 4 = 3 then 0 else w f / 2 ^ 24 % 4
   let affine (i : Instr) (op nr : Nat) (fmt : Fmt) (qmax zbits : Nat) :=
     conv i (form op a b d e t) nr fmt
       (fun f => BitVec.ofNat 32 (group f * 2 ^ 24 + w f / 2 ^ 16 % 2 ^ zbits * 2 ^ 16 + w f % 2 ^ 16))
       (fun f => eltQuantAi qmax (w f % 2 ^ 16) (w f / 2 ^ 16 % 2 ^ zbits))
   block (.qe4 a b d e t) 0x56 4 .e4m3 ∧ block (.qe5 a b d e t) 0x57 4 .e5m2 ∧ block (.qe2 a b d e t) 0x58 8 .e2m1 ∧
   affine (.qai8 a b d e t) 0x59 4 .ai8 255 8 ∧ affine (.qai4 a b d e t) 0x5A 8 .ai4 15 4) ∧
  (∀ (qmax scale zp a : Nat) (sneg neg : Bool) (sm m : Nat) (se e : Int),
   valueOf fp16 scale = .fin sneg sm se → sm ≠ 0 → f32 a = .fin neg m e → zp ≤ qmax →
   ∃ q : Int, (eltQuantAi qmax scale zp a).code = (max 0 (min (q + zp) qmax)).toNat ∧
     ((eltQuantAi qmax scale zp a).ovf = true ↔ q + zp < 0 ∨ (qmax : Int) < q + zp) ∧
     (let n : Int := (if neg = sneg then 1 else -1) * m * 2 ^ (e - se).toNat
      let dd : Int := sm * 2 ^ (se - e).toNat
      2 * (q * dd - n) ≤ dd ∧ 2 * (n - q * dd) ≤ dd ∧ ((2 * (q * dd - n) = dd ∨ 2 * (n - q * dd) = dd) → q % 2 = 0))) ∧
  (∀ (m a : Nat) (neg : Bool) (n : Nat) (e : Int), m < 3 → f32 a = .fin neg n e →
   let fmax := if m = 0 then 448 else if m = 1 then 57344 else 6
   s10Of (f32 (eltScaleOf m a).code) = s10RoundUp n fmax e)

/-! ### Lane moves and reductions (R378 to R383) -/

/-- R381 with R379: the lane moves of operand A, with its header. -/
def Obligations.LaneMoveResults : Prop :=
  ∀ (a b m : BitVec 4) (d e : BitVec 6) (t : BitVec 4),
  let moves (i : Instr) (fm : Form) (outs : Firing → List Out) (drop : Firing → Nat := fun _ => 0) :=
    Yields i fm false (fun _ f => outs f) fun f s => countLenDrop s f.el f.part f.tag.toNat f.slot (drop f) (floorOf f.toks)
  let one (t : Token) : List Out := [{ tok := t }]
  let bits (l : List Bool) : BitVec 8 := maskFrom l
  let lane (f : Firing) (j : Nat) : Word × Bool :=
    if f.mask.getLsbD j && decide (j < f.count) then (laneOf f.a j, true) else (0, false)
  let side (f : Firing) (o : Operand) : List (Word × Bool) :=
    match o with
    | .tok u => (List.range (lanesOf u)).map fun j => if u.mask.getLsbD j then (u.lanes.getD j 0, true) else (0, false)
    | .word w => List.replicate f.count (w, true)
  let packet (f : Firing) (l : List (Word × Bool)) : Token := withHeaderA f (l.map (·.1)) (bits (l.map (·.2)))
  m.toNat < 8 →
  moves (.vbcast a m d e t) (form 0x60 a m d e t) (fun f => one (packet f (List.replicate (m.toNat + 1) (lane f 0)))) ∧
  moves (.vlane a m d e t) (form 0x61 a m d e t) (fun f => one (packet f [lane f m.toNat])) ∧
  moves (.vins a b d e t) (form 0x62 a b d e t) (fun f =>
    let k := (laneP f 0).toNat % 8
    one (packet f ((List.range (max f.count (k + 1))).map fun j =>
      if j = k then (if maskOf f.b 0 then (laneOf f.b 0, true) else (0, false)) else lane f j))) ∧
  moves (.vmerge a b d e t) (form 0x63 a b d e t) (fun f => one (packet f ((side f f.a ++ side f f.b).take 8)))
    (fun f => (side f f.a ++ side f f.b).length - 8) ∧
  (1 ≤ m.toNat → moves (.vsplit a m d e t) (form 0x64 a m d e t) (fun f =>
    let l := (List.range f.count).map (lane f)
    { tok := packet f (l.take m.toNat), d1 := false } ::
      if m.toNat < f.count then [{ tok := packet f (l.drop m.toNat), d0 := false }] else [])) ∧
  moves (.vmask a b d e t) (form 0x65 a b d e t) (fun f =>
    one (packet f ((List.range f.count).map fun j => if (laneOf f.b 0).getLsbD j then lane f j else (0, false)))) ∧
  moves (.viota a m d e t) (form 0x6C a m d e t) (fun f =>
    one { packet f ((List.range (m.toNat + 1)).map fun j =>
      if f.mask.getLsbD 0 then (laneOf f.a 0 + BitVec.ofNat 32 j, true) else (0, false)) with fmt := .i32 })

/-- R381 (VLEN), R382 and R383: the opcodes that give one lane, or VNZ's two, about a packet. -/
def Obligations.ReductionResults : Prop :=
  ∀ (a b m : BitVec 4) (d e : BitVec 6) (t : BitVec 4),
  let live (f : Firing) : List Nat := (List.range f.count).filter fun j => f.mask.getLsbD j
  let isInt (f : Firing) : Prop := fmtOfAB f = .i32 ∧ ((∃ u, f.a = .tok u) ∨ ∃ u, f.b = .tok u)
  let elts (f : Firing) (o : Operand) : List Sys2Proof.Machine.Num :=
    (live f).flatMap fun j =>
      if firesBf16 f then [bf ((laneOf o j).toNat % 2 ^ 16), bf ((laneOf o j).toNat / 2 ^ 16)] else [f32 (laneOf o j).toNat]
  let reduces (i : Instr) (fm : Form) (r : Firing → Rounded) (intCase : Bool) : Prop :=
    ∀ s f s1 tag s2, Goes s fm true f s1 → resultTag s1 f = some (tag, s2) → (isInt f ↔ intCase = true) →
      exec i s = .next
        (let v := if live f = [] then { code := 0 } else r f
         countFloat (sent s2 f tag (oneToken (if intCase then .i32 else .f32) (predOfAlone f) none
           [BitVec.ofNat 32 v.code] (if live f = [] then 0 else 1))) f.el (ofBit v.nan) (ofBit v.ovf))
  let sum (l : List Int) : Rounded := { code := (BitVec.ofInt 32 l.sum).toNat }
  reduces (.vsum a d e t) (form 0x66 a 0 d e t) (fun f => sum ((live f).map fun j => (laneOf f.a j).toInt)) true ∧
  reduces (.vsum a d e t) (form 0x66 a 0 d e t) (fun f => roundWide 24 (sumNums (elts f f.a))) false ∧
  reduces (.vdot a b d e t) (form 0x69 a b d e t)
    (fun f => sum ((live f).map fun j => (laneOf f.a j).toInt * (laneOf f.b j).toInt)) true ∧
  reduces (.vdot a b d e t) (form 0x69 a b d e t)
    (fun f => roundWide 24 (sumNums (List.zipWith mulNum (elts f f.a) (elts f f.b)))) false ∧
  (∀ s f s1 tag s2, resultTag s1 f = some (tag, s2) → isInt f → live f ≠ [] →
    (Goes s (form 0x67 a 0 d e t) true f s1 → ∃ w : Word, (∃ j ∈ live f, w = laneOf f.a j) ∧
      (∀ j ∈ live f, (laneOf f.a j).toInt ≤ w.toInt) ∧
      exec (.vmax a d e t) s = .next (sent s2 f tag (oneToken .i32 (predOfAlone f) none [w] 1))) ∧
    (Goes s (form 0x68 a 0 d e t) true f s1 → ∃ w : Word, (∃ j ∈ live f, w = laneOf f.a j) ∧
      (∀ j ∈ live f, w.toInt ≤ (laneOf f.a j).toInt) ∧
      exec (.vmin a d e t) s = .next (sent s2 f tag (oneToken .i32 (predOfAlone f) none [w] 1)))) ∧
  (∀ s f s1 tag s2, resultTag s1 f = some (tag, s2) → ¬isInt f → live f ≠ [] →
    let p := if firesBf16 f then 8 else 24
    let picks (best : Nat → Nat → Prop) (w : Word) : Prop :=
      if ∃ c ∈ elementsIn f f.a, isNanWide p c = true then w = 0x7FC00000#32
      else ∃ c ∈ elementsIn f f.a, w = BitVec.ofNat 32 (widen f (daz p c)) ∧ ∀ c' ∈ elementsIn f f.a, best c' c
    (Goes s (form 0x67 a 0 d e t) true f s1 → ∃ w : Word, picks (fun c' c => rankWide p c' ≤ rankWide p c) w ∧
      exec (.vmax a d e t) s = .next (sent s2 f tag (oneToken .f32 (predOfAlone f) none [w] 1))) ∧
    (Goes s (form 0x68 a 0 d e t) true f s1 → ∃ w : Word, picks (fun c' c => rankWide p c ≤ rankWide p c') w ∧
      exec (.vmin a d e t) s = .next (sent s2 f tag (oneToken .f32 (predOfAlone f) none [w] 1)))) ∧
  (∀ s f s1 tag s2 u, resultTag s1 f = some (tag, s2) → f.a = .tok u →
    (Goes s (form 0x6A a 0 d e t) false f s1 → exec (.vlen a d e t) s = .next (sent s2 f tag (oneToken .i32 u.pred none
      [BitVec.ofNat 32 (u.lanes.length + 2 ^ 4 * ((List.range 8).filter fun j => u.mask.getLsbD j).length +
        2 ^ 8 * u.mask.toNat + 2 ^ 16 * fmtCode u.fmt + 2 ^ 19 * u.pred.toNat + 2 ^ 20 * u.aux.isSome.toNat)] 1))) ∧
    (Goes s (form 0x6B a m d e t) false f s1 → m.toNat ≤ 1 →
      let n := perLane u.fmt
      let zp := auxZp u.fmt ((u.aux.map (·.toNat)).getD 0)
      let nonzero (k : Nat) : Bool :=
        decide (k / n < f.count) && f.mask.getLsbD (k / n) &&
          let c := elementOf n (tokLane u (k / n)) (k % n)
          match u.fmt with
          | .i32 => c != 0
          | .ai8 => c != zp
          | .ai4 => c != zp
          | _ => c % 2 ^ (32 / n - 1) != 0
      exec (.vnz a m d e t) s = .next (sent s2 f tag
        (if m = 1 then oneToken .i32 u.pred none
            [bitsWord ((List.range 64).map nonzero) 0, bitsWord ((List.range 64).map nonzero) 32] 3
         else oneToken .i32 u.pred none [BitVec.ofNat 32 ((List.range 64).filter nonzero).length] 1))))

/-! ### Steering, reductions in SEQ order, counts and tags (R384 to R390) -/

/-- R384: the steering opcodes send A, NULL tokens, or the chosen lanes. A predicate is true when lane 0 of P is nonzero and
unmasked. -/
def Obligations.SteeringResults : Prop :=
  ∀ (a b : BitVec 4) (d e : BitVec 6) (t : BitVec 4),
  let true? (f : Firing) : Bool :=
    match f.p with
    | some p => p.mask.getLsbD 0 && p.lanes.getD 0 0 != 0
    | none => false
  Yields (.pass a d e t) (form 0x70 a 0 d e t) false (fun _ f => [{ tok := tokenA f }]) ∧
  Yields (.steer a 0 d e t) (form 0x71 a 0 d e t) false
    (fun _ f => [{ tok := tokenA f, d0 := true? f, d1 := !true? f }]) ∧
  Yields (.steer a 1 d e t) (form 0x71 a 1 d e t) false
    (fun _ f => [{ tok := tokenA f, d0 := true? f, d1 := !true? f }, { tok := nullTokenA f, d0 := !true? f, d1 := true? f }]) ∧
  Yields (.sel a b d e t) (form 0x72 a b d e t) true (fun _ f =>
    let side (j : Nat) : Operand := if laneP f j ≠ 0 then f.a else f.b
    oneToken (fmtOfAB f) false none
      ((List.range f.count).map fun j => if maskOf (side j) j then laneOf (side j) j else 0)
      (maskFrom ((List.range f.count).map fun j => maskOf (side j) j))) ∧
  Yields (.gate a 0 d e t) (form 0x73 a 0 d e t) false (fun _ f => if true? f then [{ tok := tokenA f }] else []) ∧
  Yields (.gate a 1 d e t) (form 0x73 a 1 d e t) false
    (fun _ f => [{ tok := if true? f then tokenA f else nullTokenA f }])

/-- R385: MERGE sends on the one token it takes, with only the header that the tag action changes: the token of the field
that holds one, or of two the one it did not last take. In stream mode an EOS stops its field, and when both fields hold one,
one EOS goes out and the slot's tag is released. B's lane 0 for TAGB is a free value where L is taken (log entry 4). -/
def Obligations.MergeResults : Prop :=
  ∀ (d e : BitVec 6) (t : BitVec 4) (s : State) (h : Slot),
  let fm := form 0x74 0 1 d e t
  let me := key16 h.v h.slot
  let field (k : Nat) : Option Token := tokenIn h.part h.slot k
  let passing (k : Nat) : Option Token :=
    match field k with
    | some x => if h.stream ∧ x.kind = .eos then none else some x
    | none => none
  let last := (elemOf s h.el).mergeL.contains me
  let taken : Option (Nat × Token) :=
    match passing 0, passing 1 with
    | some l, none => some (0, l)
    | none, some r => some (1, r)
    | some l, some r => some (if last then (1, r) else (0, l))
    | none, none => none
  slotInHand s = some h → roomFor s h.el h.v fm = true → unheld s (cfgPart h.cfg) = true →
  (∀ k tok, taken = some (k, tok) → tok.poison = false →
    let s0 : State := if t = 9 then { s with moment := s.moment + 1 } else s
    let s1 := consume s0 h 0x74 [k] [] tok.floor
    let s2 := modElem s1 h.el fun x =>
      { x with mergeL := if k = 0 then me :: x.mergeL.filter (· != me) else x.mergeL.filter (· != me) }
    let f : Firing :=
      { firingOf s h fm [(k, tok)] tok tok.lanes.length tok.mask false with
        a := .tok tok, b := if k = 1 then .tok tok else .word (Config.mergeTag (if t = 9 then s.moment else 0)) }
    ∀ tag s3, resultTag s2 f = some (tag, s3) → exec (.merge d e t) s = .next (sent s3 f tag [{ tok := tok }])) ∧
  (∀ l r, h.stream = true → field 0 = some l → field 1 = some r → l.kind = .eos → r.kind = .eos →
    let s2 := endStream (consume s h 0x74 [0, 1] [] (floorOf [l, r])) h
    let f := firingOf s h fm [(0, l), (1, r)] l 0 0 false
    ∀ tag s3, resultTag s2 f = some (tag, s3) →
      exec (.merge d e t) s = .next (sent s3 f tag [{ tok := { kind := .eos, fmt := l.fmt } }]))

/-- R386: a term of RADD or RMAX whose SEQ is the one expected. Term 0 is taken as it is, with subnormals read
as zero; each later one is combined lane by lane, masked lanes adding nothing; a NULL term adds nothing, and lanes beyond the LEN of
term 0 are dropped and counted. Term N − 1 completes
the sum: B is consumed, the tag action applies and the result goes out with SEQ 0; before that the running value and the
next expected SEQ stay in field P. Then a stored term whose turn has come enters field L. -/
def Obligations.OrderedReductionResults : Prop :=
  ∀ (b : BitVec 4) (d e : BitVec 6) (t : BitVec 4) (s : State) (h : Slot) (tok btok : Token) (isMax : Bool),
  let i : Instr := if isMax then .rmax b d e t else .radd b d e t
  let fm := form (if isMax then 0x76 else 0x75) 0 b d e t
  let combine (fmt : Fmt) (u v : Word) : LaneResult :=
    match fmt with
    | .i32 => ⟨if isMax then (if v.toInt ≤ u.toInt then u else v) else u + v, false, false⟩
    | fmt => floatLane (if isMax then eltMax else eltAdd) (fmt == .bf16) u v 0
  slotInHand s = some h → roomFor s h.el h.v fm = true → unheld s (cfgPart h.cfg) = true →
  tokenIn h.part h.slot 0 = some tok → tok.poison = false →
  (b = 1 → tokenIn h.part h.slot 1 = some btok ∧ btok.poison = false) →
  let sum := openSum h.part h.slot
  let next := expectedSeq h.part h.slot
  tok.seq = next →
  let reads := if b = 1 then [(0, tok), (1, btok)] else [(0, tok)]
  let f := firingOf s h fm reads tok tok.lanes.length tok.mask false
  let acc : Token :=
    match sum with
    | some (v, _, _) => v
    | none => { fmt := sumFmt tok, lanes := List.replicate tok.lanes.length 0 }
  let seen : Bool := match sum with | some (_, _, dt) => dt | none => false
  let isNull : Bool := tok.kind == .null
  let first : Bool := sum.isNone
  let n := acc.lanes.length
  let lane (j : Nat) : LaneResult :=
    if isNull || !tok.mask.getLsbD j || decide (tok.lanes.length ≤ j) then ⟨acc.lanes.getD j 0, false, false⟩
    else if first then ⟨firstLane acc.fmt (tok.lanes.getD j 0), false, false⟩
    else combine acc.fmt (acc.lanes.getD j 0) (tok.lanes.getD j 0)
  let acc' : Token :=
    { acc with
      lanes := if isNull then acc.lanes else (List.range n).map fun j => (lane j).word
      mask := if isNull then acc.mask else acc.mask ||| (tok.mask &&& lowMask n)
      floor := if acc.floor.toNat < tok.floor.toNat then tok.floor else acc.floor }
  let data := seen || !isNull
  let lost := tok.lanes.length - n
  let counted (s : State) : State :=
    countLenDrop (countFloat s h.el ((List.range n).filter fun j => (lane j).nan).length
      ((List.range n).filter fun j => (lane j).ovf).length) h.el f.part f.tag.toNat h.slot lost acc'.floor
  let put (s : State) (x : Option FieldVal) : State :=
    modElem s h.el fun el => modPartOf el h.cfg h.tag fun p => putField p h.slot 2 x
  let terms := let k := (laneOf f.b 0).toNat % 4096; if k = 0 then 4096 else k
  (next.toNat + 1 ≠ terms →
    exec i s = .next (releaseTerm (counted (put (consume s h fm.op [0] [] (floorOf (reads.map (·.2))))
      (some (.acc acc' (next + 1) data)))) h)) ∧
  (next.toNat + 1 = terms →
    let s2 := put (consume s h fm.op (if b = 1 then [0, 1] else [0]) [] (floorOf (reads.map (·.2)))) none
    let f' : Firing := { f with toks := acc' :: f.toks }
    let res : Token :=
      if data then dataTok acc'.lanes acc'.mask acc'.fmt (predOfAlone f) none
      else { kind := .null, fmt := acc'.fmt, lanes := List.replicate n 0, mask := 0, pred := predOfAlone f,
             aux := if 3 ≤ fmtCode acc'.fmt then some 0 else none }
    ∀ tag s3, resultTag s2 f' = some (tag, s3) →
      exec i s = .next (releaseTerm (reopenPart (counted (sent s3 f' tag [{ tok := res, seq := some 0 }])) h) h))

/-- R388 to R390: COUNT, EOSQ, EOSG and SINK take one token of any kind that their slot accepts. In stream mode an EOS
releases the slot's tag, but at SINK, which ignores STRM; there EOSG sends on the EOS that arrives and no other. R390: TAGOF, FREE and
CONST. FREE frees the tag in lane 0 of A when
it is allocated, is no root tag and belongs to the firing's activation. -/
def Obligations.TagAndCountResults : Prop :=
  (∀ (a m : BitVec 4) (d e : BitVec 6) (t : BitVec 4) (s : State) (h : Slot) (tok : Token),
   let on : Out := { tok := tok, d1 := false }
   let eos : Bool := tok.kind == .eos
   let k := if a.toNat ≤ 2 then a.toNat else 0
   let takes (i : Instr) (fm : Form) (k : Nat) (stream : Bool) (after : State → Firing → State)
       (outs : State → Firing → List Out) : Prop :=
     slotInHand s = some h → roomFor s h.el h.v fm = true → unheld s (cfgPart h.cfg) = true →
     tokenIn h.part h.slot k = some tok → tok.poison = false →
     let s1 := consume s h fm.op [k] [] tok.floor
     let s2 := if stream && eos then endStream s1 h else s1
     let f := firingOf s h fm [(k, tok)] tok tok.lanes.length tok.mask false
     ∀ tag s3, resultTag (after s2 f) f = some (tag, s3) → exec i s = .next (sent s3 f tag (outs s f))
   let here (s : State) (f : Firing) : Word :=
     match (findPart (elemOf s f.el) f.cfg f.tag).bind (fieldOf · f.slot 1) with
     | some (.count c) => c
     | _ => 0
   m.toNat ≤ 1 →
   takes (.count m d e t) (form 0x77 0 m d e t) 0 h.stream
     (fun s2 f => modElem s2 f.el fun x => modPartOf x f.cfg f.tag fun p => putField p f.slot 1
       (match tok.kind with
        | .eos => none
        | .null => some (.count (here s2 f))
        | _ => some (.count (satAdd (here s2 f)
            (if m = 1 then ((List.range 8).filter fun j => tok.mask.getLsbD j).length else 1)))))
     (fun s f => if eos then [{ tok := dataTok [here s f] 1 .i32, d0 := false, seq := some 0 }, on] else [on]) ∧
   takes (.eosq a d e t) (form 0x78 a 0 d e t) k h.stream (fun s2 _ => s2)
     (fun _ _ => [on, { tok := dataTok [if eos then 1 else 0] 1 .i32 true, d0 := false }]) ∧
   takes (.eosg a d e t) (form 0x79 a 0 d e t) k h.stream (fun s2 _ => s2)
     (fun _ _ => if h.stream = true ∧ tok.kind ≠ .eos then [] else [{ tok := { kind := .eos, fmt := tok.fmt } }]) ∧
   takes (.sink a t) (form 0x7C a 0 0 0 t) k false (fun s2 _ => s2) (fun _ _ => [])) ∧
  (∀ (a m : BitVec 4) (d e : BitVec 6) (t : BitVec 4),
   let bit (p : Bool) : Word := if p then 1 else 0
   let named (f : Firing) : Tag := (laneOf f.a 0).setWidth 16
   let freed (s : State) (f : Firing) : Bool :=
     let i := tagInfo s f.part (named f)
     f.mask.getLsbD 0 && i.alloc && (ownerOf s f.part (named f)).isSome && i.root == (tagInfo s f.part f.tag).root &&
       i.root != some (named f)
   Yields (.tagof a d e t) (form 0x7A a 0 d e t) false (fun s f =>
     let i := tagInfo s f.part f.tag
     let owned : Bool := i.alloc && (ownerOf s f.part f.tag).isSome
     oneToken .i32 (predOfAlone f) none
       [f.tag.setWidth 32, f.head.seq.setWidth 32, BitVec.ofNat 32 f.part, bit f.head.v,
        (if owned then i.link else f.tag).setWidth 32, (if owned then i.head else f.tag).setWidth 32] 0x3F) ∧
   (∀ s f s1 tag s2, Goes s (form 0x7B a 0 d e t) false f s1 → resultTag s1 f = some (tag, s2) →
     let out := sent s2 f tag (oneToken .i32 (predOfAlone f) none [bit (freed s1 f)] 1)
     exec (.free a d e t) s = .next (if freed s1 f then freeTag out f.part (named f) (floorOf f.toks) else out)) ∧
   Yields (.const a m d e t) (form 0x7D a m d e t) false (fun _ f =>
     oneToken (if m.getLsbD 3 then .f32 else .i32) false none (List.replicate (m.toNat % 8 + 1) (laneOf f.a 0))
       (lowMask (m.toNat % 8 + 1))))

/-! ### Memory opcodes (R392 to R402) -/

/-- R185 and R397: LDL reads n words of the element's local data from the word that lane 0 of A names, wrapping after word
16,383; STL writes those of P's lanes whose mask bit is set and answers with their number. R186 to R190: an LDC that performs reads the
words of the cluster address space from lane 0's on, those in SCRATCH banks as they are; words in CACHE and spill banks and of cores 24
to 30 read zero with mask bit 0 and count in SCRMISS; lane 0 of core 31 reads a bank's control word; a word of a region that is not the
partition's faults PERM. An STC writes the words in SCRATCH banks and no other; to a control word it switches the bank, which is cleared.
An LDC of a FIFO bank takes its oldest entry whole, and an STC to one appends its packet, which waits while the bank is full. -/
def Obligations.LocalDataResults : Prop :=
  ∀ (a m : BitVec 4) (d e : BitVec 6) (t : BitVec 4),
  let word (f : Firing) (j : Nat) : Nat := ((laneOf f.a 0).toNat / 4 + j) % 16384
  let n := m.toNat % 8 + 1
  Yields (.ldl a m d e t) (form 0x80 a m d e t) false (fun s f =>
    [{ tok := { kind := .data, fmt := if m.getLsbD 3 then .f32 else .i32
                lanes := (List.range n).map fun j => lookup 0 (elemOf s f.el).localMem (word f j), mask := lowMask n
                poison := (List.range n).any fun j => (elemOf s f.el).localPoison.contains (word f j / 16) } }]) ∧
  (∀ s f s1 tag s2 p, Goes s (form 0x81 a 0 d e t) false f s1 → resultTag s1 f = some (tag, s2) → f.p = some p →
    p.lanes.length ≤ 8 →
    let on (j : Nat) : Bool := p.mask.getLsbD j && decide (j < p.lanes.length)
    ∃ u, exec (.stl a d e t) s = .next u ∧
      u = modElem (sent s2 f tag (oneToken .i32 false none [BitVec.ofNat 32 ((List.range 8).filter on).length] 1)) f.el
        (fun x => { x with localMem := (elemOf u f.el).localMem }) ∧
      (∀ j, on j = true → lookup 0 (elemOf u f.el).localMem (word f j) = p.lanes.getD j 0) ∧
      (∀ w, (∀ j, on j = true → word f j ≠ w) →
        lookup 0 (elemOf u f.el).localMem w = lookup 0 (elemOf s2 f.el).localMem w)) ∧
  (∀ (s : State) (k : Nat) (r : MemReq),
   let part := cfgPart r.cfg
   let cl := elemCluster r.el
   let at_ (j : Nat) : Nat := (tokLane r.a 0).toNat / 4 + j
   let answers (t : State) (miss : Nat) (lanes : List (Option Word)) (fmt : Fmt) (poison : Bool) : State :=
     answerRequest (bump t r.el .scrMiss miss) k r (answered r
       { kind := .data, fmt := fmt, lanes := lanes.map (·.getD 0), mask := maskFrom (lanes.map (·.isSome)), poison := poison })
   let ack (n : Nat) : Token := answered r { kind := .data, fmt := .i32, lanes := [BitVec.ofNat 32 n], mask := 1 }
   let perm : State := elemFault { s with reqs := dropAt s.reqs k } r.el r.v r.slot part r.hdr.tag 0x11
   let control (w : Nat) : Prop := (scrAt w).1 = 31
   let missing (w : Nat) : Prop := (24 ≤ (scrAt w).1 ∧ (scrAt w).1 ≤ 30) ∨ InBank s part cl w .cache ∨
     ((scrAt w).1 < 24 ∧ holdsCore s part cl (scrAt w).1 = true ∧ spillBank (scrAt w).1 (scrAt w).2.1 = true)
   (AtPort s k r 0x82 →
     let n := r.bsel.toNat % 8 + 1
     let fmt : Fmt := if r.bsel.getLsbD 3 then .f32 else .i32
     (∀ lane : Nat → Bool, (∀ j < n, if lane j = true then InBank s part cl (at_ j) .scratch else missing (at_ j)) →
       exec (.memoryResponse k) s = .next (answers s ((List.range n).filter fun j => !lane j).length
         ((List.range n).map fun j => if lane j then some (scrValue s cl (at_ j)) else none) fmt
         ((List.range n).any fun j => lane j && scrPoisoned s cl (scrAt (at_ j)).1 (scrAt (at_ j)).2.1 (scrAt (at_ j)).2.2))) ∧
     ((∃ j < n, Foreign s part cl (at_ j)) → ¬ InBank s part cl (at_ 0) .fifo → exec (.memoryResponse k) s = .next perm) ∧
     (∀ c, (∀ j < n, control (at_ j)) → (scrAt (at_ 0)).2.1 = c →
       let others : List (Option Word) := List.replicate (n - 1) none
       exec (.memoryResponse k) s = .next
         (if 24 ≤ c then answers s n (none :: others) fmt false
          else
            let b := bankOf s cl c (at_ 0 % 32)
            let mode := match b.mode with | .cache => 0 | .scratch => 1 | .fifo => 2
            answers s (n - 1) (some (BitVec.ofNat 32 (mode + if b.mode = .fifo then 8 * b.entries.length else 0)) :: others) fmt false)) ∧
     (InBank s part cl (at_ 0) .fifo →
       let b := bankOf s cl (scrAt (at_ 0)).1 (scrAt (at_ 0)).2.1
       (b.entries = [] → exec (.memoryResponse k) s = .next s) ∧
       ∀ e rest, b.entries = e :: rest → ∃ t s', exec (.memoryResponse k) s = .next t ∧
         t = answerRequest s' k r { answered r e with v := e.v, floor := laterFloor e.floor r.hdr.floor } ∧
         (bankOf t cl (scrAt (at_ 0)).1 (scrAt (at_ 0)).2.1).entries = rest)) ∧
   (∀ p, AtPort s k r 0x83 → r.p = some p → p.lanes.length ≤ 8 →
     let on (j : Nat) : Prop := p.mask.getLsbD j = true ∧ j < p.lanes.length
     (∀ lane : Nat → Bool, (∀ j, on j → if lane j = true then InBank s part cl (at_ j) .scratch else missing (at_ j)) →
       ¬ InBank s part cl (at_ 0) .fifo →
       let stored := (List.range p.lanes.length).filter fun j => p.mask.getLsbD j && lane j
       let lost := (List.range p.lanes.length).filter fun j => p.mask.getLsbD j && !lane j
       ∃ t s', exec (.memoryResponse k) s = .next t ∧ t = answerRequest (bump s' r.el .scrMiss lost.length) k r (ack stored.length) ∧
         t.mem = s.mem ∧ t.hostMem = s.hostMem ∧ (∀ j ∈ stored, scrValue t cl (at_ j) = p.lanes.getD j 0) ∧
         ∀ cl' c b i, c < 24 → (∀ j ∈ stored, (cl', c, b, i) ≠ (cl, scrAt (at_ j))) → scrWord t cl' c b i = scrWord s cl' c b i) ∧
     ((∃ j, on j ∧ Foreign s part cl (at_ j)) → ¬ InBank s part cl (at_ 0) .fifo → exec (.memoryResponse k) s = .next perm) ∧
     (∀ c b m, (∀ j, on j → control (at_ j)) → (scrAt (at_ 0)).2.1 = c → at_ 0 % 32 = b → on 0 →
       m = (p.lanes.getD 0 0).toNat % 4 → c < 24 →
       let others := ((List.range p.lanes.length).filter fun j => p.mask.getLsbD j).length - 1
       let mode : BankMode := if m = 0 then .cache else if m = 1 then .scratch else .fifo
       let old := bankOf s cl c b
       (holdsCore s part cl c = false → exec (.memoryResponse k) s = .next perm) ∧
       (holdsCore s part cl c = true → m = 3 ∨ spillBank c b = true →
         exec (.memoryResponse k) s = .next (answerRequest (bump s r.el .scrMiss (others + 1)) k r (ack 0))) ∧
       (holdsCore s part cl c = true → m ≠ 3 → spillBank c b = false → old.mode = mode →
         exec (.memoryResponse k) s = .next (answerRequest (bump s r.el .scrMiss others) k r (ack 1))) ∧
       (holdsCore s part cl c = true → m ≠ 3 → spillBank c b = false → old.mode ≠ mode →
         ∃ t s', exec (.memoryResponse k) s = .next t ∧ t = answerRequest (bump s' r.el .scrMiss (others + old.entries.length)) k r (ack 1) ∧
           bankOf t cl c b = { mode := mode, emptyAt := s.dev.uptime } ∧
           (∀ l ∈ (regionOf t (coreRegion cl c)).lines, ¬ (l.2.core = c ∧ l.2.bank = b)) ∧
           ∀ c' b', (c', b') ≠ (c, b) → (bankOf t cl c' b').mode = (bankOf s cl c' b').mode)) ∧
     (InBank s part cl (at_ 0) .fifo →
       let b := bankOf s cl (scrAt (at_ 0)).1 (scrAt (at_ 0)).2.1
       (2730 ≤ b.entries.length → exec (.memoryResponse k) s = .next s) ∧
       (b.entries.length < 2730 → ∃ t s', exec (.memoryResponse k) s = .next t ∧ t = answerRequest s' k r (ack p.lanes.length) ∧
         (bankOf t cl (scrAt (at_ 0)).1 (scrAt (at_ 0)).2.1).entries = b.entries ++ [p]))))

/-- R392 to R395: a memory opcode sends its request to the port that D1 names, through a record with the rights that the
opcode needs. R190 and R411: an LDC of an empty FIFO bank, or an STC to a full one, stays unfired. R195 and R201: a record word that
names no record, or one without the right that the opcode needs, faults PERM, and no request is sent. -/
def Obligations.MemoryRequests : Prop :=
  (∀ (a b m : BitVec 4) (d e : BitVec 6) (t : BitVec 4),
   let word (f : Firing) : Word := laneOf f.b 0
   let scratch (f : Firing) : Prop := (word f).getLsbD 31 = true
   let atomic (s : State) (f : Firing) : Prop := scratch f ∨ HasRights [2] s f
   let beyondW (f : Firing) (s1 u : State) : State :=
     match recordNamed s1 f with
     | some r => countLenDrop u f.el f.part f.tag.toNat f.slot ((match f.p with | some p => p.lanes.length | none => 0) - r.w) (floorOf f.toks)
     | none => u
   let bankReady (s : State) (f : Firing) : Prop := fifoWaits s f = false
   Requests (.ldc a m d e t) (form 0x82 a m d e t) bankReady (fun _ => m.setWidth 32) ∧
   Requests (.stc a d e t) (form 0x83 a 0 d e t) bankReady (fun _ => 0) ∧
   (∀ s f s1, fifoWaits s1 f = true → (Goes s (form 0x82 a m d e t) false f s1 → exec (.ldc a m d e t) s = .next s) ∧
     (Goes s (form 0x83 a 0 d e t) false f s1 → exec (.stc a d e t) s = .next s)) ∧
   Requests (.ldg a b d e t) (form 0x84 a b d e t) (HasRights [0]) word ∧
   Requests (.stg a b d e t) (form 0x85 a b d e t) (HasRights [1]) word beyondW ∧
   Requests (.atadd a b d e t) (form 0x86 a b d e t) atomic word ∧
   Requests (.atmin a b d e t) (form 0x87 a b d e t) atomic word ∧
   Requests (.atmax a b d e t) (form 0x88 a b d e t) atomic word ∧
   Requests (.atand a b d e t) (form 0x89 a b d e t) atomic word ∧
   Requests (.ator a b d e t) (form 0x8A a b d e t) atomic word ∧
   Requests (.atxor a b d e t) (form 0x8B a b d e t) atomic word ∧
   Requests (.atxch a b d e t) (form 0x8C a b d e t) atomic word ∧
   Requests (.atcas a b d e t) (form 0x8D a b d e t) atomic word ∧
   Requests (.ticket a b d e t) (form 0x8E a b d e t) (HasRights [2]) word ∧
   Requests (.append a b d e t) (form 0x8F a b d e t) (HasRights [1, 2]) word beyondW ∧
   Requests (.prefg a b d e t) (form 0x90 a b d e t) (HasRights [0]) word) ∧
  (∀ (a b : BitVec 4) (d e : BitVec 6) (t : BitVec 4) (s : State) (f : Firing) (s1 : State),
   let perm : State := elemFault (modElem s1 f.el fun x => dropEmpty x f.cfg f.tag) f.el f.v f.slot f.part f.tag 0x11
   let traps (i : Instr) (op : Nat) (rights : List Nat) : Prop :=
     Goes s (form op a b d e t) false f s1 → ¬ HasRights rights s1 f → exec i s = .next perm
   traps (.ldg a b d e t) 0x84 [0] ∧ traps (.stg a b d e t) 0x85 [1] ∧ traps (.ticket a b d e t) 0x8E [2] ∧
   traps (.append a b d e t) 0x8F [1, 2] ∧ traps (.prefg a b d e t) 0x90 [0] ∧
   ((laneOf f.b 0).getLsbD 31 = false → traps (.atadd a b d e t) 0x86 [2] ∧ traps (.atcas a b d e t) 0x8D [2]))

/-- R187, R194, R201, R205, R395 and R398: when LDG's request `k` performs, at a port of a region its partition holds and behind no
earlier access to what it touches, through a record of FMT 0 to 2 whose lanes translate, its answer holds the words in bounds as
the region's ports see them (`u` is the state once its caches hold the lines it fills), with zero and mask bit 0 for the others, which
count in OOBCNT. Through a record of SPACE 0 no byte of memory changes but by the writes to the host that the read comes after; and
where there are none, the region's caches hold nothing and the port's core has no CACHE bank, the words seen are those of memory.
R196 and R402: PREFG declares a window of the length in lane 4 of A, rounded and clamped, where its die has room for it; it answers 1 when
one was declared, 0 when not, and declares none through a record of SPACE 1 or 2. -/
def Obligations.LoadResponse : Prop :=
  (∀ (s : State) (k : Nat) (r : MemReq) (rc : Rec) (ps : List LanePlace),
  let idx := r.bsel.toNat % 4096
  let c := coordOf rc r.a
  s.reqs[k]? = some r → r.op = 0x84 → r.parked = none → (s.reqs.take k).any (behind s · r) = false →
  holder s r.region = cfgPart r.cfg → recOf s r.cfg idx = some rc → fmtCode rc.fmt ≤ 2 → r.begun = none → r.early = [] →
  lanePlaces s (elemDie r.el) r.cfg rc c .read (List.range rc.w) = .ok ps → linkWaits s ps = false →
  let u := touchLines s r rc (ps, none)
  let lanes := ps.map fun p => match p.2 with | some q => (seenWord u r.region q).1 | none => 0
  let mask := BitVec.ofNat 8 ((ps.map fun p => ofBit p.2.isSome * 2 ^ p.1).sum)
  let tok : Token :=
    { kind := .data, fmt := rc.fmt, lanes := maskLanes mask lanes, mask := mask &&& lowMask lanes.length, tag := r.hdr.tag,
      seq := r.hdr.seq, ctx := r.hdr.ctx, v := r.hdr.v, floor := r.hdr.floor,
      poison := ps.any fun p => match p.2 with | some q => (seenWord u r.region q).2 | none => false }
  let s' := consumeWindows (countOob u r.cfg idx (ps.filter (·.2.isNone)).length) (elemDie r.el) (cfgPart r.cfg)
    (windowAddrs rc c (List.range rc.w))
  ∃ t, exec (.memoryResponse k) s = .next t ∧ t = answerRequest s' k r tok ∧
    (rc.space = 0 → SameBut s t (onItsWay s (hostFirst r.region)) ∧
      (s.posted.any (hostFirst r.region) = false → t.mem = s.mem ∧ t.hostMem = s.hostMem)) ∧
    (rc.space = 0 → s.posted.any (hostFirst r.region) = false → (regionOf s r.region).lines = [] →
      waysOf s (coreId (r.region / 4) (portCore r.region r.port)) = [] →
      u = s ∧ ∀ q, seenWord u r.region q = (loadWord s q, poisoned s q))) ∧
  (∀ (s : State) (k : Nat) (r : MemReq) (rc : Rec),
   let mine := s.dev.windows.filter fun w => w.die == elemDie r.el
   let len := (tokLane r.a 4).toNat
   let n := max (2 ^ 16) (min ((len + 2 ^ 16 - 1) / 2 ^ 16 * 2 ^ 16) (2 ^ 26))
   let w : Window := { die := elemDie r.el, part := cfgPart r.cfg, base := (laneAddress rc (coordOf rc r.a) 0).2, bytes := n, left := n }
   let answer (v : Word) : Token := answered r { kind := .data, fmt := .i32, lanes := [v], mask := 1 }
   let room : Prop := mine.length < 1024 ∧ (mine.map (·.bytes)).sum + n ≤ 2 ^ 27
   AtPort s k r 0x90 → recOf s r.cfg (r.bsel.toNat % 4096) = some rc →
   (rc.space ≠ 0 → exec (.memoryResponse k) s = .next (answerRequest s k r (answer 0))) ∧
   (rc.space = 0 → room → exec (.memoryResponse k) s = .next
     (answerRequest (modDev s fun d => { d with windows := d.windows ++ [w] }) k r (answer 1))) ∧
   (rc.space = 0 → ¬ room → exec (.memoryResponse k) s = .next
     (answerRequest (modDev s fun d => { d with uncached := d.uncached + 1 }) k r (answer 0))))

/-- R187, R194, R195, R201, R205, R206 and R398: when STG's request `k` performs through a record of FMT 0 to 2 whose format P
has, P's unmasked lanes below W are stored at the places their addresses translate to, lanes out of bounds count in OOBCNT, and the
acknowledgement holds the number stored. Through SPACE 0 the region's ports see each word stored, and every byte of memory outside
those words keeps its value, but for the writes to the host that a store there comes after; where the region's caches hold nothing and
the port's core has no CACHE bank, the words are in memory. Through SPACE 1 and 2 the words go to the host port, which has accepted
them. R401: APPEND stores the row of its record's ticket so, past the caches, answers with the ticket and takes it. -/
def Obligations.StoreResponse : Prop :=
  (∀ (s : State) (k : Nat) (r : MemReq) (rc : Rec) (p : Token) (ps : List LanePlace),
  let idx := r.bsel.toNat % 4096
  let c := coordOf rc r.a
  s.reqs[k]? = some r → r.op = 0x85 → r.p = some p → r.parked = none → (s.reqs.take k).any (behind s · r) = false →
  holder s r.region = cfgPart r.cfg → recOf s r.cfg idx = some rc → fmtCode rc.fmt ≤ 2 → p.fmt = rc.fmt →
  r.begun = none → r.early = [] →
  lanePlaces s (elemDie r.el) r.cfg rc c .write ((List.range (min rc.w p.lanes.length)).filter fun j => p.mask.getLsbD j) = .ok ps →
  linkWaits s ps = false →
  let stored (host : Bool) (x : Nat) : Prop := ∃ q ∈ ps, ∃ p, q.2 = some p ∧ Within p host x
  let apart (j : Nat) (q : Place) : Prop :=
    ∀ j' q', (j', some q') ∈ ps → j' ≠ j → q'.host = q.host → q'.addr + 4 ≤ q.addr ∨ q.addr + 4 ≤ q'.addr
  let uncached : Prop := (regionOf s r.region).lines = [] ∧ waysOf s (coreId (r.region / 4) (portCore r.region r.port)) = []
  ∃ t s', exec (.memoryResponse k) s = .next t ∧
    t = answerRequest s' k r
      { kind := .data, fmt := .i32, lanes := [BitVec.ofNat 32 (ps.filter (·.2.isSome)).length], mask := 1, tag := r.hdr.tag,
        seq := r.hdr.seq, ctx := r.hdr.ctx, v := r.hdr.v, floor := r.hdr.floor } ∧
    (∃ q, recOf t r.cfg idx = some q ∧ q = { rc with
      oobcnt := BitVec.ofNat 32 (min 0xFFFFFFFF (rc.oobcnt.toNat + (ps.filter (·.2.isNone)).length)) }) ∧
    (rc.space = 0 →
      SameBut s t (fun host x => stored host x ∨ onItsWay s (hostFirst r.region) host x) ∧
      (s.memOk = true → ∀ j q, (j, some q) ∈ ps → (q.host = true ∨ lostAt s q.addr = false) → apart j q →
        (q.host = true ∨ ∀ i < 4, ¬ onItsWay s (hostFirst r.region) false (q.addr + i)) →
        (seenWord t r.region q).1 = p.lanes.getD j 0 ∧ (uncached → loadWord t q = p.lanes.getD j 0))) ∧
    (rc.space ≠ 0 → ps.any (·.2.isSome) = true → t.posted.getLast? = some
      { owner := r.ident, port := true, part := cfgPart r.cfg, queue := (regionOf s r.region).queue, region := r.region
        writes := ps.filterMap fun q => q.2.map fun x => (.mem x, p.lanes.getD q.1 0) }) ∧
    (s.posted.any (hostFirst r.region) = false → t.cores = s.cores) ∧ t.tlb = s.tlb) ∧
  (∀ (s : State) (k : Nat) (r : MemReq) (rc : Rec) (p : Token) (ps : List LanePlace),
   let idx := r.bsel.toNat % 4096
   let c := clipCoord rc ((rc.ticket.toNat * rc.w) :: ((List.range 3).map fun d => (tokLane r.a (d + 1)).toNat))
   let stored (host : Bool) (x : Nat) : Prop := ∃ q ∈ ps, ∃ p, q.2 = some p ∧ Within p host x
   let first := hostFirst r.region
   AtPort s k r 0x8F → r.p = some p → recOf s r.cfg idx = some rc → fmtCode rc.fmt ≤ 2 → p.fmt = rc.fmt →
   lanePlaces s (elemDie r.el) r.cfg rc c .write ((List.range (min rc.w p.lanes.length)).filter fun j => p.mask.getLsbD j) = .ok ps →
   linkWaits s ps = false →
   ∃ t s', exec (.memoryResponse k) s = .next t ∧
     t = answerRequest s' k r (answered r { kind := .data, fmt := .i32, lanes := [rc.ticket], mask := 1 }) ∧
     (∃ q, recOf t r.cfg idx = some q ∧ q = { rc with
       ticket := rc.ticket + 1
       oobcnt := BitVec.ofNat 32 (min 0xFFFFFFFF (rc.oobcnt.toNat + (ps.filter (·.2.isNone)).length)) }) ∧
     SameBut s t (fun host x => stored host x ∨ cachedAt s r.region host x ∨ onItsWay s first host x) ∧
     (s.memOk = true → ∀ j q, (j, some q) ∈ ps → (q.host = true ∨ lostAt s q.addr = false) →
       (∀ j' q', (j', some q') ∈ ps → j' ≠ j → q'.host = q.host → q'.addr + 4 ≤ q.addr ∨ q.addr + 4 ≤ q'.addr) →
       (q.host = true ∨ ∀ i < 4, ¬ onItsWay s first false (q.addr + i)) → loadWord t q = p.lanes.getD j 0))

/-- R205, R399 and R400: a one-lane global atomic goes past the caches (`u` is the state once its region's caches have given up the
line), reads the old word, which is its answer, and writes the new one. One of several lanes, or pairs of ATCAS, does so for each that
is unmasked and in bounds, one after another; those out of bounds count in OOBCNT, and with a record or packet of another format
nothing is performed and every lane counts. A scratch atomic performs in SCRATCH banks, and its other lanes count in SCRMISS. R401:
TICKET returns the record's old count and adds lane 0 of A to it, modulo 2^32; no memory changes. -/
def Obligations.AtomicResponse : Prop :=
  let plain (w : Word) : LaneResult := ⟨w, false, false⟩
  let new (op : Nat) (isFlt uns : Bool) (m d e : Word) : LaneResult :=
    match op with
    | 0x86 => if isFlt then floatLane eltAdd false m d 0 else plain (m + d)
    | 0x87 => if isFlt then floatLane eltMin false m d 0
              else plain (if (if uns then decide (m.toNat ≤ d.toNat) else decide (m.toInt ≤ d.toInt)) then m else d)
    | 0x88 => if isFlt then floatLane eltMax false m d 0
              else plain (if (if uns then decide (d.toNat ≤ m.toNat) else decide (d.toInt ≤ m.toInt)) then m else d)
    | 0x89 => plain (m &&& d)
    | 0x8A => plain (m ||| d)
    | 0x8B => plain (m ^^^ d)
    | 0x8C => plain d
    | _ => plain (if m = e then d else m)
  (∀ (s : State) (k : Nat) (r : MemReq) (rc : Rec) (p : Token) (q : Place),
   let idx := r.bsel.toNat % 4096
   let u := bypass s r.region q
   let m := loadWord u q
   let v := if r.op = 0x8D then new r.op (rc.fmt == .f32) (r.bsel.getLsbD 30) m (p.lanes.getD 1 0) (p.lanes.getD 0 0)
     else new r.op (rc.fmt == .f32) (r.bsel.getLsbD 30) m (p.lanes.getD 0 0) 0
   s.reqs[k]? = some r → 0x86 ≤ r.op → r.op ≤ 0x8D → r.bsel.getLsbD 31 = false → r.p = some p → r.parked = none →
   (s.reqs.take k).any (behind s · r) = false → holder s r.region = cfgPart r.cfg → recOf s r.cfg idx = some rc →
   fmtCode rc.fmt ≤ 1 → p.fmt = rc.fmt → 1 ≤ rc.w →
   (p.lanes.length = if r.op = 0x8D then 2 else 1) → p.mask.getLsbD 0 = true → (r.op = 0x8D → p.mask.getLsbD 1 = true) →
   lanePlaces s (elemDie r.el) r.cfg rc (coordOf rc r.a) .atomic [0] = .ok [(0, some q)] → (q.host = true → s.dev.linkUp = true) →
   exec (.memoryResponse k) s = .next (answerRequest
     (countFloat (saveWord u q v.word) r.el (ofBit v.nan) (ofBit v.ovf)) k r
     (answered r { kind := .data, fmt := rc.fmt, lanes := [m], mask := 1, poison := poisoned u q }))) ∧
  (∀ (s : State) (k : Nat) (r : MemReq) (rc : Rec) (p : Token),
   let idx := r.bsel.toNat % 4096
   let part := cfgPart r.cfg
   let cl := elemCluster r.el
   let uns := r.bsel.getLsbD 30
   let lanesFor (w : Nat) : Nat := if r.op = 0x8D then min (min w 4) ((p.lanes.length + 1) / 2) else min w p.lanes.length
   let on (j : Nat) : Bool :=
     if r.op = 0x8D then p.mask.getLsbD (2 * j) && p.mask.getLsbD (2 * j + 1) && decide (2 * j + 1 < p.lanes.length) else p.mask.getLsbD j
   let elts (w : Nat) : List Nat := (List.range (lanesFor w)).filter on
   let value (isFlt : Bool) (m : Word) (j : Nat) : LaneResult :=
     if r.op = 0x8D then new r.op isFlt uns m (p.lanes.getD (2 * j + 1) 0) (p.lanes.getD (2 * j) 0) else new r.op isFlt uns m (p.lanes.getD j 0) 0
   let result (fmt : Fmt) (n : Nat) (u : AtomicRun) : State :=
     let old (j : Nat) : Option Word := (u.olds.find? (·.1 == j)).map (·.2)
     answerRequest (countFloat u.s r.el u.nan u.ovf) k r (answered r
       { kind := .data, fmt := fmt, lanes := (List.range n).map fun j => (old j).getD 0
         mask := maskFrom ((List.range n).map fun j => (old j).isSome)
         aux := if 3 ≤ fmtCode fmt then some 0 else none, poison := u.poison })
   let next (u : AtomicRun) (j : Nat) (isFlt : Bool) (m : Word) (bad : Bool) (s' : Word → State) : AtomicRun :=
     let v := value isFlt m j
     { s := s' v.word, olds := u.olds ++ [(j, m)], nan := u.nan + ofBit v.nan, ovf := u.ovf + ofBit v.ovf, poison := u.poison || bad }
   0x86 ≤ r.op → r.op ≤ 0x8D → AtPort s k r r.op → r.p = some p →
   (r.bsel.getLsbD 31 = false → recOf s r.cfg idx = some rc →
     (fmtCode rc.fmt ≤ 1 → p.fmt = rc.fmt → ∀ ps : List LanePlace,
       lanePlaces s (elemDie r.el) r.cfg rc (coordOf rc r.a) .atomic (elts rc.w) = .ok ps → linkWaits s ps = false →
       let hits : List (Nat × Place) := ps.filterMap fun x => x.2.map fun q => (x.1, q)
       let u := hits.foldl (fun s x => bypass s r.region x.2) s
       exec (.memoryResponse k) s = .next (result rc.fmt (lanesFor rc.w) (hits.foldl
         (fun u x => next u x.1 (rc.fmt == .f32) (loadWord u.s x.2) (poisoned u.s x.2) fun w => saveWord u.s x.2 w)
         { s := countOob u r.cfg idx (ps.filter (·.2.isNone)).length }))) ∧
     (¬ (fmtCode rc.fmt ≤ 1 ∧ p.fmt = rc.fmt) → exec (.memoryResponse k) s = .next
       (result rc.fmt (lanesFor rc.w) { s := countOob s r.cfg idx (lanesFor rc.w) }))) ∧
   (r.bsel.getLsbD 31 = true →
     let at_ (j : Nat) : Nat := (tokLane r.a 0).toNat / 4 + j
     let isFlt := r.bsel.getLsbD 29
     let c (j : Nat) : Nat × Nat × Nat := scrAt (at_ j)
     ((∃ j ∈ elts 8, Foreign s part cl (at_ j)) → exec (.memoryResponse k) s = .next
       (elemFault { s with reqs := dropAt s.reqs k } r.el r.v r.slot part r.hdr.tag 0x11)) ∧
     ∀ lane : Nat → Bool, (∀ j ∈ elts 8, ¬ Foreign s part cl (at_ j)) → (∀ j ∈ elts 8, lane j = true ↔ InBank s part cl (at_ j) .scratch) →
       exec (.memoryResponse k) s = .next (result (if isFlt then .f32 else .i32) (lanesFor 8) ((elts 8).foldl
         (fun u j => if lane j then
             next u j isFlt (scrValue u.s cl (at_ j)) (scrPoisoned u.s cl (c j).1 (c j).2.1 (c j).2.2) fun w =>
               setScrWord u.s cl (c j).1 (c j).2.1 (c j).2.2 w
           else { u with s := bump u.s r.el .scrMiss 1 }) { s := s })))) ∧
  (∀ (s : State) (k : Nat) (r : MemReq) (rc : Rec),
   let idx := r.bsel.toNat % 4096
   s.reqs[k]? = some r → r.op = 0x8E → r.parked = none → (s.reqs.take k).any (behind s · r) = false →
   holder s r.region = cfgPart r.cfg → recOf s r.cfg idx = some rc →
   exec (.memoryResponse k) s = .next (answerRequest
     (modRec s r.cfg idx fun x => { x with ticket := BitVec.ofNat 32 (x.ticket.toNat + (tokLane r.a 0).toNat) }) k r
     (answered r { kind := .data, fmt := .i32, lanes := [rc.ticket], mask := 1 })))

/-! ### Sets and system instructions (R178, R179, R403 to R410) -/

/-- R178, R179, R218 and R403: JOIN adds the firing's tag to a set with room, LEAVE removes it, and ARRIVE by the last member
completes the episode with the number of arrivers, at the latest causal floor of them all (R140). An ARRIVE releases at the set's scope, and the regions that receive a completion
with arrivers acquire at it. -/
def Obligations.SetResults : Prop :=
  ∀ (a : BitVec 4) (d e : BitVec 6) (t : BitVec 4) (s : State) (f : Firing) (s1 : State) (tag : Tag) (s2 : State) (ref : SetRef),
  let st := if stampsSeq t.toNat then takeStamp s2 f else (f.head.seq, s2)
  let u := setUnitOf st.2 ref
  let home (s : State) : List Dest := (route s f.el f.v d.toNat).toList
  let pass : Token := headed f tag st.1 (tokenA f)
  let scope := setScope st.2 f ref
  let send (s : State) (x : SetSend) : State :=
    sendAll (if x.acq then x.ds.foldl (fun s d => acquire s (destRegion d) scope) s else s) f.el x.tok (x.ds.map viaPort)
  let answers (s : State) (u : SetUnit) (l : List SetSend) : State := afterFiring (l.foldl send (putSetUnit s ref u)) f
  let released : State := releaseStores st.2 (elemRegion f.el) scope
  let count (n : Nat) (floor : DWord) (x : Arrival) : SetSend :=
    { tok := { kind := .data, fmt := .i32, lanes := [BitVec.ofNat 32 n], mask := 1, tag := x.tok.tag, ctx := x.tok.ctx, v := x.tok.v,
               floor := laterFloor floor x.tok.floor }
      ds := x.d0, acq := n != 0 }
  let goes (op : Nat) : Prop :=
    Goes s (form op a 0 d e t) false f s1 ∧ resultTag s1 f = some (tag, s2) ∧ setRefOf s1 f = some ref
  let mine : Arrival := { tag := f.tag, tok := pass, d0 := home s2 }
  (goes 0xA0 → u.joins = [] → u.members.length < 4096 →
    exec (.join a d e t) s = .next (answers st.2
      { u with members := if f.tag ∈ u.members then u.members else u.members ++ [f.tag] } [{ tok := pass, ds := home s2 }])) ∧
  (goes 0xA1 → u.joins = [] → u.arrived = [] → u.heldNext = [] →
    exec (.leave a d e t) s = .next (answers st.2 { u with members := u.members.filter (· != f.tag) } [{ tok := pass, ds := home s2 }])) ∧
  (goes 0xA2 → f.tag ∉ u.members → exec (.arrive a d e t) s = .next (answers released u [count 0 0 mine])) ∧
  (goes 0xA2 → f.tag ∈ u.members → u.arrived.all (·.tag != f.tag) = true → u.heldNext = [] →
    let all := u.arrived ++ [mine]
    exec (.arrive a d e t) s = .next
      (if u.members.all fun x => all.any (·.tag == x) then
        answers released { u with arrived := [] } (all.map (count all.length (floorOf (all.map (·.tok)))))
       else answers released { u with arrived := all } []))

/-- R212, R223 and R384: FENCE, ACQ and REL send A on, as PASS does. Where their action is over at once, an acquire's invalidation of
clean lines included, and no earlier one of its slot waits, the result goes out (R159); where not, it waits with the action; and a release at SYS stays unfired while the loss of
the link keeps back host writes of its region. R410: YIELD sends A on, and marks a stage's input as empty. R406: TRAP consumes A, sends nothing and raises
the fault TRAP with lane 0 of A as DETAIL; EVT emits a GRAPH event of class 5 with lane 0 of A as payload and sends A on.
R407: TIME returns the greater of the die's trace time at the firing and the causal floor of the tokens it consumed, as two
I32 lanes, and the token carries that time as its floor. -/
def Obligations.SystemResults : Prop :=
  (∀ (a : BitVec 4) (sc : BitVec 2) (d e : BitVec 6) (t : BitVec 4),
   let pass : State → Firing → List Out := fun _ f => [{ tok := tokenA f }]
   let orders (i : Instr) (fm : Form) (rel acq : Bool) : Prop :=
     ∀ s f s1 tag s2, Goes s fm false f s1 → resultTag s1 f = some (tag, s2) →
       let r := elemRegion f.el
       let u := sendOut f tag s2 { tok := tokenA f }
       let o := orderOf s rel acq sc.toNat f (u.net.drop s2.net.length)
       let held : Prop := rel = true ∧ sc = 3 ∧ s.dev.linkUp = false ∧ hostWaits s r ≠ []
       let free : Bool := orderFree s o && s2.orders.all fun p => p.el != f.el || p.slot != key16 f.v f.slot
       (held → exec i s = .next s) ∧
       (¬ held → free = true → exec i s = .next
         (if acq then acquire (sent s2 f tag [{ tok := tokenA f }]) r sc.toNat else sent s2 f tag [{ tok := tokenA f }])) ∧
       (¬ held → free = false → exec i s = .next (afterFiring { u with net := s2.net, orders := u.orders ++ [o] } f))
   orders (.fence a sc d e t) (form 0xA3 a (sc.setWidth 4) d e t) true true ∧
   orders (.acq a sc d e t) (form 0xA4 a (sc.setWidth 4) d e t) false true ∧
   orders (.rel a sc d e t) (form 0xA5 a (sc.setWidth 4) d e t) true false ∧
   Yields (.yield a d e t) (form 0xAB a 0 d e t) false pass fun f s =>
     modGraphAt s f.cfg fun g => if g.config.stage then { g with yielded := true } else g) ∧
  (∀ (a m : BitVec 4) (d e : BitVec 6) (t : BitVec 4),
   Yields (.trap a t) (form 0xA6 a 0 0 0 t) false (fun _ _ => []) (fun f s =>
     raise s { code := 0x20, part := f.part, tag := some f.tag, detail := laneOf f.a 0, region := elemRegion f.el }) ∧
   (∀ s f s1 tag s2, Goes s (form 0xA7 a m d e t) false f s1 →
     resultTag (emitEvent s1 (elemDie f.el) (srcElem f.el) 5 m.toNat f.part (laneOf f.a 0).toNat (floorOf f.toks)) f = some (tag, s2) →
     exec (.evt a m d e t) s = .next (sent s2 f tag [{ tok := tokenA f }]))) ∧
  (∀ (a : BitVec 4) (d e : BitVec 6) (t : BitVec 4),
   Yields (.time a d e t) (form 0xA8 a 0 d e t) false fun s f =>
     let now : Nat := max (dieTT s (elemDie f.el)).toNat (floorOf f.toks).toNat
     [{ tok := { kind := .data, fmt := .i32, lanes := [BitVec.ofNat 32 (now % 2 ^ 32), BitVec.ofNat 32 (now / 2 ^ 32)], mask := 0x03
                 floor := BitVec.ofNat 64 now } }])

/-- R75 and R408: MBXS releases at SYS (`v` is the state after), writes its message of 64 bytes at MBXTAIL, advances it, signals and sends A on;
with the mailbox off, the message is discarded and counted in DROPCNT, and A still goes on. R409: QPUT answers 0xFFFF_FFFF with mask bit 0 when its queue is
not enabled or has no such ring; otherwise, when the record is read and the ring has room, it writes the 16 elements that it read,
element 1 replaced by the producer index P, into the ring's slot P mod 2^RLOG2, publishes the packet and answers with P. -/
def Obligations.MessagesFromGraphs : Prop :=
  (∀ (a : BitVec 4) (d e : BitVec 6) (t : BitVec 4) (s : State) (f : Firing) (s1 : State),
   let box := (partOf s f.part).mbx
   Goes s (form 0xA9 a 0 d e t) false f s1 → box = (partOf s1 f.part).mbx →
   (mbxOn box = false → ∀ v tag s2, releaseSys s1 (elemRegion f.el) = some v → resultTag v f = some (tag, s2) →
     exec (.mbxs a d e t) s = .next (bump (sent s2 f tag [{ tok := tokenA f }]) f.el .dropCnt 1)) ∧
   (mbxOn box = true → box.reserve = [] → ∀ v s0 s2, writeMessage s f.part (graphMessage s f) = .done s0 →
     releaseSys s1 (elemRegion f.el) = some v → writeMessage v f.part (graphMessage v f) = .done s2 →
     let root := match ownerOf v f.part f.tag with | some a => a.root.toNat | none => 0
     let bytes : List Byte :=
       leBytes 2 (0x8000 + (laneOf f.a 0).toNat % 2 ^ 15) ++ leBytes 2 root ++ leBytes 2 f.tag.toNat ++ leBytes 2 f.head.seq.toNat ++
       leBytes 8 (tt v).toNat ++ ((List.range 7).flatMap fun j => leBytes 4 (if j + 1 < f.count then (laneOf f.a (j + 1)).toNat else 0)) ++
       [f.mask] ++ List.replicate 19 0
     let slot := box.base + 64 * (box.tail.toNat % 2 ^ box.log2)
     (partOf s2 f.part).mbx.tail = box.tail + 1 ∧
     (v.memOk = true → ∀ ps, placesVia (fun a => translateRing v f.part box.host box.pasid a .write) slot 64 = .ok ps → ps.Nodup →
       ∀ j (p : Place), ps[j]? = some p → (p.host = true ∨ lostAt v p.addr = false) → readByte (memOf s2 p.host) p.addr = bytes.getD j 0) ∧
     ∀ tag s3, resultTag s2 f = some (tag, s3) → exec (.mbxs a d e t) s = .next (sent s3 f tag [{ tok := tokenA f }]))) ∧
  (∀ (a b : BitVec 4) (d e : BitVec 6) (t : BitVec 4) (s : State) (f : Firing) (s1 : State),
   let i := (laneOf f.a 0).toNat % 64
   let q := (laneOf f.a 0).toNat / 64 % 4
   let refused (s : State) : Bool := !(queueOf s f.part q).enable || decide ((queueOf s f.part q).nrings ≤ i)
   let ring (s : State) := ringOf s f.part q i
   Goes s (form 0xAA a b d e t) false f s1 →
   (refused s = true → refused s1 = true → ∀ tag s2, resultTag s1 f = some (tag, s2) →
     exec (.qput a b d e t) s = .next (sent s2 f tag [{ tok := { lanes := [0xFFFFFFFF#32], mask := 0 } }])) ∧
   (refused s = false → refused s1 = false → ∀ v p s2, qputDo s f = .done v → qputDo s1 f = .done (s2, p) →
     let rec? := recOf s1 f.cfg ((laneOf f.b 0).toNat % 4096)
     p = (ring s1).prod ∧ (ring s2).prod = (ring s1).prod + 1 ∧
     (∀ rc l u w, rec? = some rc →
       u = seeHost s1 (elemRegion f.el) (recordPlaces s1 (elemDie f.el) f.cfg rc (clipCoord rc [(laneOf f.a 1).toNat]) .read (List.range 16)) →
       loadRecord u (seenWord u (elemRegion f.el)) (elemDie f.el) f.cfg rc (clipCoord rc [(laneOf f.a 1).toNat]) 16 = .done l →
       releaseSys (countOob u f.cfg ((laneOf f.b 0).toNat % 4096) l.oob) (elemRegion f.el) = some w → w.memOk = true →
       let bytes := (List.range l.lanes.length).flatMap fun j => leBytes 4 (if j = 1 then p else l.lanes.getD j 0).toNat
       ∀ ps, placesVia (fun a => translateRing w f.part (ring s1).host (ring s1).pasid a .write)
           ((ring s1).base + 64 * ((ring s1).prod.toNat % 2 ^ (ring s1).rlog2)) 64 = .ok ps → ps.Nodup →
         ∀ j (x : Place), j < bytes.length → ps[j]? = some x → (x.host = true ∨ lostAt w x.addr = false) →
           readByte (memOf s2 x.host) x.addr = bytes.getD j 0) ∧
     ∀ tag s3, resultTag s2 f = some (tag, s3) →
       exec (.qput a b d e t) s = .next (sent s3 f tag (oneToken .i32 false none [p] 1))))

/-! ### Engine commands (R245, R332, R412 to R416) -/

/-- R332 and R412: the firing of an engine command sends it to the engine port of its slot. -/
def Obligations.CommandsAreSent : Prop :=
  ∀ (a b : BitVec 4) (d e : BitVec 6) (t : BitVec 4),
  let sends (i : Instr) (op : Nat) : Prop := Commands i (form op a b d e t)
  sends (.cparm a b d e t) 0xB0 ∧ sends (.cpdis a b d e t) 0xB1 ∧ sends (.cpgo a b d e t) 0xB2 ∧
  sends (.gather a b d e t) 0xB3 ∧ sends (.scatter a b d e t) 0xB4 ∧ sends (.scatadd a b d e t) 0xB5 ∧
  sends (.tileld a b d e t) 0xB6 ∧ sends (.tilest a b d e t) 0xB7 ∧ sends (.oobrd a b d e t) 0xB8 ∧
  sends (.mxlw a b d e t) 0xC0 ∧ sends (.mxswap a b d e t) 0xC1 ∧ sends (.mxstr a b d e t) 0xC2 ∧
  sends (.mxzero a b d e t) 0xC3 ∧ sends (.mxdrp a b d e t) 0xC4 ∧ sends (.mxdrs a b d e t) 0xC5 ∧
  sends (.mxdrm a b d e t) 0xC6 ∧ sends (.mxqp a b d e t) 0xC7 ∧ sends (.tdcfg a b d e t) 0xD0 ∧
  sends (.tdsc a b d e t) 0xD1 ∧ sends (.tdgrp a b d e t) 0xD2 ∧ sends (.tdptr a b d e t) 0xD3 ∧
  sends (.tdnode a b d e t) 0xD4 ∧ sends (.brcfg a b d e t) 0xD8 ∧ sends (.brin a b d e t) 0xD9 ∧
  sends (.brret a b d e t) 0xDA ∧ sends (.brstat a b d e t) 0xDB ∧ sends (.brpin a b d e t) 0xDC ∧
  sends (.shidx a b d e t) 0xE0 ∧ sends (.packr a b d e t) 0xE1 ∧ sends (.segid a b d e t) 0xE2

/-! ### Tokens that arrive (R114, R115, R154, R166 to R175) -/

/-- R115: a token whose version holds opcode 0x00 in its target slot, or no configuration there, faults VOID_SLOT. -/
def Obligations.VoidSlotFaults : Prop :=
  ∀ (s : State) (k el slot field : Nat) (port : Bool) (x : Token) (base : State),
  let e := elemOf s el
  Lands s k el slot field port x base → e.absent = [] →
  (lookup 0 e.owner (key16 x.v slot) = 0 ∨ (lookup 0 e.instr (key16 x.v slot)).toNat / 2 ^ 24 % 256 = 0) →
  exec (.tokenEnqueue k) s = .next (elemFault base el x.v slot x.ctx x.tag 0x01)

/-- R166, R169 to R171 and R386: what becomes of a token that reaches a slot. A format that the slot does not accept is forwarded
unchanged by CONV, or faults FMT_NOROUTE where CONV is 0. A CTRL token, or an EOS that the slot does not take, is dropped, counted in
EOSMIS and reported; SINK takes every kind, EOSQ and a slot in stream mode an EOS. A stream's slot is bound to its tag, and a token of another
tag faults STREAM_MIX unless the stream is ending. Otherwise the token is stored in its empty field of the resident part of its tag, or of
one that its tag takes: a free one within the quota, or that of the part least recently touched, which is spilled. A token of a spilled
part is parked, and an RADD or RMAX term that is early is kept in the reorder store. R167: the spilled part of a tag for which a token is parked,
or a slot of which waits for no other token (notes/assumptions/26), comes back to a
free place of its element within its configuration's quota. R175: a token whose queue is full, or has earlier ones in the spill ring, goes
there; with no element of a running region able to take a waiting token, the entries of the ring move to their queues in arrival order,
where there is room, and the others keep their order. -/
def Obligations.TokensReachFields : Prop :=
  (∀ (s : State) (k el slot field : Nat) (port : Bool) (x : Token) (base : State) (c : Nat),
   let e := elemOf s el
   let op := (lookup 0 e.instr (key16 x.v slot)).toNat / 2 ^ 24 % 256
   let attr := lookup 0 e.attrs (key16 x.v slot)
   let accepts : Bool := attr.getLsbD (8 + fmtCode x.fmt)
   let conv := attr.toNat / 4 % 64
   let stream : Bool := attr.getLsbD 1 && op != 0x7C
   let bound := lookup none e.streamTag (key16 x.v slot)
   let dropped : Prop := (x.kind = .ctrl ∧ op ≠ 0x7C) ∨ (x.kind = .eos ∧ stream = false ∧ op ≠ 0x78 ∧ op ≠ 0x7C)
   let early : Bool := (op == 0x75 || op == 0x76) && field == 0 &&
     x.seq != (match findPart e c x.tag with | some p => expectedSeq p slot | none => 0)
   let mine := e.parts.filter (·.cfg == c)
   let bind (y : Element) : Element := if stream then { y with streamTag := store y.streamTag (key16 x.v slot) (some x.tag) } else y
   let put (y : Element) : Element :=
     { bind (modPartOf y c x.tag fun p => { p with fields := store p.fields (3 * slot + field) (some (.tok x)), touch := y.clock }) with
       clock := y.clock + 1 }
   let fresh (y : Element) : Element := { y with parts := y.parts ++ [{ cfg := c, tag := x.tag, touch := y.clock }], clock := y.clock + 1 }
   let fault (code : Byte) : State := elemFault base el x.v slot x.ctx x.tag code
   let becomes (t : State) : Prop := exec (.tokenEnqueue k) s = .next t
   Lands s k el slot field port x base → e.absent = [] → ownerCfg s el x.v slot = some c → op ≠ 0 →
   (accepts = false → conv = 0 → becomes (fault 0x02)) ∧
   (∀ d, accepts = false → conv ≠ 0 → route s el x.v conv = some d → hasRoom base d = true → becomes (sendTok base el x d)) ∧
   (accepts = true → dropped → becomes (countEosMis base el x.ctx x.tag.toNat slot x.floor)) ∧
   (∀ u w, accepts = true → ¬ dropped → w = (lookup 0 e.instr (key16 x.v slot)).toNat → stream = true → bound = some u → u ≠ x.tag →
     streamEnding e c slot w u = false → becomes (fault 0x03)) ∧
   (accepts = true → ¬ dropped → (stream = true → bound = none ∨ bound = some x.tag) →
     (e.spilled.any (fun p => p.cfg == c && p.tag == x.tag) = true →
       becomes (modElem base el fun y => { y with parked := y.parked ++ [⟨x, slot, field⟩] })) ∧
     (e.spilled.any (fun p => p.cfg == c && p.tag == x.tag) = false →
       (early = true → (x.seq - (match findPart e c x.tag with | some p => expectedSeq p slot | none => 0)).toNat < 16 →
         e.reorder.length < 16 → becomes (modElem base el fun y => { y with reorder := y.reorder ++ [⟨x, slot, field⟩] })) ∧
       (∀ p, early = false → findPart e c x.tag = some p → fieldOf p slot field = none → becomes (modElem base el put)) ∧
       (early = false → findPart e c x.tag = none →
         (mine.length < quotaOf s c → e.parts.length < 56 → becomes (modElem base el fun y => put (fresh y))) ∧
         ∀ v, let pool := if quotaOf s c ≤ mine.length then mine else e.parts
           let held (p : FramePart) : Bool := p.fresh || firingInFlight s el p
           quotaOf s c ≤ mine.length ∨ 56 ≤ e.parts.length → v ∈ pool → held v = false →
           (∀ p ∈ pool, p ≠ v → held p = false → v.touch < p.touch) →
           (spilledIn s (elemRegion el) < 16384 → becomes (modElem base el fun y =>
             put (fresh { y with parts := y.parts.filter (fun p => !(p.cfg == v.cfg && p.tag == v.tag)), spilled := y.spilled ++ [v] }))) ∧
           (16384 ≤ spilledIn s (elemRegion el) → becomes (fault 0x22)))))) ∧
  (∀ (s : State) (el : Nat) (t : Tag) (p : FramePart),
   let e := elemOf s el
   let u := setElem s el { e with
     spilled := e.spilled.filter (fun q => !(q.cfg == p.cfg && q.tag == p.tag))
     parts := e.parts ++ [{ p with fresh := true, touch := e.clock }]
     clock := e.clock + 1 }
   e.spilled.find? (·.tag == t) = some p → regionRuns s (elemRegion el) (cfgPart p.cfg) = true →
   (placementAt s p.cfg el).any (·.swapped) = false → reportable s (cfgPart p.cfg) = true →
   (e.parts.filter (·.cfg == p.cfg)).length < quotaOf s p.cfg → e.parts.length < 56 →
   (reloadDue s el p = true → exec (.framePartReload el t) s = .next (settle u el) ∧ (quietElem e = true → settle u el = u)) ∧
   (reloadDue s el p = false → e.spilled.filter (·.tag == t) = [p] → exec (.framePartReload el t) s = .next s)) ∧
  (∀ (s : State) (k el slot field : Nat) (port : Bool) (f : Flight) (vsel : VSel),
   let q := if port then 3 else field
   let ring := (regionOf s (elemRegion el)).spill
   let u := noteAck (modRegion { s with net := dropAt s.net k } (elemRegion el) fun g =>
     { g with spill := g.spill ++ [(4 * el + q, ⟨f.tok, slot, field⟩)] }) (elemRegion el) f.ack
   s.net[k]? = some f → f.cmd = none → f.dest = .slot el slot field vsel port → (s.net.take k).any (sameWay f) = false →
   regionRuns s (elemRegion el) f.tok.ctx = true → swappedAt s el f.tok = none → losslessNow s f.tok.ctx = false →
   (8 ≤ (lookup [] (elemOf s el).queues q).length ∨ ring.any (·.1 == 4 * el + q) = true) → ring.length < Config.spillRingTokens →
   settle u el = u → exec (.tokenEnqueue k) s = .next u) ∧
  (∀ (s : State) (r : Nat),
   let ring := (regionOf s r).spill
   regionRuns s r (holder s r) = true → busyElems s r = [] →
   ∃ t, exec (.queueRefill r) s = .next t ∧ (regionOf t r).spill.Sublist ring ∧
     t = modRegion { s with elems := t.elems } r (fun g => { g with spill := (regionOf t r).spill }) ∧
     (∀ el, elemOf t el = { elemOf s el with queues := (elemOf t el).queues }) ∧
     ∀ el q, q < 4 →
       let waiting := (ring.filter (·.1 == 4 * el + q)).map (·.2)
       let room := 8 - (lookup [] (elemOf s el).queues q).length
       lookup [] (elemOf t el).queues q = lookup [] (elemOf s el).queues q ++ waiting.take room ∧
         ((regionOf t r).spill.filter (·.1 == 4 * el + q)).map (·.2) = waiting.drop room)

/-! ### Engine events (R215, R247, R253 to R261, R413, R414, R422) -/

/-- R247 and R414: a command that its port's engine does not accept is answered with the ILLEGAL token, to D1 when it has a
completion and to D0 otherwise, with ENGINE event code 5, and does nothing else. R257: a command whose turn has come pops one
token of its WAITF FIFO and issues, with ENGINE event code 1; while the FIFO is empty it waits, one that its engine finds ILLEGAL by
what earlier commands have done is answered so and pops nothing, and one that comes back from a save
area goes on with ENGINE event code 4. R214, R215, R257, R316 and R413: a command whose work is over retires: one with a completion sends
its answers to D0 first; then, with REL, its writes have performed, it pushes its SIGF FIFO, sends answers to D0 where it has no
completion, and its completion to D1, and ENGINE event code 2 follows. While the FIFO it pushes is full, or a write it releases waits,
it stays. -/
def Obligations.EngineCommandLife : Prop :=
  (∀ (s : State) (k : Nat) (f : Flight) (c : Cmd),
   let base : State := { s with net := dropAt s.net k }
   let illegal : Token :=
     { kind := .data, fmt := .i32, lanes := [0xFFFFFFFF#32], mask := 1, tag := c.a.tag, seq := c.a.seq, ctx := c.a.ctx,
       v := c.a.v, floor := c.a.floor, pred := true }
   s.net[k]? = some f → f.cmd = some c → f.dest = .engine c.region c.port .keep → (s.net.take k).any (sameWay f) = false →
   regionRuns s c.region c.part = true → engineTakes s c = true → reportable s c.part = true →
   portAccepts c.port c.code = false → c.code ≠ 0xDA →
   exec (.tokenEnqueue k) s = .next (engineEvent
     (sendAll base c.el illegal ((if noCompletion c then c.d0 else c.d1).map viaPort)) c.region c.port 5 c.code c.part
     c.tag.toNat c.a.floor)) ∧
  (∀ (s : State) (k : Nat) (c : Cmd),
   s.cmds[k]? = some c → s.cmds.find? (·.ident == c.ident) = some c → c.issued = false → cmdRuns s c = true →
   hasTurn s c = true → reportable s c.part = true → c.waitf ≠ 0 → c.parked = none →
   (c.code ∉ [0xB0, 0xC5, 0xD1, 0xD4, 0xD8, 0xD9, 0xDA, 0xDB, 0xDC, 0xE0] → issueCheck s c = .done false) ∧
   (∀ x rest, c.saved = false → fifoOf s c c.waitf = x :: rest → issueCheck s c = .done true → c.code ≠ 0xDA →
     let illegal : Token :=
       { kind := .data, fmt := .i32, lanes := [0xFFFFFFFF#32], mask := 1, tag := c.a.tag, seq := c.a.seq, ctx := c.a.ctx,
         v := c.a.v, floor := c.a.floor, pred := true }
     exec (.engineFifoIssue k) s = .next (engineEvent
       (sendAll { s with cmds := s.cmds.filter (·.ident != c.ident) } c.el illegal ((if noCompletion c then c.d0 else c.d1).map viaPort))
       c.region c.port 5 c.code c.part c.tag.toNat c.a.floor)) ∧
   (c.saved = true → fifoOf s c c.waitf = [] → exec (.engineFifoIssue k) s = .next
     (putCmd (engineEvent s c.region c.port 4 c.code c.part c.tag.toNat c.a.floor) { c with saved := false })) ∧
   (c.saved = false → fifoOf s c c.waitf = [] → exec (.engineFifoIssue k) s = .next s) ∧
   (∀ x rest, c.saved = false → fifoOf s c c.waitf = x :: rest → issueCheck s c = .done false →
     let c' := { c with issued := true, a := { c.a with floor := laterFloor c.a.floor (floorOf [x.2]) } }
     exec (.engineFifoIssue k) s = .next (advanceCmd
       (engineEvent (putCmd (putFifo s c c.waitf rest) c') c.region c.port 1 c.code c.part c.tag.toNat c'.a.floor) c'))) ∧
  (∀ (s : State) (k : Nat) (c : Cmd),
   let freed : State := if c.rel then completeWhere s (·.owner == c.ident) else s
   let waits : Prop := c.rel = true ∧ ∃ po ∈ freed.posted, po.owner = c.ident
   let gone : State := { freed with cmds := freed.cmds.filter (·.ident != c.ident) }
   let pushed : State := if c.sigf = 0 then gone else putFifo gone c c.sigf (fifoOf s c c.sigf ++ [(c.queue, c.a)])
   let answer (s : State) : State := c.answers.foldl (fun s t => sendAll s c.el t (c.d0.map viaPort)) s
   let answered : State := answer pushed
   let before : Prop := c.done.isSome = true ∧ c.answers ≠ []
   let completion (ls : List Word) : Token :=
     { kind := .data, fmt := .i32, lanes := ls, mask := lowMask ls.length, tag := c.a.tag, seq := c.a.seq, ctx := c.a.ctx,
       v := c.a.v, floor := c.a.floor, poison := c.donePoison }
   let done : State :=
     match c.done with
     | some ls => sendAll answered c.el (completion ls) (c.d1.map viaPort)
     | none => answered
   s.cmds[k]? = some c → s.cmds.find? (·.ident == c.ident) = some c → c.finished = true → c.saved = false → c.illegal = false →
   cmdRuns s c = true → reportable s c.part = true →
   (before → exec (.engineRetire k) s = .next (putCmd (answer s) { c with answers := [] })) ∧
   (¬ before → sigfFull s c = false → ¬ waits →
     exec (.engineRetire k) s = .next (engineEvent done c.region c.port 2 c.code c.part c.tag.toNat c.a.floor)) ∧
   (¬ before → sigfFull s c = true ∨ waits → exec (.engineRetire k) s = .next s))

/-- R124, R254, R259, R261, R262 and R422: a command of a queue being saved goes to the save area at its boundary, and not before; a row of MXDRP
is added at its target tile; the oldest trigger of an armed hardware queue starts one copy; a copy with nothing left to move
gives its command the poison count and the bytes; and a token that is no command, after what its element has sent there before, is
dropped and counted at its port. -/
def Obligations.EngineEvents : Prop :=
  ∀ (s : State) (k : Nat),
  (∀ c, s.cmds[k]? = some c → (queueOf s c.part c.queue).state = .saving → c.saved = false → reportable s c.part = true →
    exec (.engineBoundarySave k) s = .next (if cutHere c then putCmd
      (engineEvent s c.region c.port 3 c.code c.part c.tag.toNat c.a.floor) { c with saved := true } else s)) ∧
  (∀ r, s.drpRows[k]? = some r →
    exec (.mxdrpRowArrive k) s = .next (modCore { s with drpRows := dropAt s.drpRows k } r.core fun x => addRow x r)) ∧
  (∀ cl hq cfg lq tm tok rest, (hwqOf s cl hq).armed = some (cfg, lq, tm) → (hwqOf s cl hq).triggers = tok :: rest →
    regionRuns s (4 * cl + hq / 16) (cfgPart cfg) = true → engineStalls s (4 * cl + hq / 16) 6 = false →
    ∃ t cp, exec (.copyTrigger cl hq) s = .next t ∧ t.copies = s.copies ++ [cp] ∧ cp.cfg = cfg ∧ cp.tok = tok ∧
      cp.home = (hwqOf s cl hq).home ∧ hwqOf t cl hq = { hwqOf s cl hq with triggers := rest }) ∧
  (∀ cp i x j y u, s.copies[k]? = some cp → copyRuns s cp = true → cp.src = .record i x → cp.dst = .record j y → cp.left = [] →
    copySettles { s with copies := dropAt s.copies k } cp = some u →
    ∃ t, exec (.copyRetire k) s = .next t ∧ t.copies = dropAt s.copies k ∧ t.mem = u.mem ∧
      ∀ id, cp.cmd = some id → ∀ c ∈ s.cmds, c.ident = id → ∃ c' ∈ t.cmds, c'.ident = id ∧ c'.finished = true ∧
        c'.done = some [BitVec.ofNat 32 (cp.tainted.map (·.2)).eraseDups.length, BitVec.ofNat 32 cp.bytes]) ∧
  (∀ f r p vs, s.net[k]? = some f → f.cmd = none → f.dest = .engine r p vs → 6 ≤ p → reportable s f.tok.ctx = true →
    (s.net.take k).any (sameWay f) = false →
    exec (.engineNoncommandDrop k) s = .next (engineEvent (bump { s with net := dropAt s.net k } f.src .dropCnt 1) r p 5 0
      f.tok.ctx f.tok.tag.toNat f.tok.floor))

/-! ### Rings, the merge and packets (R55 to R70, R76, R147) -/

/-- R57 to R60 and R67: a doorbell within the ring's size sets the producer index and any other is counted and traced; a
fetch takes the packet at RHEAD and checks its SEQ; a round of the merge visits the rings in order and takes from each that is not parked
its run, one packet and those that BUNDLE ties to it, up to 8, each with the next queue sequence number, and counts a run that comes to
a tied packet not yet published, while it waits for one that is published and not yet fetched; and an indirect buffer gives its packets
one by one, unchecked. -/
def Obligations.RingsAndMerge : Prop :=
  ∀ (s : State) (n q i : Nat) (v : BitVec 32),
  let r := ringOf s n q i
  let u := queueOf s n q
  ((v - r.rhead).toNat ≤ 2 ^ r.rlog2 → exec (.doorbellWrite n q i v) s = .next (modRing s n q i fun r => { r with prod := v })) ∧
  (2 ^ r.rlog2 < (v - r.rhead).toNat → exec (.doorbellWrite n q i v) s = .next
    (emitEvent (modRing s n q i fun r => { r with doorbellErrors := r.doorbellErrors + 1 }) 0 0x6C0 6 2 n (q + 4 * i))) ∧
  (∀ bs poison, queueGoes s n q = true → i < u.nrings → 4 ≤ r.rlog2 → r.rlog2 ≤ 16 → r.rstat = .active → r.prod ≠ r.rhead →
    loadVia s (fun a => translateRing s n r.host r.pasid a .read) (r.base + 64 * (r.rhead.toNat % 2 ^ r.rlog2)) 64 =
      .ok (bs, poison) →
    exec (.ringFetch n q i) s = .next (modRing s n q i fun r => { r with
      rhead := r.rhead + 1
      fetched := r.fetched ++ [{ hdrSeq := r.rhead, ring := i, bytes := bs
                                 badSeq := leNat (bs.take 8) / 2 ^ 32 % 2 ^ 32 != r.rhead.toNat }] })) ∧
  (s.hand = (n, q) → queueGoes s n q = true → u.merged = [] → u.nrings ≤ 64 → u.mergeAt = 0 → u.run = none →
    let ring (j : Nat) := ringOf s n q j
    let taken (j : Nat) : List Packet := if (ring j).rstat = .active then runOf 8 (ring j).fetched else []
    let breaks (j : Nat) : Bool := (ring j).rstat == .active && runBreaks 8 (ring j).fetched
    (∀ j < u.nrings, (ring j).ibs = [] ∧ (∀ p ∈ (ring j).fetched, p.ring = j ∧ p.type ≠ 4) ∧ (breaks j = true → (ring j).prod = (ring j).rhead)) →
    let all := (List.range u.nrings).flatMap taken
    ∃ t, exec .mergeRound s = .next t ∧ (queueOf t n q).merged = all.mapIdx (fun k p => { p with qseq := u.nextSeq + BitVec.ofNat 32 k }) ∧
      (queueOf t n q).nextSeq = u.nextSeq + BitVec.ofNat 32 all.length ∧ (queueOf t n q).mergeAt = 0 ∧ (queueOf t n q).run = none ∧
      (queueOf t n q).bundleBreaks = u.bundleBreaks + BitVec.ofNat 32 ((List.range u.nrings).filter breaks).length ∧
      (∀ j < u.nrings, (ringOf t n q j).fetched = (ring j).fetched.drop (taken j).length) ∧ (queueOf t n q).inFlight = u.inFlight ∧
      t.mem = s.mem) ∧
  (∀ k, s.hand = (n, q) → queueGoes s n q = true → u.merged = [] → u.mergeAt = i → i < u.nrings → u.run = some k → r.rstat = .active →
    r.ibs = [] → r.fetched = [] → r.prod ≠ r.rhead → exec .mergeRound s = .next s) ∧
  (∀ f rest bs poison, s.hand = (n, q) → queueGoes s n q = true → u.merged = [] → u.mergeAt = i → r.rstat = .active →
    r.ibs = f :: rest → 2 ≤ f.left → leNat (bs.take 8) % 256 ≠ 4 →
    loadVia s (fun a => translateRing s n r.host r.pasid a .read) f.next 64 = .ok (bs, poison) →
    ∃ t, exec .ib s = .next t ∧ (queueOf t n q).merged = [{ qseq := u.nextSeq, hdrSeq := BitVec.ofNat 32 f.index, ring := i
                                                            level := f.level, bytes := bs }] ∧
      (queueOf t n q).nextSeq = u.nextSeq + 1 ∧
      (ringOf t n q i).ibs = { f with next := f.next + 64, left := f.left - 1, index := f.index + 1 } :: rest ∧
      (queueOf t n q).run = u.run)

/-- R69: while the packet before one with CHAIN set has not completed, no packet operation admits it; with queue sequence 0
the flag has no effect. -/
def Obligations.ChainHoldsAdmission : Prop :=
  ∀ (s : State) (n q : Nat) (p : Packet) (rest : List Packet),
  let u := queueOf s n q
  let pending : Prop := (∃ o ∈ u.inFlight, o.qseq = p.qseq - 1) ∨ p.qseq - 1 ∈ u.failed
  s.hand = (n, q) → u.merged = p :: rest → headFault s p = none →
  (p.chain = true → p.qseq ≠ 0 → pending →
    ∀ i ∈ [Instr.inject, .reside, .evict, .waitv, .waitvReread, .writev, .mboxAttestRequest, .mboxEcho, .qbar, .tracectl, .nopk],
      exec i s = .next s) ∧
  (p.chain = true → p.qseq ≠ 0 → pending → p.type = 4 → exec .ib s = .next s) ∧
  (queueGoes s n q = true → u.held.length < 256 → p.type = 10 → (p.bytes.drop 8).all (· == 0) = true →
    (p.chain = true → p.qseq ≠ 0 → ¬ pending) →
    exec .nopk s = .next (completePacket (admitPacket s n q p) n q p))

/-- R63 to R67 and R70: an INJECT of a loaded graph that has a place takes a new tag, begins its activation and sends one
token for each launch entry that IMASK names, in order; RESIDE makes its handle live and hands the image to the manager;
EVICT ends the handle's admissions; an IB opens its buffer. An INJECT of a handle that is not live, and a RESIDE of one that
is, fault BAD_PACKET with DETAIL 0, and an INJECT of a loaded graph whose fields do not fit with the offset of the first bad one (R65,
R73). R62 and R63: NOPK and QBAR complete at their admission, QBAR once every earlier packet has completed; a
packet with a fault in its header gets its record with BAD_PACKET and DETAIL 0xFF, and its queue goes to ERROR and admits
nothing more. -/
def Obligations.GraphPackets : Prop :=
  (∀ (s : State) (n q : Nat) (p : Packet),
   AtHead s n q p →
   let h := p.field 0 2
   let g := graphOf s n h
   let t1 := admitPacket s n q p
   let imask := p.field 2 2
   let named : List Launch := ((List.range 16).filter fun j => imask.testBit j).filterMap fun j => g.config.launch[j]?
   let live : Prop := 1 ≤ h ∧ h ≤ 255 ∧ g.life ≠ .free ∧ g.life ≠ .evicting
   (∀ pl root s1, p.type = 1 → live → g.life = .loaded → launchFault g.config p = none →
     readyPlace s n q h = some pl →
     newTag s n (fun u => { alloc := true, link := u, head := u, root := some u }) = some (root, s1) →
     ∃ t, exec .inject s = .next t ∧
       (partOf t n).acts.getLast? = some { root := root, queue := q, qseq := p.qseq, hdrSeq := p.hdrSeq, ring := p.ring
                                           irq := p.irq, handle := h } ∧
       tagInfo t n root = { alloc := true, link := root, head := root, root := some root } ∧
       t.net = s.net ++ named.map fun l =>
         { tok := { kind := .data, fmt := fmtOf l.fmt, lanes := (List.range (l.len + 1)).map fun k =>
                      BitVec.ofNat 32 (p.field (8 + 4 * (l.arg + k)) 4)
                    mask := lowMask (l.len + 1), tag := root, ctx := n, v := pl.v
                    floor := if 3 ≤ pl.cluster ∧ pl.cluster < 6 then tt s + 1 else 0 }
           dest := .slot (elemAt pl.cluster (pl.x0 + l.x) (pl.y0 + l.y)) l.slot l.field .keep false
           src := elemAt pl.cluster (pl.x0 + l.x) (pl.y0 + l.y) }) ∧
   (p.type = 1 → ¬ live → exec .inject s = .next (packetFault s n q p 0x33 0)) ∧
   (p.type = 1 → live → g.life = .loaded →
     let entry (j : Nat) : Option Launch := g.config.launch[j]?
     let unfit : Prop := ∃ j < 16, imask.testBit j = true ∧ ∀ l, entry j = some l → 3 ≤ l.fmt
     let beyond : Prop := 8 < p.field 4 1 ∨ ∃ j < 16, imask.testBit j = true ∧ ∃ l, entry j = some l ∧ p.field 4 1 ≤ l.arg + l.len
     (unfit → exec .inject s = .next (packetFault s n q p 0x33 2)) ∧
     (¬ unfit → beyond → exec .inject s = .next (packetFault s n q p 0x33 4)) ∧
     ∀ k, ¬ unfit → ¬ beyond → (nonzeroAt p 5 8).or (nonzeroAt p 40 56) = some k → exec .inject s = .next (packetFault s n q p 0x33 k)) ∧
   (p.type = 2 → 1 ≤ h → h ≤ 255 → nonzeroAt p 2 8 = none → p.field 8 8 % 64 = 0 → nonzeroAt p 20 56 = none → g.life = .free →
     exec .reside s = .next (modGraph t1 n h fun _ =>
       { life := .loading, queue := q, qseq := p.qseq, owed := true, addr := p.field 8 8, size := p.field 16 4 })) ∧
   (p.type = 2 → (h = 0 ∨ 255 < h ∨ g.life ≠ .free) → exec .reside s = .next (packetFault s n q p 0x33 0)) ∧
   (p.type = 3 → 1 ≤ h → h ≤ 255 → nonzeroAt p 2 56 = none → g.life = .loaded →
     exec .evict s = .next (modGraph t1 n h fun g => { g with life := .evicting, queue := q, qseq := p.qseq, owed := true })) ∧
   (p.type = 4 → p.level < 4 → p.field 0 8 % 64 = 0 → 1 ≤ p.field 8 4 → p.field 8 4 ≤ 4096 → nonzeroAt p 12 56 = none →
     exec .ib s = .next t1) ∧
   (p.type = 4 → 4 ≤ p.level → exec .ib s = .next (packetFault s n q p 0x31 5))) ∧
  (∀ (s : State) (n q : Nat) (p : Packet),
   let u := queueOf s n q
   let done := completePacket (admitPacket s n q p) n q p
   let zero : Prop := (p.bytes.drop 8).all (· == 0) = true
   (AtHead s n q p → p.type = 10 → zero → exec .nopk s = .next done) ∧
   (AtHead s n q p → p.type = 8 → zero → u.inFlight = [] → exec .qbar s = .next done) ∧
   (AtHead s n q p → p.type = 8 → zero → u.inFlight ≠ [] → exec .qbar s = .next s) ∧
   (∀ rest, s.hand = (n, q) → queueGoes s n q = true → u.held.length < 256 → u.merged = p :: rest →
     (leNat (p.bytes.take 8) / 2 ^ 12 % 2 ^ 20 ≠ 0 ∨ p.type = 0 ∨ 10 < p.type ∨ p.badSeq = true) →
     ∃ t, exec .nopk s = .next t ∧ t = packetFault s n q p 0x33 0xFF ∧ (queueOf t n q).state = .error ∧
       (u.errorDue = false → (queueOf t n q).fault = 0x33 ∧ (queueOf t n q).detail = 0xFF) ∧
       (∀ x ∈ (queueOf t n q).merged, x.qseq ≠ p.qseq) ∧ queueGoes t n q = false))

/-- R68 and R212: WAITV completes when the 64-bit value at its address satisfies the comparison, with an acquire at SYS by the regions
of its queue, and waits otherwise; WRITEV, once every earlier packet has completed and a release at SYS is done, stores VALUE or
adds it there, and waits while the link keeps a write of the release back. Beside what the release wrote back, its store changes no other
byte of memory. Every WAITV of the device that waits on a place stored to then reads it again. -/
def Obligations.ValuePackets : Prop :=
  ∀ (s : State) (n q : Nat) (p : Packet) (ps : List Place),
  AtHead s n q p → (queueOf s n q).vPage = none →
  let op := p.field 16 1
  let value := p.field 8 8
  let cur := leNat (ps.flatMap fun a => load s a 1)
  let holds : Prop := if op = 0 then value ≤ cur else if op = 1 then cur = value else cur ≠ value
  let done (s : State) := completePacket (admitPacket s n q p) n q p
  (p.type = 5 → valueFault p 2 = none → valuePlaces s n p .read = .ok ps →
    let acquired : State := (regionsOf s n q).foldl (fun s r => acquire s r 3) s
    (holds → exec .waitv s = .next (done acquired) ∧ exec .waitvReread s = .next (done acquired)) ∧
    (¬ holds → exec .waitv s = .next s ∧ exec .waitvReread s = .next s)) ∧
  (p.type = 6 → valueFault p 1 = none → (queueOf s n q).inFlight = [] →
    valuePlaces s n p (if op = 0 then .write else .atomic) = .ok ps →
    (releaseQueue s n q = none → exec .writev s = .next s) ∧
    (∀ s1, releaseQueue s n q = some s1 →
      let old := leNat (ps.flatMap fun a => load s1 a 1)
      let s' := saveAt s1 ps (leBytes 8 (if op = 0 then value else old + value))
      let again := (waitingQueues (done s')).filter (waitsOn (done s') ps)
      exec .writev s = .next { again.foldl (fun u x => waitValue { u with hand := x }) (done s') with hand := s.hand } ∧
      (∀ a, ⟨false, a⟩ ∉ ps → readByte s'.mem a = readByte s1.mem a) ∧
      (∀ a, ⟨true, a⟩ ∉ ps → readByte s'.hostMem a = readByte s1.hostMem a))) ∧
  (p.type = 6 → valueFault p 1 = none → (queueOf s n q).inFlight ≠ [] → exec .writev s = .next s)

/-- R75, R76 and R39: an MBOX echo is answered with a message of type 0x0005 that holds the request's sequence and its 54
bytes; an attestation request with one of type 0x0003, the report being written at the address given; TRACECTL sets the
partition's filter (R147). -/
def Obligations.MessagePackets : Prop :=
  ∀ (s : State) (n q : Nat) (p : Packet),
  AtHead s n q p → p.bytes.length = 64 →
  let t1 := admitPacket s n q p
  let replies (bs : List Byte) : Message := { bytes := bs, remeasure := false, completes := some (q, p.qseq) }
  (p.type = 7 → p.field 0 2 = 4 → mboxRoom s n = true → exec .mboxEcho s = .next (postMessage t1 n
    (replies ([5, 0] ++ leBytes 4 p.qseq.toNat ++ p.bytes.drop 10 ++ List.replicate 4 0)))) ∧
  (p.type = 7 → p.field 0 2 = 2 → mboxRoom s n = true → (queueOf s n q).vPage = none → nonzeroAt p 2 8 = none →
    p.field 40 8 % 8 = 0 → nonzeroAt p 48 56 = none →
    (1048576 ≤ s.dev.xmssIndex → exec .mboxAttestRequest s = .next (postMessage t1 n
      (replies ([3, 0, 1, 0, 0, 0, 0, 0] ++ leBytes 4 p.qseq.toNat ++ List.replicate 52 0)))) ∧
    (∀ report s' ps, attest s (BitVec.ofNat 256 (p.field 8 32)) = some (report, s') →
      placesVia (fun a => translate s 0 n a .write) (p.field 40 8) report.length = .ok ps →
      exec .mboxAttestRequest s = .next (postMessage (admitPacket (saveAt s' ps report) n q p) n
        (replies ([3, 0, 0, 0] ++ leBytes 4 report.length ++ leBytes 4 p.qseq.toNat ++ List.replicate 52 0))))) ∧
  (p.type = 9 → tracectlFault s p = none → (partOf s n).trace.stalled = false →
    ∃ t, exec .tracectl s = .next t ∧
      let g := (partOf t n).trace
      (∀ c, g.cls.getLsbD c = (decide (c < 32) && (p.field 0 4).testBit c || decide (16 ≤ c ∧ c ≤ 19))) ∧ g.sampk = p.field 4 1 ∧
      (p.field 5 1 ≠ 2 → g.lossless = (p.field 5 1 == 1)) ∧ (p.field 5 1 = 2 → g.lossless = (partOf s n).trace.lossless) ∧
      (∀ k < 8, let w := p.field (8 + 4 * k) 4
        lookup {} g.src k = if k < p.field 6 1 then
          { base := w % 2 ^ 12, limit := w / 2 ^ 12 % 2 ^ 12, die := w / 2 ^ 24 % 2, anyDie := w.testBit 25, en := true }
        else {}) ∧
      g.head = (partOf s n).trace.head ∧ g.tail = (partOf s n).trace.tail)

/-! ### Completion, graphs, mailboxes, queue control (R55, R66, R72 to R75, R81, R82, R105, R129, R348) -/

/-- R72 to R74 and R103: a quiescent activation whose turn it is at the FGE, once its stores have performed at SYS, frees its tags, writes
its 32-byte record at CPLTAIL, with PHASE by the pass, advances CPLTAIL and LASTSEQ, and signals MSI-X if IRQ is set; while a token of
it lives, or the link keeps a store back, nothing happens. One that the paused FGE does not take waits in its die's FIFO of 256.
CPLHEAD releases what waits. -/
def Obligations.CompletionRecords : Prop :=
  ∀ (s : State) (n : Nat) (root : BitVec 16) (a : Activation) (ps : List Place),
  let q := a.queue
  let u := queueOf s n q
  let die := quietDie s n q
  let fifo (d : Nat) := s.fge.quiet.filter (·.1 == d)
  let first : Prop := s.fge.quiet.find? (·.2 == (n, root)) = none ∧ fifo die = [] ∨
    ∃ d, s.fge.quiet.find? (·.2 == (n, root)) = some (d, n, root) ∧ (fifo d).head? = some (d, n, root)
  (partOf s n).acts.find? (·.root == root) = some a →
  (liveOf s n root ≠ 0 → exec (.activationQuiescent n root) s = .next s) ∧
  (liveOf s n root = 0 → fgePaused s = true → s.fge.quiet.find? (·.2 == (n, root)) = none → (fifo die).length < 256 →
    exec (.activationQuiescent n root) s = .next { s with fge := { s.fge with quiet := s.fge.quiet ++ [(die, n, root)] } }) ∧
  (liveOf s n root = 0 → fgePaused s = true → s.fge.quiet.find? (·.2 == (n, root)) = none → 256 ≤ (fifo die).length →
    exec (.activationQuiescent n root) s = .next s) ∧
  (liveOf s n root = 0 → fgePaused s = false → first → releaseQueue s n q = none →
    exec (.activationQuiescent n root) s = .next s) ∧
  (∀ s1, liveOf s n root = 0 → fgePaused s = false → first → releaseQueue s n q = some s1 →
    hostHeld s1 ps = false → u.held = [] → cplReady s u = true → (u.cplTail - u.cplHead).toNat < 2 ^ u.cplLog2 →
    placesVia (fun x => translateRing s1 n u.cplHost u.cplPasid x .write) (u.cplBase + 32 * (u.cplTail.toNat % 2 ^ u.cplLog2)) 32 =
      .ok ps →
    let record : List Byte := leBytes 4 a.qseq.toNat ++ leBytes 4 a.hdrSeq.toNat ++
      [BitVec.ofNat 8 a.ring, 1, 0, if u.cplTail.toNat / 2 ^ u.cplLog2 % 2 = 0 then 1 else 0] ++
      leBytes 2 root.toNat ++ [0, 0] ++ leBytes 8 (tt s).toNat ++ leBytes 4 a.discard.toNat ++ [0, 0, 0, 0]
    ∃ t, exec (.activationQuiescent n root) s = .next t ∧
      let w := queueOf t n q
      let from_ := u.lastSeq + 1
      let open_ := (u.inFlight.filter fun p => p.qseq != a.qseq).map (·.qseq) ++ u.merged.map (·.qseq) ++ u.failed
      let d := (w.lastSeq - u.lastSeq).toNat
      t.mem = (saveAt s1 ps record).mem ∧ t.hostMem = (saveAt s1 ps record).hostMem ∧
      w.held = [] ∧ w.cplTail = u.cplTail + 1 ∧
      d ≤ (u.nextSeq - from_).toNat ∧ (∀ o ∈ open_, d ≤ (o - from_).toNat) ∧
      (d = (u.nextSeq - from_).toNat ∨ ∃ o ∈ open_, d = (o - from_).toNat) ∧
      (∀ x ∈ (partOf t n).acts, x.root ≠ root) ∧
      (∀ tg, (tagInfo s n tg).root = some root → (tagInfo t n tg).alloc = false ∧ (tagInfo t n tg).root = none) ∧
      (s.dev.linkUp = true → n = 0 ∨ featOn s 12 = true → t.dev.msix = s.dev.msix ++ if a.irq then [(n, u.cplVector)] else [])) ∧
  (∀ v, u.held = [] → exec (.cplheadWrite n q v) s = .next (modQueue s n q fun u => { u with cplHead := v })) ∧
  (∀ v r, hostHeld s ps = false → u.held = [r] → cplReady s u = true → (u.cplTail - v).toNat < 2 ^ u.cplLog2 →
    placesVia (fun x => translateRing s n u.cplHost u.cplPasid x .write) (u.cplBase + 32 * (u.cplTail.toNat % 2 ^ u.cplLog2)) 32 =
      .ok ps →
    ∃ t, exec (.cplheadWrite n q v) s = .next t ∧ (queueOf t n q).held = [] ∧ (queueOf t n q).cplHead = v ∧
      (queueOf t n q).cplTail = u.cplTail + 1)

/-- R66, R103, R105, R192 and R348: a load that a manager takes up and that finds the image sound keeps its configuration and completes its
RESIDE; one that does not ends the handle with CONFIG_INVALID, FAULT 0x30 with its DETAIL in the RESIDE's record, and stops the queue, one
in a ladder once that ends (log entry 11); while the FGE is paused the result waits for it; with every manager in another task a load
waits. An EVICT whose graph is quiet writes OOBCNT and TICKET back to every record of the image, in order, and ends the handle. -/
def Obligations.GraphLoadAndEviction : Prop :=
  ∀ (s : State) (n h : Nat),
  let g := graphOf s n h
  let taken : Prop := s.regions.any (fun x => x.2.task == some (.load n h)) = true ∨ (loadManager s).isSome = true
  let load := loadImage s ⟨n, g.addr, g.kept⟩ g.size
  let w := queueOf s n g.queue
  g.parkedPage = none → losslessNow s n = false → loadGiven s n h = false →
  (∀ c, fgePaused s = false → g.life = .loading → taken → load = .ok c → ∃ t, exec (.rmLoad n h) s = .next t ∧
    graphOf t n h = { g with life := .loaded, config := c, owed := false, kept := [] } ∧
    ∀ p ∈ (queueOf t n g.queue).inFlight, p.qseq ≠ g.qseq ∨ graphPacket s n g = none) ∧
  (∀ d, fgePaused s = false → g.life = .loading → taken → (load = .error (.bad d) ∨ (g.size < 208 ∧ d = headerDetail)) →
    ∃ t, exec (.rmLoad n h) s = .next t ∧ graphOf t n h = {} ∧ ∀ p, graphPacket s n g = some p →
      let v := queueOf t n g.queue
      (inLadder w = false → v.state = .error) ∧ (inLadder w = true → w.state ≠ .resetting → v.errorDue = true) ∧
      (w.state ≠ .error → w.errorDue = false → w.state ≠ .resetting → v.fault = 0x30 ∧ v.detail = BitVec.ofNat 32 d) ∧
      (cplReady s w = false → (∀ q < 4, waitingInject s n h q = none) → ∃ r, v.held = w.held ++ [r] ∧ r.qseq = p.qseq ∧ r.fault = 0x30 ∧ r.detail = BitVec.ofNat 32 d)) ∧
  (fgePaused s = true → g.life = .loading → taken →
    (∀ c, load = .ok c → exec (.rmLoad n h) s = .next (pushResult (endTask s (.load n h)) (.loaded n h c))) ∧
    ∀ d, load = .error (.bad d) → exec (.rmLoad n h) s = .next (pushResult (endTask s (.load n h)) (.failed n h d))) ∧
  (g.life = .loading → s.regions.any (fun x => x.2.task == some (.load n h)) = false → loadManager s = none →
    exec (.rmLoad n h) s = .next s) ∧
  (∀ (us : List State) (u : State), g.life = .evicting → graphQuiet s n h = true → fgePaused s = false → s.fge.results.contains (.evicted n h) = false →
    us.length = g.config.recs.length + 1 → us[0]? = some s → us.getLast? = some u →
    (∀ i k r v, g.config.recs[i]? = some (k, r) → us[i]? = some v →
      ∃ ps, placesVia (fun a => translate v 0 n a .write) (g.addr + g.config.recOff + 64 * k + 56) 8 = .ok ps ∧ hostHeld v ps = false ∧
        us[i + 1]? = some (saveAt v ps (leBytes 4 r.oobcnt.toNat ++ leBytes 4 r.ticket.toNat))) →
    ∃ t, exec (.evictDone n h) s = .next t ∧ graphOf t n h = {} ∧
      (graphPacket s n g = none → t.mem = u.mem ∧ t.hostMem = u.hostMem)) ∧
  (g.life = .evicting → graphQuiet s n h = false → exec (.evictDone n h) s = .next s)

/-- R75 and R408: MBXHEAD and MBXCTL are set, MBXCTL clears FAULTED, and a message that waits in the reserve then goes out as
the mailbox allows: it is written at MBXTAIL, which advances, and VECTOR is signalled. -/
def Obligations.MailboxRegisters : Prop :=
  ∀ (s : State) (n : Nat),
  let m := (partOf s n).mbx
  let put (f : Mailbox → Mailbox) : State := modPart s n fun p => { p with mbx := f p.mbx }
  (∀ v, m.reserve = [] → exec (.mbxheadWrite n v) s = .next (put fun m => { m with head := v })) ∧
  (∀ v, m.reserve = [] → exec (.mbxctlWrite n v) s = .next (put fun m => { m with
    log2 := v.toNat % 16, pasid := v.toNat / 2 ^ 4 % 2 ^ 20, host := v.getLsbD 24, faulted := false
    vector := v.toNat / 2 ^ 32 % 2 ^ 11 })) ∧
  (∀ v msg ps, m.reserve = [msg] → msg.completes = none → 4 ≤ m.log2 → m.log2 ≤ 12 → m.faulted = false → m.parked = none →
    (m.tail - v).toNat < 2 ^ m.log2 → m.host = false → hostHeld s ps = false →
    placesVia (fun a => translate s 0 n a .write) (m.base + 64 * (m.tail.toNat % 2 ^ m.log2)) 64 = .ok ps →
    ∃ t, exec (.mbxheadWrite n v) s = .next t ∧ (partOf t n).mbx = { m with head := v, tail := m.tail + 1, reserve := [] } ∧
      t.mem = (saveAt s ps msg.bytes).mem ∧
      (s.dev.linkUp = true → n = 0 ∨ featOn s 12 = true → t.dev.msix = s.dev.msix ++ [(n, m.vector)]) ∧
      (n ≠ 0 → featOn s 12 = false → t.dev.msix = s.dev.msix))

/-- R55, R81, R82 and R129: ENABLE starts a valid idle queue afresh, and clearing it stops fetch and admission while admitted
activations go on; CMD resume lets a saved queue run again; CMD reset shows RESETTING with ENABLE 0 and LASTSEQ as it was, and ends IDLE
with RUNG 0; HOLD takes a partition's queues from rung 2, and one enabled under it is kept SAVED. That a fault which comes in the ladder
shows ERROR once the ladder ends (errorDue) is the model's reading (log entry 11). -/
def Obligations.QueueControl : Prop :=
  ∀ (s : State) (n q : Nat),
  let u := queueOf s n q
  let idle : Prop := (∀ a ∈ (partOf s n).acts, a.queue ≠ q)
  (∀ v, u.enable = false → plainState u = true → u.inFlight = [] → idle → v.getLsbD 0 = true →
    1 ≤ v.toNat / 2 ^ 4 % 2 ^ 7 → v.toNat / 2 ^ 4 % 2 ^ 7 ≤ 64 → 4 ≤ u.cplLog2 → u.cplLog2 ≤ 16 →
    u.cplBase % (32 * 2 ^ u.cplLog2) = 0 →
    ∃ t, exec (.qctlEnableSet n q v) s = .next t ∧
      let w := queueOf t n q
      w.enable = true ∧ w.prio.toNat = v.toNat / 2 % 8 ∧ w.nrings = v.toNat / 2 ^ 4 % 2 ^ 7 ∧ w.lastSeq = 0xFFFFFFFF#32 ∧
      w.nextSeq = 0 ∧ w.cplHead = 0 ∧ w.merged = [] ∧ (u.held = [] → w.cplTail = 0) ∧
      ((partOf s n).hold = true → w.state = .saved) ∧ ((partOf s n).hold = false → u.held = [] → w.state = .idle) ∧
      ∀ i, (ringOf t n q i).rhead = 0 ∧ (ringOf t n q i).prod = 0 ∧ (ringOf t n q i).base = (ringOf s n q i).base ∧
        (ringOf t n q i).rlog2 = (ringOf s n q i).rlog2) ∧
  (u.enable = true → ∃ t, exec (.qctlEnableClear n q) s = .next t ∧
    let w := queueOf t n q
    w.enable = false ∧ w.merged = [] ∧ (∀ i, (ringOf t n q i).fetched = []) ∧ w.lastSeq = u.lastSeq ∧
    (partOf t n).acts = (partOf s n).acts ∧ queueGoes t n q = false) ∧
  ((u.state = .saved ∨ u.state = .recovery) → (partOf s n).hold = false → u.held = [] → ∃ t,
    exec (.qctlCmdResume n q) s = .next t ∧ (contexts s n q = [] → idle → (queueOf t n q).rung = 0) ∧
      (u.errorDue = false → (queueOf t n q).state = .run ∧ (queueOf t n q).fault = 0) ∧
      (u.errorDue = true → (queueOf t n q).fault = u.fault ∧ (contexts s n q = [] → idle → (queueOf t n q).state = .error))) ∧
  (u.held = [] → ∃ t, exec (.qctlCmdReset n q) s = .next t ∧
    let w := queueOf t n q
    let z := queueOf (doInner t (.resetDone n q)) n q
    w.state = .resetting ∧ w.enable = false ∧ w.fault = 0 ∧ w.lastSeq = u.lastSeq ∧ w.inFlight = [] ∧ w.merged = [] ∧
    (∀ a ∈ (partOf t n).acts, a.queue ≠ q) ∧ regionsOf t n q = [] ∧ z = { w with state := .idle, rung := 0 }) ∧
  ((partOf s n).hold = false → q < 4 → ∃ t, exec (.partcfgHoldSet n) s = .next t ∧ (partOf t n).hold = true ∧
    (plainState u = true → u.savedCtx = false →
      (queueOf t n q).state = if regionsOf s n q = [] then .saved else .saving)) ∧
  exec (.partcfgHoldClear n) s = .next (modPart s n fun p => { p with hold := false })

/-! ### Data rings (R83 to R101) -/

/-- R81, R83 to R85, R90 and R101: a data ring's doorbell, its start and its stop, with P taken to the consumed count, resume after
a save, with its queue's restore where that is still away, and reset, which shows RESETTING and ends IDLE. R150: a doorbell behind one that waits for trace room waits. -/
def Obligations.DataRingControl : Prop :=
  ∀ (s : State) (n d : Nat) (v : BitVec 32) (c : BitVec 64),
  let r := dringOf s n d
  let field (lo w : Nat) : Nat := c.toNat / 2 ^ lo % 2 ^ w
  (r.bells = [] → (v - r.p).toNat ≤ 2 ^ r.rlog2 →
    exec (.dataDoorbellWrite n d v) s = .next (modDring s n d fun r => { r with prod := v })) ∧
  (r.bells ≠ [] → (v - r.p).toNat ≤ 2 ^ r.rlog2 →
    exec (.dataDoorbellWrite n d v) s = .next (modDring s n d fun r => { r with bells := r.bells ++ [v] })) ∧
  (r.bells = [] → losslessNow s n = false → 2 ^ r.rlog2 < (v - r.p).toNat → exec (.dataDoorbellWrite n d v) s = .next
    (emitEvent (modDring s n d fun r => { r with doorbellErrors := r.doorbellErrors + 1 }) r.unit 0x690 4 3 n d)) ∧
  (r.enable = false → plainRing r = true → r.parkedPage = none → r.tag = none → r.closings = [] → s.dev.featAct.getLsbD 7 = true →
    c.getLsbD 0 = true → 4 ≤ field 6 5 → field 6 5 ≤ 16 → field 2 4 ≤ 10 → r.rowLen % 8 = 0 → 8 ≤ r.rowLen → r.rowLen ≤ 16384 →
    r.graph ≠ 0 →
    ∃ t, exec (.drctlEnableSet n d c) s = .next t ∧
      let w := dringOf t n d
      w.enable = true ∧ w.p = 0 ∧ w.prod = 0 ∧ w.fetch = 0 ∧ w.unit = field 1 1 ∧ w.pubk = field 2 4 ∧ w.rlog2 = field 6 5 ∧
      w.host = c.getLsbD 11 ∧ w.pasid = field 12 20 ∧ w.f32 = c.getLsbD 32 ∧ w.marks = c.getLsbD 33 ∧ w.base = r.base) ∧
  (r.enable = true → exec (.drctlEnableSet n d c) s = .next s) ∧
  (r.enable = true → ∃ t, exec (.drctlEnableClear n d) s = .next t ∧
    let w := dringOf t n d
    w.enable = false ∧ w.p = r.consumed ∧ w.packet = none ∧ dringGoes t n w = false) ∧
  ((r.state = .saved ∨ r.state = .recovery) → (partOf s n).hold = false →
    let away := (queueOf s n (graphOf s n r.graph).queue).savedCtx
    (away = false →
      exec (.drctlCmdResume n d) s = .next (modDring s n d fun r => { r with state := .idle, rung := 0, fault := 0, held := false })) ∧
    (away = true →
      exec (.drctlCmdResume n d) s = .next (modDring s n d fun r => { r with state := .saved, rung := 2, held := false }))) ∧
  (∃ t, exec (.drctlCmdReset n d) s = .next t ∧
    let w := dringOf t n d
    let u := doInner t (.ringResetDone n d)
    let z := dringOf u n d
    w.enable = false ∧ w.state = .resetting ∧ w.rung = 3 ∧ w.fault = 0 ∧ w.packet = none ∧ (r.enable = true → w.p = r.consumed) ∧
    (losslessNow s n = false → z.enable = false ∧ z.state = .idle ∧ z.rung = 0 ∧ z.fault = 0 ∧ z.tag = none ∧ z.closings = [] ∧
      ∀ tg ∈ r.tag.toList ++ r.closings, (tagInfo u n tg).alloc = false))

/-- R87, R88, R90, R92 to R94, R96, R97 and R99: a stream opens with a tag, its graph's regions acquiring at SYS, and binds to the targets
of its launch entries, DENT and, with MARKS 1, MENT, or faults CONFIG_INVALID; SPAN delivers the
entry that the shuffle names, SAMPLE its own bytes, packed next-fit: in the open row where the sample fits, in the next one where it fits
only there, the open row being padded, and over rows where it fits in none; a row goes out as packets of 8 lanes, with its marks; FLUSH closes
the open row, padded, and sends EOS; a consumed packet
advances the consumed count, and P by PUBK or PUB; and a stream whose tag is quiescent, once its stores have performed at SYS, frees it and
counts in STREAMS. -/
def Obligations.DataStreams : Prop :=
  ∀ (s : State) (n d : Nat) (bs : List Byte),
  let r := dringOf s n d
  let body (off k : Nat) : Nat := leNat ((bs.drop (8 + off)).take k)
  let elts (raw : List (Byte × Bool)) : List SampleElt :=
    (chunks 4 (raw.length / 4) raw).map fun w => (BitVec.ofNat 32 (leNat (w.map (·.1))), true, w.any (·.2))
  let packed (raw : List (Byte × Bool)) : State :=
    let x := packSample (r.packer.getD { rowLen := r.rowLen }) (elts raw)
    sendRingRows n d (modDring s n d fun r => { r with packer := some x.1 }) x.2
  (∀ tg s1, s.hand = (n, d) → r.packet = some bs → r.delivered = false → r.tag = none → dringGoes s n r = true →
    losslessNow s n = false → newTag s n (fun u => { alloc := true, link := u, head := u }) = some (tg, s1) →
    (graphOf s n r.graph).life ≠ .free →
    let g := graphOf s1 n r.graph
    let acquired : State := g.places.foldl (fun s p => (regionsUnder g.config p).foldl (fun s r => acquire s r 3) s) s1
    exec .streamOpen s = .next (emitEvent (modDring acquired n d fun r => { r with tag := some tg, opening := true, stallAt := none })
      r.unit 0x690 4 0 n d)) ∧
  (s.hand = (n, d) → losslessNow s n = false → r.opening = true → (plainRing r = true ∨ r.state = .draining) →
    (graphOf s n r.graph).life = .loaded →
    let launch (k : Nat) : Option Launch := (graphOf s n r.graph).config.launch[k]?
    let unfit (k : Nat) : Prop := ∀ l, launch k = some l → launchStrm (graphOf s n r.graph).config l = false
    (unfit r.dent ∨ (r.marks = true ∧ unfit r.ment)) → fgePaused s = false → exec .streamBind s = .next (dringFault s n d 0x30)) ∧
  (∀ l m pl, s.hand = (n, d) → losslessNow s n = false → r.opening = true → (plainRing r = true ∨ r.state = .draining) → r.closeNext = false →
    (r.marks = true → (graphOf s n r.graph).config.launch[r.ment]? = some m ∧ launchStrm (graphOf s n r.graph).config m = true) →
    (graphOf s n r.graph).life = .loaded → (graphOf s n r.graph).config.launch[r.dent]? = some l →
    launchStrm (graphOf s n r.graph).config l = true →
    ((List.range 4).findSome? fun q => readyPlace s n q r.graph) = some pl →
    let target (l : Launch) : Dest := .slot (elemAt pl.cluster (pl.x0 + l.x) (pl.y0 + l.y)) l.slot l.field .keep true
    ∃ t marks, exec .streamBind s = .next t ∧ (dringOf t n d).opening = false ∧ (dringOf t n d).bound = some (target l, marks) ∧
      (r.marks = true → marks = target m)) ∧
  (∀ raw, AtRing s n d 0x22 bs → r.samplePos = 0 → dringRead s n r (body 0 8) (4 * body 8 4) = .ok raw →
    exec .sample s = .next (modDring (packed raw) n d fun r => { r with delivered := true })) ∧
  (∀ e raw, AtRing s n d 0x21 bs → r.samplePos = 0 →
    dringRead s n r (body 0 8 + 16 * shidx (body 16 4) (shuffleKeys (body 8 8) (body 28 4)) (body 20 4 + r.spanPos)) 16 = .ok e →
    let entry := e.map (·.1)
    let addr := leNat (entry.take 8)
    let len := leNat ((entry.drop 8).take 4)
    let past (r : DataRing) : DataRing := { r with spanPos := r.spanPos + 1, delivered := r.spanPos + 1 == body 24 4 }
    ((addr % 4 ≠ 0 ∨ len = 0 ∨ 32767 < len ∨ leNat ((entry.drop 12).take 4) ≠ 0) → ∃ t, exec .span s = .next t ∧
      dringOf t n d = past { r with skip := satAdd r.skip 1 } ∧ t.net = s.net) ∧
    (addr % 4 = 0 → 1 ≤ len → len ≤ 32767 → leNat ((entry.drop 12).take 4) = 0 → dringRead s n r addr (4 * len) = .ok raw →
      ∃ t, exec .span s = .next t ∧ t = modDring (packed raw) n d past)) ∧
  (∀ (p : Packer) (es : List SampleElt), p.row.length < p.rowLen → es ≠ [] →
    let k := es.length
    let f := p.row.length
    let q : Packer := { p with seg := 0, row := [], rows := p.rows + 1 }
    let one := p.row ++ es.mapIdx fun pos x => marked false (p.seg + 1) pos x
    (f + k < p.rowLen → packSample p es = ({ p with seg := p.seg + 1, row := one }, [])) ∧
    (f + k = p.rowLen → packSample p es = (q, [(p.rows, one)])) ∧
    (p.rowLen < f + k → k ≤ p.rowLen →
      packSample p es = ((packSample q es).1, (p.rows, p.row ++ padding (p.rowLen - f)) :: (packSample q es).2)) ∧
    (p.rowLen < k →
      let all := p.row ++ es.mapIdx fun pos x => if pos < p.rowLen - f then marked false (p.seg + 1) pos x else marked true 1 pos x
      let n := (f + k) / p.rowLen
      packSample p es = ({ p with rows := p.rows + n, row := all.drop (n * p.rowLen), seg := if (f + k) % p.rowLen = 0 then 0 else 1 },
        (List.range n).map fun i => (p.rows + i, (all.drop (i * p.rowLen)).take p.rowLen))) ∧
    (p.row = [] → flushRow p = (p, [])) ∧ (p.row ≠ [] → flushRow p = (q, [(p.rows, p.row ++ padding (p.rowLen - f))]))) ∧
  (∀ (rows : List (Nat × List PackElt)) (data marks : Dest), r.bound = some (data, marks) → (∀ e, data ≠ .drop e) → (∀ e, marks ≠ .drop e) →
    (∀ x ∈ rows, x.2.length % 8 = 0) →
    let place (dst : Dest) : Nat := match dst with | .slot el _ _ _ _ => el | _ => 0
    let send (dst : Dest) (x : Token) : Flight :=
      { tok := applyVsel (destVsel dst) { x with
          tag := r.tag.getD 0, ctx := n, v := versionAt s n r.graph dst,
          floor := if elemDie (place dst) = r.unit then 0 else dieTT s r.unit + 1 }
        dest := dst, src := place dst }
    let packets (l : List PackElt) : List (List PackElt) := (List.range (l.length / 8)).map fun i => (l.drop (8 * i)).take 8
    let sends (x : Nat × List PackElt) : List Flight :=
      (packets x.2).map (fun es => send data {
        fmt := if r.f32 then .f32 else .i32, lanes := es.map fun e => if e.valid then e.word else 0,
        mask := maskFrom (es.map (·.valid)), seq := BitVec.ofNat 12 x.1, poison := es.any (·.poison) }) ++
      if r.marks then (packets x.2).map (fun es => send marks { lanes := es.map (·.mark), mask := 0xFF, seq := BitVec.ofNat 12 x.1 }) else []
    sendRingRows n d s rows = { s with net := s.net ++ rows.flatMap sends }) ∧
  (∀ tg, AtRing s n d 0x23 bs → r.tag = some tg → ∃ t, exec .flush s = .next t ∧
    let w := dringOf t n d
    w.tag = none ∧ w.bound = none ∧ w.closings = r.closings ++ [tg] ∧ w.delivered = true ∧
    (∀ data marks, r.bound = some (data, marks) → r.marks = false → (∀ e, data ≠ .drop e) → ∃ f, t.net.getLast? = some f ∧
      f.dest = data ∧ f.tok.kind = .eos ∧ f.tok.tag = tg) ∧
    (∀ data marks, r.bound = some (data, marks) → (∀ e, data ≠ .drop e) → (∀ e, marks ≠ .drop e) →
      let rows := sendRingRows n d s (flushRow (r.packer.getD { rowLen := r.rowLen })).2
      ∃ ends, t.net = rows.net ++ ends ∧ ends.map (fun f => (f.dest, f.tok.kind, f.tok.tag)) =
        (data, .eos, tg) :: if r.marks then [(marks, .eos, tg)] else [])) ∧
  (s.hand = (n, d) → r.delivered = true → r.parkedPage = none → r.pubs = [] →
    let c := r.consumed + 1
    let due : Prop := c.toNat % 2 ^ r.pubk = 0 ∨ (leNat ((r.packet.getD []).take 8)).testBit 8 = true
    let past (p : BitVec 32) : State := modDring s n d fun r => { r with
      consumed := c, fetch := r.fetch + 1, packet := none, delivered := false, spanPos := 0, samplePos := 0, p := p }
    (¬ due → exec .dataPacketConsumed s = .next (past r.p)) ∧
    (due → r.pubAddr = 0 → exec .dataPacketConsumed s = .next (past c)) ∧
    (∀ ps, due → r.pubAddr ≠ 0 → r.p ≠ c → r.pubPage = none → r.host = false →
      (ps.any (·.host) = true → s.dev.linkUp = true ∧ r.state ≠ .linkLost ∧ r.state ≠ .recovery) →
      placesVia (fun a => translate s r.unit n a .write) r.pubAddr 4 = .ok ps →
      ∃ t, exec .dataPacketConsumed s = .next t ∧ t.mem = (saveAt s ps (leBytes 4 c.toNat)).mem ∧ (dringOf t n d).p = c)) ∧
  (∀ tg rest, s.hand = (n, d) → r.closings = tg :: rest → liveCount s n tg = 0 → releaseQueue s n (dringQueue s n r) = none →
    exec .streamComplete s = .next s) ∧
  (∀ tg rest u, s.hand = (n, d) → losslessNow s n = false → r.closings = tg :: rest → liveCount s n tg = 0 → r.state ≠ .resetting →
    releaseQueue s n (dringQueue s n r) = some u → ∃ t, exec .streamComplete s = .next t ∧ (dringOf t n d).closings = rest.filter (· != tg) ∧
      (dringOf t n d).streams = r.streams + 1 ∧ (tagInfo t n tg).alloc = false ∧ t.mem = u.mem ∧ t.hostMem = u.hostMem ∧
      (s.dev.linkUp = true → n = 0 ∨ featOn s 12 = true → t.dev.msix = s.dev.msix ++ if r.irqEn then [(n, r.vector)] else []))

/-- R95: shidx is a bijection on the numbers below n, whatever the round keys. -/
def Obligations.ShuffleIsBijection : Prop :=
  ∀ (n : Nat) (ks : List Word), 1 ≤ n → n ≤ 2 ^ 32 →
    (∀ i < n, shidx n ks i < n) ∧ (∀ i < n, ∀ j < n, shidx n ks i = shidx n ks j → i = j) ∧
    (∀ y < n, ∃ i < n, shidx n ks i = y)

/-! ### Scheduling, the ladder, faults (R103 to R109, R118 to R133) -/

/-- R108, R118, R119, R121 to R126: a free region goes to the queue whose turn it is; a drain that has ended releases its
regions, and one that has not by T1 goes on to rung 2; a frozen region's context is exchanged with its shadow banks, and with
the last one the queue is SAVED, the FGE taking the manager's result once it is not paused; one that has not by T2 goes to
rung 3; and a saved queue whose regions suit its contexts is restored and runs at rung 0. That a queue which an ERROR overtakes
in its ladder, or that enters the ladder in ERROR, shows ERROR at its end (errorDue) is the model's reading: notes/assumptions/11. -/
def Obligations.LadderRungs : Prop :=
  ∀ (s : State) (n q r : Nat),
  let u := queueOf s n q
  let g := regionOf s r
  let since := (tt s - u.rungAt).toNat
  let busy : Prop := ∃ a ∈ (partOf s n).acts, a.queue = q
  (1 ≤ n → n ≤ 24 → r < 24 → q < 4 → fgePaused s = false → wantsRegion s n q = true → mayHold s n r = true →
    belowMax s n = true → suits s n q r = true → g.owner = 0 → turnOf s r = some (n, q) →
    ∃ t, exec (.regionGrant r n q) s = .next t ∧
      let w := regionOf t r
      let z := doInner t (.cleared r)
      w.owner = n ∧ w.queue = q ∧ w.time = 0 ∧
      (g.last = 0 ∨ g.last = n → w.last = n ∧
        w.state = if u.savedCtx then .restoring else if placesIn s r = [] then .loading else .run) ∧
      (g.last ≠ 0 → g.last ≠ n → w.last = g.last ∧ w.state = .clearing ∧
        (g.task = none → .cleared r ∉ s.fge.results → (regionOf z r).owner = n ∧ (regionOf z r).last = n ∧ (regionOf z r).state ≠ .clearing ∧
          ∀ el, elemRegion el = r → elemOf z el = {}))) ∧
  (∀ us, (fgePaused s = true ∨ uncharged s < us → exec (.quantumCharge us) s = .next s) ∧
    (fgePaused s = false → us ≤ uncharged s → ∃ t, exec (.quantumCharge us) s = .next t ∧
      (r < 24 → 1 ≤ g.owner → g.owner ≤ 24 → g.queue < 4 →
        (regionOf t r).time = if g.state = .draining ∨ g.state = .saving then g.time else g.time + BitVec.ofNat 32 us))) ∧
  (s.hand = (n, q) → u.state = .draining →
    (busy ∨ fgePaused s = true → exec .drainComplete s = .next s) ∧
    (¬ busy → fgePaused s = false → noStreams s n q = true → (partOf s n).hold = false → ∃ t, exec .drainComplete s = .next t ∧
      (queueOf t n q).state = (if u.errorDue then .error else .run) ∧ (queueOf t n q).rung = 1 ∧ regionsOf t n q = []) ∧
    (fgePaused s = false → (partOf s n).trace.stalled = false → u.t1lim * 16000 ≤ since → ∃ t, exec .t1Deadline s = .next t ∧
      (queueOf t n q).state = if regionsOf s n q = [] then .saved else .saving) ∧
    (since < u.t1lim * 16000 → exec .t1Deadline s = .next s)) ∧
  (s.hand = (n, q) → u.state = .saving →
    (fgePaused s = false → (partOf s n).trace.stalled = false → u.t2lim * 16000 ≤ since → ∃ t, exec .t2Deadline s = .next t ∧
      let w := queueOf t n q
      w.state = .error ∧ w.rung = 3 ∧ w.fault = 0 ∧ (∀ a ∈ (partOf t n).acts, a.queue ≠ q) ∧ regionsOf t n q = []) ∧
    (since < u.t2lim * 16000 → exec .t2Deadline s = .next s)) ∧
  (r < 24 → n ≠ 0 → g.owner = n → g.queue = q → g.state = .saving → boundariesReached s n q r = true →
    g.task = none → portsQuiet s n r = true → heldQuiet s r = true → .saved r ∉ s.fge.results →
    ∃ t c, exec (.shadowExchange r) s = .next t ∧ (regionOf t r).shadow = some c ∧ c.part = n ∧ c.queue = q ∧ c.region = r ∧
      (partOf t n).acts = (partOf s n).acts ∧
      (fgePaused s = true → (regionOf t r).owner = n ∧ (regionOf t r).state = .saving ∧ t.fge.results = s.fge.results ++ [.saved r]) ∧
      (fgePaused s = false → exchangePartner (settleStores s r) r = none → (regionOf t r).owner = 0 ∧ (regionOf t r).state = .free ∧
        (regionsOf s n q = [r] → (queueOf t n q).state = .saved ∧ (queueOf t n q).rung = 2)) ∧
      (∀ b, exchangePartner (settleStores s r) r = some b →
        (regionOf t r).owner = b.part ∧ (regionOf t r).queue = b.queue ∧ (regionOf t r).loaded = some b)) ∧
  (∀ h, s.hand = (n, q) → restoreWanted s n q = true → regionsOf s n q ≠ [] → fgePaused s = false →
    restoreMoves s n q = some h →
    ∃ t, exec .queueRestore s = .next t ∧ (queueOf t n q).rung = 0 ∧ (queueOf t n q).savedCtx = false ∧ contexts t n q = [] ∧
      (queueOf t n q).state = if (partOf s n).hold then .saving else if u.errorDue then .error else .run)

/-- R103, R127, R128, R130 and R70: the FGE takes the oldest fault. A fault of a tag that an activation owns, with one of the
owner's codes, takes that activation's queue to rung 3, with FAULT the code, and leaves the others as they are; the
partition's codes take every queue there; a packet's or a data ring's takes its queue or ring to ERROR with the code and the DETAIL of
the first; XLATE takes none, its access being parked. The watchdogs raise SPILL_DEADLOCK and TAG_STALL after 10 ms; a paused FGE
takes nothing. -/
def Obligations.FaultsAreTaken : Prop :=
  ∀ (s : State) (n q : Nat),
  let atRung3 (t : State) (q : Nat) (code : Byte) : Prop :=
    (queueOf t n q).state = .error ∧ (queueOf t n q).rung = 3 ∧ (queueOf t n q).fault = code ∧
      (∀ a ∈ (partOf t n).acts, a.queue ≠ q) ∧ regionsOf t n q = []
  let there (q : Nat) : Prop := (queueOf s n q).rung = 3 ∧ ((queueOf s n q).state = .resetting ∨ (queueOf s n q).state = .error)
  let later (rest : List FaultTok) (t : State) : Prop := ∃ more, t.faults = rest ++ more ∧ ∀ x ∈ more, x.code = 0x10
  (∀ f rest, s.faults = f :: rest → fgePaused s = true → exec .faultToken s = .next s) ∧
  (∀ f rest, s.faults = f :: rest → fgePaused s = false → f.code = 0x10 → f.ring = none →
    exec .faultToken s = .next (faultEvent { s with faults := rest } f.part 0x10 ((f.tag.map (·.toNat)).getD 0) f.region f.floor)) ∧
  (∀ f rest, s.faults = f :: rest → fgePaused s = false → f.part = n → f.ring = none → f.queue = some q →
    f.code ∈ [0x30#8, 0x31#8, 0x32#8, 0x33#8] → inLadder (queueOf s n q) = false →
    ∃ t, exec .faultToken s = .next t ∧ later rest t ∧ (queueOf t n q).state = .error ∧
      ((queueOf s n q).state ≠ .error → (queueOf s n q).errorDue = false →
        (queueOf t n q).fault = f.code ∧ (queueOf t n q).detail = f.detail)) ∧
  (∀ f rest d, s.faults = f :: rest → fgePaused s = false → f.part = n → f.ring = some d → (dringOf s n d).state ≠ .resetting →
    ∃ t, exec .faultToken s = .next t ∧ later rest t ∧ (dringOf t n d).state = .error ∧ (dringOf t n d).fault = f.code ∧
      (dringOf t n d).detail = f.detail) ∧
  (∀ f rest tag, s.faults = f :: rest → fgePaused s = false → f.part = n → f.ring = none → f.tag = some tag → ownerQueue s n tag = some q →
    f.code ∈ [0x01#8, 0x02#8, 0x03#8, 0x20#8, 0x23#8] → ¬ there q →
    ∃ t, exec .faultToken s = .next t ∧ later rest t ∧ atRung3 t q f.code ∧
      ∀ q' ≠ q, (queueOf t n q').state = (queueOf s n q').state ∧ (queueOf t n q').rung = (queueOf s n q').rung) ∧
  (∀ f rest, s.faults = f :: rest → fgePaused s = false → f.part = n → f.ring = none → f.code ∈ [0x11#8, 0x12#8, 0x21#8, 0x22#8] → f.queue = none →
    ∃ t, exec .faultToken s = .next t ∧ later rest t ∧ ∀ q < 4, ¬ there q → atRung3 t q f.code) ∧
  (fgePaused s = false → watched s n = true → 160000000 ≤ (tt s - (partOf s n).progressAt).toNat → ∃ t, exec (.spillWatchdog n) s = .next t ∧
    ∀ q < 4, ¬ there q → atRung3 t q 0x21) ∧
  (fgePaused s = true ∨ (tt s - (partOf s n).progressAt).toNat < 160000000 → exec (.spillWatchdog n) s = .next s) ∧
  (∀ at_, s.hand = (n, q) → q < 4 → (partOf s n).trace.stalled = false →
    ((queueOf s n q).stallAt = some at_ → queueGoes s n q = true → 160000000 ≤ (tt s - at_).toNat →
      ∃ t, exec .tagStallWatchdog s = .next t ∧ atRung3 t q 0x23) ∧
    ((queueOf s n q).fireStallAt = some at_ → fgePaused s = false → 160000000 ≤ (tt s - at_).toNat → ¬ there q →
      ∃ t, exec .tagStallWatchdog s = .next t ∧ atRung3 t q 0x23 ∧ (queueOf t n q).detail = (queueOf s n q).fireStallPos) ∧
    ((queueOf s n q).stallAt = some at_ → (queueOf s n q).fireStallAt = none → (tt s - at_).toNat < 160000000 →
      exec .tagStallWatchdog s = .next s)) ∧
  (∀ d at_, s.hand = (n, d + 4) → (partOf s n).trace.stalled = false → (dringOf s n d).stallAt = some at_ →
    160000000 ≤ (tt s - at_).toNat → (dringOf s n d).state ≠ .resetting → ∃ t, exec .tagStallWatchdog s = .next t ∧
      (fgePaused s = false → (dringOf t n d).state = .error ∧ (dringOf t n d).fault = 0x23) ∧
      (fgePaused s = true → (dringOf t n d).state = (dringOf s n d).state ∧
        ∃ f ∈ t.faults, f.code = 0x23 ∧ f.part = n ∧ f.ring = some d))

/-! ### The manager's tasks (R110 to R117) -/

/-- R105, R110, R111, R114, R116, R117: the manager, between two tasks, places a waited-for graph at the first origin accepted, in a version whose count
there is zero, within the regions its queue holds; a stage that no origin takes joins, swapped out, the stages of its queue on one
footprint; an absent entry that is awaited arrives with the value the image gives it;
and a stage whose input is empty leaves for the one with most entries, which takes its version. -/
def Obligations.ManagerTasks : Prop :=
  ∀ (s : State) (n h : Nat),
  let g := graphOf s n h
  losslessNow s n = false →
  (∀ q p vs v, q < 4 → (∀ q' < 4, q' ≠ q → injectWaits s n q' h = false ∧ openingWaits s n q' h = false) →
    placeWanted s n q h = true → findOrigin s n q g.config = some (p, vs) → (∀ r ∈ regionsUnder g.config p, (regionOf s r).task = none) →
    vs.find? (fun v => (regionsUnder g.config p).all fun r => versionFree s r v) = some v →
    ∃ t p', exec (.rmPlace n h) s = .next t ∧ (graphOf t n h).places = g.places ++ [p'] ∧ p'.cluster = p.cluster ∧
      p'.x0 = p.x0 ∧ p'.y0 = p.y0 ∧ p'.v = v ∧ p'.queue = q ∧
      ∀ r ∈ regionsUnder g.config p', (regionOf t r).owner = n ∧ (regionOf t r).queue = q) ∧
  (∀ q p, q < 4 → (∀ q' < 4, q' ≠ q → injectWaits s n q' h = false ∧ openingWaits s n q' h = false) →
    placeWanted s n q h = true → findOrigin s n q g.config = none → stagePlace s n q g.config = some p →
    ∃ t p', exec (.rmPlace n h) s = .next t ∧ (graphOf t n h).places = g.places ++ [p'] ∧ p'.cluster = p.cluster ∧
      p'.x0 = p.x0 ∧ p'.y0 = p.y0 ∧ p'.queue = q ∧ p'.swapped = true) ∧
  ((∀ q < 4, placeWanted s n q h = false) → exec (.rmPlace n h) s = .next s) ∧
  (∀ el entry c p tab, (elemOf s el).absent.contains entry = true → entryAwaited (elemOf s el) entry = true →
    entrySource s el entry = some (c, p, tab) → regionRuns s (elemRegion el) (cfgPart c) = true → reportable s (cfgPart c) = true →
    (regionOf s (elemRegion el)).task = none →
    ∀ i ∈ [Instr.configEntryFetched el entry, .rmFetch el entry], ∃ t, exec i s = .next t ∧ entry ∉ (elemOf t el).absent ∧
      match entry with
      | .slot v k => lookup 0 (elemOf t el).instr (key16 v k) = lookup 0 tab.slots k
      | .lit v k => lookup 0 (elemOf t el).lits (key16 v k) = lookup 0 tab.lits k
      | .attr v k => lookup 0 (elemOf t el).attrs (key16 v k) = lookup 0 tab.attrs k
      | .route v k => lookup 0 (elemOf t el).routes (key64 v k) = boundRoute p (lookup 0 tab.routes k)) ∧
  (∀ p, stageOf s n h = some p → p.swapped = false → inputIdle s g.config p = true → stageWaiters s n g.config p ≠ [] →
    exec (.stageInputIdle n h) s = .next (modGraph s n h fun g => { g with idle := true })) ∧
  (∀ p inn, stageOf s n h = some p → p.swapped = false → regionRuns s (originRegion p) n = true →
    (regionOf s (originRegion p)).task = none →
    (g.yielded = true ∨ (g.idle = true ∧ inputIdle s g.config p = true)) → nextStage (stageWaiters s n g.config p) = some inn →
    ∃ t, exec (.rmStageSwap n h inn) s = .next t ∧ ∀ p ∈ (graphOf t n h).places, p.swapped = true) ∧
  (∀ p inn p', stageOf s n h = some p → p.swapped = true → regionRuns s (originRegion p) n = true → stageOf s n inn = some p' →
    (regionOf s (originRegion p)).task = some (.swap n h inn) → p'.swapped = true → p.queue = p'.queue →
    sameFootprint (g.config, p) ((graphOf s n inn).config, p') = true → versionFree s (originRegion p) p.v = true →
    stageTaken s n (graphOf s n inn).config { p' with v := p.v } = false →
    ∃ t, exec (.rmStageSwap n h inn) s = .next t ∧ stageOf t n inn = some { p' with v := p.v, swapped := false } ∧
      (graphOf t n inn).parkedTokens = [])

/-! ### Translation and memory controllers (R197 to R203) -/

/-- R197 to R201: a walk fills the TLB; the resolution of a manager between two tasks writes the entry it is given, and no other
byte; a resolved page's accesses are retried, and a fault given up makes them PERM; the host's answers are cached; its
invalidation drops a translation once every access that used it has performed; TLBINV drops translations, and its bit 63 reads 1
until every access that used one of those has performed; and an uncorrectable error poisons its granule. -/
def Obligations.TranslationEvents : Prop :=
  ∀ (s : State) (n page : Nat),
  let waits (r : MemReq) : Prop := reqPart r = n ∧ r.parked = some page
  (∀ die pte level, (partOf s n).ptEn = true → walk s n (page * 4096 % 2 ^ 57) = .leaf pte level →
    exec (.translationWalk ⟨die, n⟩ page) s =
      .next { s with tlb := store s.tlb (2 ^ 51 * die + 2 ^ 45 * n + page * 4096 % 2 ^ 57 / 4096) (some (pte, level)) }) ∧
  (∀ f w, (loadManager s).isSome = true → faultOf s n page = some f → 0 < f.pteAddr → f.pteHost = true ∨ lostAt s f.pteAddr = false → s.memOk = true →
    let held (s : State) := memOf s f.pteHost
    ∃ t, exec (.rmResolve n page (some w)) s = .next t ∧ readBytes (held t) f.pteAddr 8 = leBytes 8 w.toNat ∧
      (∀ a, a < f.pteAddr ∨ f.pteAddr + 8 ≤ a → readByte (held t) a = readByte (held s) a) ∧
      memOf t (!f.pteHost) = memOf s (!f.pteHost) ∧ (faultOf t n page).map (·.resolved) = some true) ∧
  (∀ f, faultOf s n page = some f →
    let givesUp (i : Instr) : Prop := ∃ t, exec i s = .next t ∧ (∀ r ∈ t.reqs, ¬ waits r) ∧
      ∀ r ∈ s.reqs, waits r → ∃ x ∈ t.faults, x.code = 0x11 ∧ x.part = n ∧ x.tag = some r.hdr.tag
    let asked : Prop := page < 2 ^ 52 ∨ f ∈ priAsked s
    ((loadManager s).isSome = true → givesUp (.rmResolve n page none)) ∧ (asked → givesUp (.priPageResponse n page false)) ∧
    (asked → exec (.priPageResponse n page true) s = .next { s with
      pageFaults := s.pageFaults.map fun x => if x.part == n && x.page == page then { x with resolved := true, again := false } else x }) ∧
    (¬ asked → ∀ ok, exec (.priPageResponse n page ok) s = .next s)) ∧
  (∀ f, faultOf s n page = some f → f.resolved = true → page < 2 ^ 52 → (∀ a, resolve s f.die n (page * 4096) ≠ .absent a) →
    ∃ t, exec (.faultReplay n page) s = .next t ∧ t.reqs.length = s.reqs.length ∧
      (∀ r ∈ t.reqs, ¬ waits r) ∧ ∀ x ∈ s.faults, x ∈ t.faults) ∧
  (∀ pasid answer, let hp := 2 ^ 52 * (pasid + 1) + page % 2 ^ 52
    (hp ∈ s.atsPending → ∃ t, exec (.atsTranslationResponse pasid page answer) s = .next t ∧
      lookup none t.ats hp = some answer) ∧
    (hp ∉ s.atsPending → exec (.atsTranslationResponse pasid page answer) s = .next s) ∧
    (∃ t, exec (.atsInvalidation pasid page) s = .next t ∧ lookup none t.ats hp = none) ∧
    ((∀ r ∈ s.reqs, begunOnHost r = false) → ∃ t, exec (.atsInvalidation pasid page) s = .next t ∧ t.ats = erase s.ats hp ∧
      t.reqs = s.reqs ∧ ∀ po ∈ t.posted, toHost po = true → mayPerform s po = false) ∧
    ∀ r k u x, s.reqs.filter begunOnHost = [r] → s.reqs[k]? = some r → findPlace (·.ident == r.ident) s.reqs = some k →
      itsTurn s k r = true → perform s r = .done (u, x) → ∃ t, exec (.atsInvalidation pasid page) s = .next t ∧
        t.reqs = (answerRequest u k r x).reqs ∧ t.net = (answerRequest u k r x).net ∧
        ∀ po ∈ t.posted, toHost po = true → mayPerform (answerRequest u k r x) po = false) ∧
  (∀ v : BitVec 64, (invalidating s = true → exec (.tlbinvWrite v) s = .next s) ∧
    (invalidating s = false → ∃ t, exec (.tlbinvWrite v) s = .next t ∧ t.mem = s.mem ∧
      (∀ e, e ∈ t.tlb ↔ e ∈ s.tlb ∧ ¬ (e.1 % 2 ^ 51 / 2 ^ 45 = v.toNat % 32 ∧ (v.getLsbD 5 = true ∨ ∃ pte level,
        e.2 = some (pte, level) ∧
          e.1 % 2 ^ 45 / leafPages pte level = v.toNat / 2 ^ 12 % 2 ^ 45 / leafPages pte level))) ∧
      let dropped (page : Nat) : Prop := page < 2 ^ 45 ∧ (v.getLsbD 5 = true ∨ page = v.toNat / 2 ^ 12 % 2 ^ 45 ∨
        ∃ e ∈ s.tlb, e.1 % 2 ^ 51 / 2 ^ 45 = v.toNat % 32 ∧ ∃ pte level, e.2 = some (pte, level) ∧
          e.1 % 2 ^ 45 / leafPages pte level = v.toNat / 2 ^ 12 % 2 ^ 45 / leafPages pte level ∧
          e.1 % 2 ^ 45 / leafPages pte level = page / leafPages pte level)
      (invalidating t = true ↔
        (∃ r ∈ s.reqs, reqPart r = v.toNat % 32 ∧ r.begun.isSome = true ∧ ∃ p ∈ reqPages s r, dropped p) ∨
        ∃ po ∈ s.posted, po.part = v.toNat % 32 ∧ ∃ p ∈ po.pages, dropped p))) ∧
  (∀ stack pc count,
    let ev (code k : Nat) : State :=
      emitEvent s (stack / 4) (0x700 + stack % 4) 11 code 0 (stack % 8 + 8 * (pc % 32) + 256 * (k % 2 ^ 24))
    exec (.hbmForcedRefresh stack pc) s = .next (ev 0 1) ∧ exec (.hbmCorrectedError stack pc count) s = .next (ev 1 count)) ∧
  (∀ pa pc, pa < 0x8000000000 → ∃ t, exec (.hbmUncorrectableError pa pc) s = .next t ∧ pa / 64 ∈ t.poison ∧
    (∀ g, g ≠ pa / 64 → (g ∈ t.poison ↔ g ∈ s.poison)) ∧ t.mem = s.mem) ∧
  (∀ r p, exec (.latctlClr r p) s = .next (modRegion s r fun g => { g with lat := erase g.lat p }))

/-! ### Trace rings and registers (R138 to R150, R177, R54, R106, R199) -/

/-- R139: an event's stamp is the greatest of its die's trace time, the causal floor and its emitter's previous stamp, which it
replaces; CLAMP is 1 exactly where the stamp exceeds the die's trace time. -/
def Obligations.EmitterStamps : Prop :=
  ∀ (s : State) (die src cls code ctx payload : Nat) (floor : DWord),
  let t := emitEvent s die src cls code ctx payload floor
  let now := (dieTT s die).toNat
  let prev := (lookup 0 s.dev.stamps (4096 * die + src)).toNat
  ∃ e : Event, t.traceOut = s.traceOut ++ [e] ∧ e.source = src ∧ e.die = die ∧
    e.tt.toNat = max now (max floor.toNat prev) ∧ prev ≤ e.tt.toNat ∧ (e.clamp = true ↔ now < e.tt.toNat) ∧
    lookup 0 t.dev.stamps (4096 * die + src) = e.tt ∧
    ∀ k, k ≠ 4096 * die + src → lookup 0 t.dev.stamps k = lookup 0 s.dev.stamps k

/-- R138, R144, R145, R148 to R150, R177: the writer puts an event's 16 bytes at TRTAIL of each ring it is for, or drops and
counts it where the ring is full; with two slots free again it writes the number dropped before the next event; EN starts a ring; the filter and TRHEAD are set; 10 ms of stall within a rung force a
lossless ring lossy; and ELCSEL samples a counter of a region that the partition holds. -/
def Obligations.TraceRings : Prop :=
  ∀ (s : State) (n : Nat),
  let g := ringAt s n
  (∀ e, s.traceOut = [e] → ringsFor e = [n] → (partOf s n).trace.stalled = false → g.en = true → passes g e = true →
    g.faulted = false → e.cls ≠ 10 → g.unreported ≠ 0 → g.log2 ≤ 24 → (g.tail - g.head).toNat + 2 ≤ 2 ^ g.log2 →
    g.cls.getLsbD 10 = true → (∀ x ∈ g.src, x.2.en = false) → ∀ ps,
    ringPlaces s n (g.base + 16 * (g.tail.toNat % 2 ^ g.log2)) = some ps →
    ∃ t r, exec .traceEventWrite s = .next t ∧ r.cls = 10 ∧ r.code = 0 ∧ r.ctx = n ∧ r.payload = BitVec.ofNat 32 g.unreported ∧
      let u := saveAt s ps (eventBytes r)
      ((∃ ps', t.mem = (saveAt u ps' (eventBytes e)).mem ∧ (ringAt t n).tail = g.tail + 2 ∧ (ringAt t n).unreported = 0) ∨
        (t.mem = u.mem ∧ (ringAt t n).tail = g.tail + 1 ∧ (ringAt t n).faulted = true))) ∧
  (∀ e, s.traceOut = [e] → ringsFor e = [n] → (partOf s n).trace.stalled = false → g.en = true → passes g e = true →
    g.faulted = false → g.unreported = 0 → e.cls ≠ 10 →
    (∀ ps, (g.tail - g.head).toNat < 2 ^ g.log2 → ringPlaces s n (g.base + 16 * (g.tail.toNat % 2 ^ g.log2)) = some ps →
      let bytes := leBytes 8 e.tt.toNat ++ leBytes 8 (e.ctx + 2 ^ 6 * e.die + 2 ^ 7 * ofBit e.clamp + 2 ^ 8 * ofBit e.lock +
        2 ^ 11 * e.code + 2 ^ 15 * e.cls + 2 ^ 20 * e.source + 2 ^ 32 * e.payload.toNat)
      ∃ t, exec .traceEventWrite s = .next t ∧ t.traceOut = [] ∧ t.mem = (saveAt s ps bytes).mem ∧
        (ringAt t n).tail = g.tail + 1 ∧ (ringAt t n).head = g.head ∧ (ringAt t n).lost = g.lost) ∧
    (2 ^ g.log2 ≤ (g.tail - g.head).toNat → mustWait s e n = false →
      ∃ t, exec .traceEventWrite s = .next t ∧ t.traceOut = [] ∧ t.mem = s.mem ∧ (ringAt t n).tail = g.tail ∧
        (ringAt t n).lost = satAdd g.lost 1 ∧ (ringAt t n).unreported = 1)) ∧
  (∀ v : BitVec 64, n ≤ 24 → g.en = false → 8 ≤ v.toNat / 2 % 32 → v.toNat / 2 % 32 ≤ 24 → ∃ t,
    exec (.trctlEnSet n v) s = .next t ∧
      let w := ringAt t n
      w.en = true ∧ w.head = 0 ∧ w.tail = 0 ∧ w.faulted = false ∧ w.log2 = v.toNat / 2 % 32 ∧ w.sampk = v.toNat / 2 ^ 7 % 16 ∧
      (w.lossless = true ↔ v.getLsbD 6 = true ∧ n ≠ 0 ∧ s.dev.featAct.getLsbD 10 = true)) ∧
  (∀ v : BitVec 64, n ≤ 24 → (∃ t, exec (.traceFilterWrite n 0x120 v) s = .next t ∧
      ∀ c, (ringAt t n).cls.getLsbD c = (decide (c < 32) && v.getLsbD c || decide (16 ≤ c ∧ c ≤ 19))) ∧
    ∀ i < 8, ∃ t, exec (.traceFilterWrite n (0x130 + 8 * i) v) s = .next t ∧ lookup {} (ringAt t n).src i =
      { base := v.toNat % 2 ^ 12, limit := v.toNat / 2 ^ 12 % 2 ^ 12, die := ofBit (v.getLsbD 24), anyDie := v.getLsbD 25
        en := v.getLsbD 26 }) ∧
  (∀ v, n ≤ 24 → ((g.tail - v).toNat ≤ 2 ^ g.log2 → ∃ t, exec (.trheadWrite n v) s = .next t ∧ (ringAt t n).head = v) ∧
    (2 ^ g.log2 < (g.tail - v).toNat → exec (.trheadWrite n v) s = .next s)) ∧
  (n ≠ 0 → g.en = true → g.lossless = true →
    ((∃ q < 4, inRung (queueOf s n q) = true ∧ 160000000 ≤ lookup 0 g.rungStall q) →
      ∃ t, exec (.traceForcedLossy n) s = .next t ∧ forcedNow (ringAt t n) = true ∧ losslessNow t n = false) ∧
    ((∀ q < 4, inRung (queueOf s n q) = true → lookup 0 g.rungStall q < 160000000) → exec (.traceForcedLossy n) s = .next s)) ∧
  (∀ v : BitVec 64, 1 ≤ n → n ≤ 24 →
    let r := v.toNat % 32
    let x := v.toNat / 2 ^ 5 % 16
    let y := v.toNat / 2 ^ 9 % 8
    let c := v.toNat / 2 ^ 12 % 8
    let el := elemAt (r / 4) (16 * (r % 2) + x) (8 * (r % 4 / 2) + y)
    ((r < 24 ∧ holder s r = n ∧ (regionOf s r).state ≠ .restoring ∧ c < 7) → ∃ t, exec (.elcselWrite n v) s = .next t ∧
      (partOf t n).elcval.toNat = (lookup 0 (elemOf s el).counters c).toNat + 2 ^ 32 ∧
      lookup 0 (elemOf t el).counters c = if v.getLsbD 15 then 0 else lookup 0 (elemOf s el).counters c) ∧
    ((24 ≤ r ∨ holder s r ≠ n) → ∃ t, exec (.elcselWrite n v) s = .next t ∧ (partOf t n).elcval = 0 ∧ t.elems = s.elems))

/-- R3, R54, R106 and R199: a register write at an aligned offset of the PF's BAR0 does what the register's own operation
does; PTROOT and PARTCFG take their fields; a misaligned offset, and one beyond the map, changes nothing. -/
def Obligations.RegisterWrites : Prop :=
  ∀ (s : State) (n : Nat) (v : BitVec 64), 1 ≤ n → n ≤ 24 →
  let page := 0x1000000 + (n - 1) * 0x200000
  let low : BitVec 32 := v.setWidth 32
  let field (lo w : Nat) : Nat := v.toNat / 2 ^ lo % 2 ^ w
  (∀ off, off % 8 ≠ 0 ∨ 0x4000000 ≤ off → exec (.registerWrite off v) s = .next s) ∧
  exec (.registerWrite (0x3200 + 8 * n) v) s =
    .next (modPart s n fun p => { p with ptEn := v.getLsbD 0, ptRoot := field 12 40 * 4096 }) ∧
  (v.getLsbD 8 = false → ∃ t, exec (.registerWrite (0x3000 + 16 * n) v) s = .next t ∧
    let p := partOf t n
    p.en = v.getLsbD 0 ∧ p.rmax = field 1 5 ∧ p.dies.toNat = field 6 2 ∧ p.hold = false) ∧
  exec (.registerWrite 0x10 v) s = exec (.drvfeatWrite low) s ∧
  exec (.registerWrite 0x40 v) s = exec (.bar2baseWrite v) s ∧
  exec (.registerWrite 0x3300 v) s = exec (.tlbinvWrite v) s ∧
  exec (.registerWrite (page + 0x8) v) s = exec (.mbxctlWrite n v) s ∧
  exec (.registerWrite (page + 0x10) v) s = exec (.mbxheadWrite n low) s ∧
  exec (.registerWrite (page + 0x110) v) s = exec (.trheadWrite n low) s ∧
  exec (.registerWrite (page + 0x180) v) s = exec (.elcselWrite n v) s ∧
  (∀ q < 4, exec (.registerWrite (page + 0x1000 * (q + 1) + 0x20) v) s = exec (.cplheadWrite n q low) s ∧
    ∀ i < 64, exec (.registerWrite (page + 0x10000 + 0x1000 * (64 * q + i)) v) s = exec (.doorbellWrite n q i low) s) ∧
  (∀ d < 64, exec (.registerWrite (page + 0x180000 + 0x2000 * d) v) s = exec (.dataDoorbellWrite n d low) s)

/-! ### Power, stages, resets (R10 to R12, R19 to R23, R28 to R41, R53) -/

/-- R10, R11 and R28 to R35: the stages of start-up in order, what each offers in DEVFEAT and which regions join the pool, the
records of flash, a missed deadline, and the write of DRVFEAT. -/
def Obligations.StartUpStages : Prop :=
  ∀ (s : State),
  let d := s.dev
  let entered (t : State) (g : Stage) (bits : BitVec 32) : Prop :=
    t.dev.stage = g ∧ t.dev.devFeat = d.devFeat ||| bits ∧ t.dev.featPend = true ∧
      (d.linkUp = true → t.dev.msix = d.msix ++ [(0, 0)])
  let since := d.uptime - d.perstAt
  (d.stage = .off → exec .powerAux3v3On s = .next (modDev s fun d =>
    { d with aux33 := true, uptime := 0, stage := .booting, castle := { d.castle with current := d.castle.committed } })) ∧
  (d.perst = true → exec .perstDeassert s = .next (modDev s fun d => { d with perst := false, perstAt := d.uptime })) ∧
  (d.perst = false → exec .perstDeassert s = .next s) ∧
  exec .aux54vArrives s = .next (modDev s fun d => { d with aux54 := true }) ∧
  (∀ flash, d.stage = .booting → 800000000 < d.uptime → exec (.stageS0Reached flash) s = .next s) ∧
  (∀ flash, d.stage = .booting → d.uptime ≤ 800000000 → ∃ t, exec (.stageS0Reached flash) s = .next t ∧ t.dev.stage = .s0 ∧ tt t = 0 ∧
    t.dev.log.map (fun e => (e.seq, e.kind, e.body)) = d.log.map (fun e => (e.seq, e.kind, e.body)) ++
      [(d.log.length + 1, 1, .engine), (d.log.length + 2, 1, .scheduler), (d.log.length + 3, 1, .controller)] ∧
    (∀ w ok, flash = [⟨.powerCap w, ok⟩] →
      t.dev.capW = (if ok = true ∧ 900 ≤ w ∧ w ≤ 1800 then w else d.capW) ∧
      t.dev.sideband = d.sideband ++ if ok then [] else [.flashFailure (.powerCap w)])) ∧
  (d.stage = .s0 → 4800000000 < since → exec .stageS1Reached s = .next s) ∧
  (d.stage = .s0 → d.perst = false → d.linkUp = true → since ≤ 4800000000 → ∃ t, exec .stageS1Reached s = .next t ∧ entered t .s1 0x1401 ∧
    ∀ r, (regionOf t r).avail = (decide (r = 0 ∨ r = 12) || (regionOf s r).avail)) ∧
  (d.stage = .s1 → (d.aux54 = false ∨ ∃ u ∈ s2Units, u ∉ d.trained) → exec .stageS2Reached s = .next s) ∧
  (d.stage = .s1 → d.aux54 = true → (∀ u ∈ s2Units, u ∈ d.trained) → ∃ t, exec .stageS2Reached s = .next t ∧ entered t .s2 0x68FE ∧ t.dev.clockMHz = 1200 ∧
    ∀ r < 24, (regionOf t r).avail = true) ∧
  (d.stage = .s2 → d.clk.lock = true → (d.cxlCabled = true → d.cxlGts ≠ 0) → ∃ t, exec .stageS3Reached s = .next t ∧
    entered t .s3 0x0300 ∧ t.dev.cxlMapped = true ∧ t.dev.stalled = false ∧ t.dev.failUnit = 0) ∧
  (d.stage = .s2 → (d.clk.lock = false ∨ d.cxlCabled = true ∧ d.cxlGts = 0) → exec .stageS3Reached s = .next s) ∧
  (d.stage ≠ .s1 → exec .stageS2Reached s = .next s) ∧
  (∀ unit : BitVec 8, d.stage = .s1 → (1 ≤ unit.toNat ∧ unit.toNat ≤ 8 ∨ 0x10 ≤ unit.toNat ∧ unit.toNat ≤ 0x15) →
    d.aux54 = true → unit.toNat ∉ d.trained →
    (since < 64000000000 ∨ unit.toNat ∈ d.failed → exec (.stageDeadlineMissed unit) s = .next s) ∧
    (64000000000 ≤ since → unit.toNat ∉ d.failed → controllerPaused s = false → ∃ t,
      exec (.stageDeadlineMissed unit) s = .next t ∧ t.dev.stage = .s1 ∧ t.dev.stalled = true ∧ t.dev.failUnit = unit ∧
        t.dev.sideband = d.sideband ++ [.failure unit] ∧
        (unit.toNat ∉ d.retried → t.dev.retried = d.retried ++ [unit.toNat] ∧ t.dev.failed = d.failed) ∧
        (unit.toNat ∈ d.retried → t.dev.failed = d.failed ++ [unit.toNat]))) ∧
  (∀ unit : BitVec 8, d.stage = .s2 → d.aux54 = true →
    (unit = 0x20 ∧ d.cxlCabled = true ∧ d.cxlGts = 0 ∨ unit = 0x30 ∧ d.clk.lock = false) →
    (since < 160000000000 ∨ unit.toNat ∈ d.failed → exec (.stageDeadlineMissed unit) s = .next s) ∧
    (160000000000 ≤ since → unit.toNat ∉ d.failed → controllerPaused s = false → ∃ t,
      exec (.stageDeadlineMissed unit) s = .next t ∧ t.dev.stage = .s2 ∧ t.dev.stalled = true ∧ t.dev.failUnit = unit ∧
        t.dev.sideband = d.sideband ++ [.failure unit] ∧ t.dev.failed = d.failed ++ [unit.toNat])) ∧
  (∀ v, ∃ t, exec (.drvfeatWrite v) s = .next t ∧
    t.dev = { d with drvFeat := v &&& 0x7FFF, featAct := d.featAct ||| (d.devFeat &&& v), featPend := false } ∧
    let vfs : Bool := !d.featAct.getLsbD 12 && (d.devFeat &&& v).getLsbD 12
    (vfs = true → ∀ n, (partOf t n).tagNext = 1) ∧ (vfs = false → t.parts = s.parts))

/-- R21 to R23, R35 and R53: a VF's FLR leaves nothing of its partition's context and nothing else changed in the other
partitions' queues; the PF's FLR resets every partition and FEATACT; PERST# takes the stages back; power loss leaves what is in
flash and what is the host's. -/
def Obligations.Resets : Prop :=
  ∀ (s : State) (n : Nat),
  let fresh (t : State) (n : Nat) : Prop :=
    let p := partOf t n
    p.acts = [] ∧ p.tags = [] ∧ p.tagNext = 1 ∧ p.graphs = [] ∧ p.saveArea = [] ∧ p.mbx = {} ∧ p.trace = {} ∧
      (∀ q, (queueOf t n q).enable = false ∧ (queueOf t n q).merged = [] ∧ (queueOf t n q).lastSeq = 0xFFFFFFFF#32) ∧
      (∀ r < 24, (regionOf t r).owner ≠ n) ∧ (∀ f ∈ t.net, flightPart f ≠ n) ∧ (∀ c ∈ t.cmds, c.part ≠ n)
  (1 ≤ n → n ≤ 24 → s.dev.featAct.getLsbD 12 = true → ∃ t, exec (.vfFlr n) s = .next t ∧ fresh t n ∧
    (∀ q < 4, s.dev.linkUp = true → (queueOf t n q).state = .idle) ∧ (partOf t n).ptRoot = (partOf s n).ptRoot ∧
    (partOf t n).rmax = (partOf s n).rmax ∧ t.mem = s.mem ∧
    ∀ m, m ≠ n → (partOf t m).queues = (partOf s m).queues ∧ (partOf t m).acts = (partOf s m).acts ∧
      (partOf t m).tags = (partOf s m).tags) ∧
  (∃ t, exec .pfFlr s = .next t ∧ t.dev.drvFeat = 0 ∧ t.dev.featAct = 0 ∧ t.dev.featPend = true ∧ t.dev.stage = s.dev.stage ∧
    (1 ≤ n → n ≤ 24 → fresh t n ∨ castling s = true) ∧ (1 ≤ n → n ≤ 24 → (partOf t n).en = false) ∧
    (s.dev.castle.latched = [] → t.dev.rounds = [] ∧ t.dev.castle.state = if castling s then .fallback else s.dev.castle.state)) ∧
  (∃ t, exec .perstAssert s = .next t ∧ t.dev.perst = true ∧ t.dev.linkUp = false ∧ t.dev.devFeat = 0 ∧ t.dev.featAct = 0 ∧
    t.dev.stage = (if s.dev.stage = .s1 ∨ s.dev.stage = .s2 ∨ s.dev.stage = .s3 then .s0 else s.dev.stage) ∧
    t.dev.bar2base = 0 ∧ ∀ r, (regionOf t r).avail = false) ∧
  (∃ t, exec .powerLoss s = .next t ∧ t.dev.stage = .off ∧ t.mem = [] ∧ t.hostMem = s.hostMem ∧ t.parts = [] ∧ t.elems = [] ∧
    t.dev.castle.committed = s.dev.castle.committed ∧ t.dev.xmssIndex = s.dev.xmssIndex) ∧
  (∀ off v, exec (.hostVfBarAccessInFlr n off true v) s = .next s ∧
    exec (.hostVfBarAccessInFlr n off false v) s = .next (modDev s fun d => { d with hostRead := List.replicate 8 0xFF }))

/-- R12, R19, R37 to R41 and R49: the cap and the clock's steps within their ranges, each with its POWER event; sensors; the wear
page, updated every 60 s with an odd generation meanwhile; an attestation report, which takes the next signature index, or
KEY_EXHAUSTED; and up to eight messages that come while the controller's castling pauses it are latched. -/
def Obligations.Sideband : Prop :=
  ∀ (s : State), sidebandUp s = true →
  let d := s.dev
  (controllerPaused s = true → ∀ w x secs nonce b img,
    ∀ i ∈ [Instr.powerCapSet w, .pldmSensorRead x, .timeOfDayDelivery secs, .attestationRequestSideband nonce, .pldmFwUpdate b img],
      let mail := (d.castle.latched.filter fun x => isMessage x.1).length
      (mail < 8 → exec i s = .next (modDev s fun d =>
        { d with castle := { d.castle with latched := d.castle.latched ++ [(.event (0, 0) i, tt s)] } })) ∧
      (8 ≤ mail → exec i s = .next s)) ∧
  (controllerPaused s = false →
  let power (s : State) (code v : Nat) : State := emitEvent s 0 0x7F0 19 code 0 v
  (∀ w, (900 ≤ w → w ≤ 1800 → exec (.powerCapSet w) s = .next (power (modDev s fun d => { d with capW := w }) 1 w)) ∧
    ((w < 900 ∨ 1800 < w) → exec (.powerCapSet w) s = .next s)) ∧
  ((d.stage = .s2 ∨ d.stage = .s3) → 600 ≤ d.clockMHz → d.clockMHz ≤ 1200 →
    (625 ≤ d.clockMHz → exec (.clockStep false) s = .next
      (power (modDev s fun d => { d with clockMHz := d.clockMHz - 25 }) 0 (d.clockMHz - 25))) ∧
    (d.clockMHz < 625 → exec (.clockStep false) s = .next s) ∧
    (d.clockMHz ≤ 1175 → exec (.clockStep true) s = .next
      (power (modDev s fun d => { d with clockMHz := d.clockMHz + 25 }) 0 (d.clockMHz + 25)))) ∧
  (exec (.pldmSensorRead .powerCap) s = .next (modDev s fun d =>
    { d with sideband := d.sideband ++ [.sensor .powerCap (BitVec.ofNat 32 d.capW)] })) ∧
  (∀ x, ∃ t v, exec (.pldmSensorRead x) s = .next t ∧ t.dev.sideband = d.sideband ++ [.sensor x v] ∧
    (x = .clock → v = BitVec.ofNat 32 d.clockMHz)) ∧
  (∀ entries, (d.wearNext = none → wearDue s = false → exec (.wearUpdate entries) s = .next s) ∧
    (d.wearNext = none → wearDue s = true → ∃ t page, exec (.wearUpdate entries) s = .next t ∧ t.dev.wearNext = some page ∧
      t.dev.wear = d.wear ∧ t.dev.wearGen = d.wearGen + 1 ∧ t.dev.wearAt = some d.uptime ∧
      ∀ i < 20, let x : BitVec 128 := entries.getD i 0
        lookup 0 page i = if x.extractLsb' 120 4 = 0 then x &&& 0x00FF000000000000FFFFFFFFFFFFFFFF#128
          else x &&& 0x0FFFFFFFFFFFFFFFFFFFFFFFFFFFFFFF#128) ∧
    (∀ page, d.wearNext = some page → ∃ t, exec (.wearUpdate entries) s = .next t ∧ t.dev.wear = page ∧ t.dev.wearNext = none ∧
      t.dev.wearGen = d.wearGen + 1 ∧ t.dev.sideband = d.sideband ++ [.wear (d.wearGen + 1) page])) ∧
  (∀ nonce, (1048576 ≤ d.xmssIndex → exec (.attestationRequestSideband nonce) s = .next (modDev s fun d =>
      { d with sideband := d.sideband ++ [.keyExhausted] })) ∧
    (d.xmssIndex < 1048576 → ∃ t report, exec (.attestationRequestSideband nonce) s = .next t ∧
      t.dev.xmssIndex = d.xmssIndex + 1 ∧ t.dev.sideband.getLast? = some (.attest report) ∧
      report.take 108 = leBytes 4 0x47514154 ++ leBytes 4 1 ++ leBytes 32 nonce.toNat ++ leBytes 4 (devStage s) ++
        leBytes 4 d.featAct.toNat ++ leBytes 4 (imageOf s .controller).version.toNat ++
        leBytes 4 (imageOf s .scheduler).version.toNat ++ leBytes 4 (imageOf s .engine).version.toNat ++
        leBytes 4 d.log.length ++ leBytes 32 d.chain.toNat ++ leBytes 8 (tt s).toNat ++ leBytes 4 d.xmssIndex)))

/-! ### Time, links, castling (R15, R17, R18, R20, R24, R26, R42 to R52, R134 to R136) -/

/-- R20 and R134 to R136: the first edge with a delivered time of day steps TT and ERA; a later one within 20 ns of a whole
second counts towards the lock, one off by up to 1 µs is slewed to, and one beyond or that names another second is
rejected; 1.5 s without an edge begins holdover; a wrap raises ERA; and TT runs within 0.999 and 1.001 of the oscillator. R104: while
timers run time passes in pieces of at most half a microsecond, no piece goes beyond a deadline of a stage or of a castling or
beyond the next read of a WAITV that waits (R68), and what is due takes effect before more passes. -/
def Obligations.TimeDiscipline : Prop :=
  ∀ (s : State),
  let c := s.dev.clk
  let now : Int := c.era.toNat * 2 ^ 64 + c.tt.toNat - edgeAge s
  let came : DWord := c.edgeAt.getD c.tt
  let near : Int := (now + 8000000000) / 16000000000
  let off : Int := now - near * 16000000000
  let named : Prop := ∀ t, c.tod = some t → (t : Int) = near
  (sidebandUp s = true → controllerPaused s = false →
    (∀ secs, exec (.timeOfDayDelivery secs) s = .next (modClk s fun c => { c with tod := some secs })) ∧
    (c.stepped = false → c.tod = none → exec .ppsEdge s = .next (modClk s fun c => { c with lastEdge := some came, holdover := false })) ∧
    (∀ secs, c.stepped = false → c.tod = some secs → ∃ t e f, exec .ppsEdge s = .next t ∧
      let k := t.dev.clk
      k.stepped = true ∧ k.tod = none ∧ k.inBand = 1 ∧ k.tt.toNat = (secs * 16000000000 + edgeAge s) % 2 ^ 64 ∧
      k.era.toNat = secs * 16000000000 / 2 ^ 64 % 2 ^ 8 ∧ t.traceOut = s.traceOut ++ [e, f] ∧
      e.cls = 16 ∧ e.code = 2 ∧ f.cls = 16 ∧ f.code = 4 ∧ f.payload.toNat = k.era.toNat) ∧
    (c.stepped = true → named → off.natAbs ≤ 320 → ∃ t, exec .ppsEdge s = .next t ∧
      let k := t.dev.clk
      k.tt = c.tt ∧ k.inBand = c.inBand + 1 ∧ k.holdover = false ∧ k.lastEdge = some came ∧ k.owed = c.owed ∧
      (k.lock = true ↔ c.lock = true ∨ 1 ≤ c.inBand) ∧ k.ppsOfs.toInt = off / 16) ∧
    (c.stepped = true → named → 320 < off.natAbs → off.natAbs ≤ 16000 → ∃ t e, exec .ppsEdge s = .next t ∧
      let k := t.dev.clk
      k.tt = c.tt ∧ k.lock = false ∧ k.inBand = 0 ∧ k.holdover = false ∧ k.owed = -off ∧ k.ppsOfs.toInt = off / 16 ∧
      t.traceOut = s.traceOut ++ [e] ∧ e.cls = 16 ∧ e.code = 5 ∧ e.payload.toInt = off / 16) ∧
    (c.stepped = true → (¬ named ∨ 16000 < off.natAbs) → c.rejects.length < 2 → ∃ t e, exec .ppsEdge s = .next t ∧
      let k := t.dev.clk
      k.tt = c.tt ∧ k.inBand = 0 ∧ k.lock = (c.lock && decide (off.natAbs ≤ 320)) ∧ k.owed = c.owed ∧
      k.lastEdge = c.lastEdge ∧ k.holdover = c.holdover ∧ k.rejects.length = c.rejects.length + 1 ∧
      t.traceOut = s.traceOut ++ [e] ∧ e.cls = 16 ∧ e.code = 6)) ∧
  (∀ last, c.holdover = false → c.lastEdge = some last → 24000000000 ≤ (c.tt - last).toNat → ∃ t e, exec .ppsHoldover s = .next t ∧
    t.dev.clk = { c with holdover := true, lock := false, inBand := 0 } ∧ t.traceOut = s.traceOut ++ [e] ∧ e.code = 1) ∧
  (c.lastEdge = none ∨ (∃ last, c.lastEdge = some last ∧ (c.tt - last).toNat < 24000000000) → exec .ppsHoldover s = .next s) ∧
  (c.tt.toNat ≠ 2 ^ 64 - 1 → exec .ttEraWrap s = .next s) ∧
  (c.tt.toNat = 2 ^ 64 - 1 → ∃ t e, exec .ttEraWrap s = .next t ∧ t.dev.clk = { c with tt := 0, era := c.era + 1 } ∧ t.traceOut = s.traceOut ++ [e] ∧
    e.code = 4 ∧ e.payload.toNat = (c.era + 1).toNat) ∧
  (∀ diff : BitVec 16, ∃ t, exec (.d2dTimeCalibration diff) s = .next t ∧ t.dev.clk = { c with skew := diff } ∧
    (diff.toInt.natAbs ≤ 24 → t.traceOut = s.traceOut) ∧
    (24 < diff.toInt.natAbs → ∃ e, t.traceOut = s.traceOut ++ [e] ∧ e.cls = 16 ∧ e.code = 3)) ∧
  (∃ t e, exec .skewAlarm s = .next t ∧ t.traceOut = s.traceOut ++ [e] ∧ e.cls = 16 ∧ e.code = 3 ∧ t.dev.clk = c) ∧
  (∀ units rest it, s.agenda = .elapse units :: rest → (timerItems s).find? (changes s) = some it → step s = runItem s it) ∧
  let reread : Nat := 16000 - s.dev.uptime % 16000
  (∀ units rest, s.agenda = .elapse units :: rest → (timerItems s).find? (changes s) = none →
    ∃ t p, step s = .next t ∧ p ≤ units ∧ (timersRun s = true → p ≤ 8000) ∧ (∀ k, nextDeadline s = some k → p ≤ k) ∧
      ((rereadItems s).any (changes s) = true → p ≤ reread) ∧
      (p = units ∨ timersRun s = true ∧ p = 8000 ∨ nextDeadline s = some p ∨ p = reread) ∧
      t.agenda = (if p = units then rest else .elapse (units - p) :: rest) ∧
      t.dev.uptime = if s.dev.aux33 then s.dev.uptime + p else s.dev.uptime) ∧
  (∀ units rest, s.agenda = .elapse units :: rest → (timerItems s).find? (changes s) = none → (timersRun s = false ∨ units ≤ 8000) →
    (∀ k, nextDeadline s = some k → units ≤ k) → ((rereadItems s).any (changes s) = true → units ≤ reread) →
    sidebandUp s = true → c.slewAcc < 1000 → units < 2 ^ 60 →
    ∃ t, step s = .next t ∧ t.agenda = rest ∧
      let d := (t.dev.clk.tt - c.tt).toNat
      (c.owed = 0 → d = units) ∧ 999 * units ≤ 1000 * d + 999 ∧ 1000 * d ≤ 1001 * units + 999 ∧
      t.dev.clk.era = if 2 ^ 64 ≤ c.tt.toNat + d then c.era + 1 else c.era)

/-- R8, R13 to R15, R17, R18, R24 and R26: the host link trains in FLIT mode or is reported untrained; at its loss each queue ends as
R24's table gives for its state, and at its return as R26 says, with the recovery timeout; BAR2 shows device memory from
BAR2BASE; and the CXL and die-to-die links' events. -/
def Obligations.LinkEvents : Prop :=
  ∀ (s : State) (n q : Nat),
  let d := s.dev
  let u := queueOf s n q
  let lost (w : Queue) (rung : Nat) : Prop := w.state = .linkLost ∧ w.rung = rung ∧ w.fault = 0x40
  let emits (t : State) (link code : Nat) : Prop := ∃ e, t.traceOut = s.traceOut ++ [e] ∧ e.cls = 12 ∧ e.code = code ∧
    e.payload.toNat % 256 = link
  (∀ flit gts width, d.perst = false → sidebandUp s = true →
    (flit = true → gts ∈ [32, 64, 128] → width ∈ [1, 4, 8, 16] → ∃ t, exec (.pcieLinkTrained ⟨flit, gts⟩ width) s = .next t ∧ t.dev.linkUp = true ∧
      t.dev.linkGts = gts ∧ t.dev.linkWidth = width ∧
      ∃ e ∈ t.traceOut, e.cls = 12 ∧ e.code = 0 ∧ e.payload.toNat = 256 * gts + 65536 * width) ∧
    ((flit = false ∨ gts ∉ [32, 64, 128] ∨ width ∉ [1, 4, 8, 16]) → controllerPaused s = false → exec (.pcieLinkTrained ⟨flit, gts⟩ width) s = .next (modDev s fun d =>
      { d with sideband := d.sideband ++ [.untrained gts width] }))) ∧
  exec .orderlyPowerDownMessage s = .next (modDev s fun d => { d with orderlyDown := true }) ∧
  (d.linkUp = true → d.orderlyDown = true → exec .hostLinkLost s = .next (modDev s fun d => { d with linkUp := false })) ∧
  (1 ≤ n → n ≤ 24 → q < 4 → d.linkUp = true → d.orderlyDown = false → restoreWanted s n q = false →
    ∃ t, exec .hostLinkLost s = .next t ∧ t.dev.linkUp = false ∧
      let w := queueOf t n q
      let toRung2 : Prop := w.state = if regionsOf s n q = [] then .saved else .saving
      match queueState s n q with
      | .idle => if u.enable then lost w 0 else w = u
      | .run | .parkedFault => if u.savedCtx then lost w 2 else toRung2
      | .draining => toRung2
      | .saved | .recovery => lost w 2
      | _ => w = u) ∧
  (s.hand = (n, q) → d.linkUp = false → d.orderlyDown = false → u.state = .saved → ∃ t,
    exec .linklostSaveComplete s = .next t ∧ lost (queueOf t n q) 2) ∧
  (1 ≤ n → n ≤ 24 → q < 4 → d.linkUp = false → d.linkGts ≠ 0 → u.state = .linkLost → ∃ t, exec .hostLinkRetrained s = .next t ∧
    t.dev.linkUp = true ∧ t.dev.linkGts = d.linkGts ∧
    let w := queueOf t n q
    (u.rung = 2 → w.state = .recovery) ∧
    (u.rung = 0 → u.held = [] → (partOf s n).mbx.reserve = [] → w.state = .idle ∧ w.fault = 0)) ∧
  (s.hand = (n, q) → u.state = .recovery →
    (d.recoveryS * 16000000000 ≤ (tt s - u.rungAt).toNat → ∃ t, exec .recoveryTimeout s = .next t ∧
      (queueOf t n q).state = .resetting ∧ (queueOf t n q).enable = false ∧ (queueOf t n q).fault = 0) ∧
    ((tt s - u.rungAt).toNat < d.recoveryS * 16000000000 → exec .recoveryTimeout s = .next s)) ∧
  (∀ v : BitVec 64, let base := v.toNat / 2 ^ 30 % 2 ^ 22 * 2 ^ 30
    exec (.bar2baseWrite v) s = .next (if base % 2 ^ d.bar2log2 = 0 then
      modDev s fun d => { d with bar2base := BitVec.ofNat 64 base } else s)) ∧
  (∀ off data, let a := d.bar2base.toNat + off
    off + data.length ≤ 2 ^ d.bar2log2 → data ≠ [] →
    ((∀ i < data.length, backed s (a + i) = true) →
      (s.memOk = true → ∃ t, exec (.hostBar2Access off true data) s = .next t ∧ ∀ x, readByte t.mem x =
        if a ≤ x ∧ x < a + data.length then data.getD (x - a) 0 else readByte s.mem x) ∧
      exec (.hostBar2Access off false data) s = .next (modDev s fun d => { d with
        hostRead := (List.range data.length).map fun i => readByte s.mem (a + i) })) ∧
    (backed s a = false → ∃ t r, exec (.hostBar2Access off true data) s = .next t ∧
      exec (.hostBar2Access off false data) s = .next r ∧ t.mem = s.mem ∧ r.mem = s.mem ∧ t.dev.hostRead = d.hostRead ∧
      r.dev.hostRead = List.replicate data.length 0xFF ∧ t.dev.bar2Unmapped = d.bar2Unmapped + 1)) ∧
  (∀ gts width xs, let rate : Prop := (gts = 128 ∧ xs ≠ [] ∧ ∀ x ∈ xs, x.fast = true) ∨ gts = 64 ∨ (1 ≤ gts ∧ gts ≤ 32)
    (d.aux54 = true → rate → width ∈ [1, 2, 4, 8, 16] → ∃ t, exec (.cxlLinkTrained gts width xs) s = .next t ∧
      t.dev.cxlGts = gts ∧ t.dev.cxlWidth = width ∧ (expandersOk xs = true → t.dev.expanders = xs) ∧ emits t 1 0) ∧
    (¬ rate → exec (.cxlLinkTrained gts width xs) s = .next s)) ∧
  (∀ k x, d.expanders[k]? = some x → ∃ t, exec (.expanderLost k) s = .next t ∧ t.dev.lostRanges = d.lostRanges ++ [x] ∧
    t.mem = s.mem ∧ emits t 1 3 ∧ ∀ a, covers x a = true → poisoned t ⟨false, a⟩ = true) ∧
  (∃ t, exec .d2dCorrectableRetry s = .next t ∧ t.dev.d2dRetries = d.d2dRetries + 1 ∧ t.poison = s.poison ∧ emits t 2 1) ∧
  (∀ gs, ∃ t, exec (.d2dUncorrectableFlit gs) s = .next t ∧ t.dev.d2dFlits = d.d2dFlits + 1 ∧ t.mem = s.mem ∧ emits t 2 2 ∧
    (∀ g, g ∈ t.poison ↔ g ∈ s.poison ∨ (false, g) ∈ gs) ∧ ∀ g, g ∈ t.hostPoison ↔ g ∈ s.hostPoison ∨ (true, g) ∈ gs)

/-- R42 to R52: a castling request and the reasons that refuse it; VERIFY's checks; the castle point, the swap of each
engine's store, the import, heartbeats, fall-back and commit, with the log entry and a REMEASURE message for every mailbox;
and the staging window's registers. A fall-back leaves the engines that run the new image to swap back, and no image of theirs is
staged until they have. That a second GO for an image already handed over gives ERR 3 is the model's choice: notes/assumptions/61. -/
def Obligations.CastlingSteps : Prop :=
  ∀ (s : State) (b : Body) (img : ImageFacts),
  let c := s.dev.castle
  let g := s.dev.staging
  let running : Prop := c.state = .verify ∨ c.state = .staged ∨ c.state = .castlePoint ∨ c.state = .probation
  let since := (tt s - c.beatAt).toNat
  let logged (t : State) (kind : Nat) : Prop := ∃ e, t.dev.log = s.dev.log ++ [e] ∧ e.kind = kind ∧ e.body = c.body ∧
    e.seq = s.dev.log.length + 1 ∧ e.measurement = (imageOf t c.body).measurement
  let told (t : State) (kind : Nat) : Prop := ∀ n, 1 ≤ n → n ≤ 24 → mbxOn (partOf s n).mbx = false →
    (partOf s n).mbx.reserve.length < 16 → ∃ m, (partOf t n).mbx.reserve = (partOf s n).mbx.reserve ++ [m] ∧ m.remeasure = true ∧
      m.bytes.take 8 = [1, 0, BitVec.ofNat 8 kind, BitVec.ofNat 8 (bodyCode c.body)] ++ leBytes 4 (s.dev.log.length + 1) ∧
      m.bytes.length = 64
  let untouched (t : State) : Prop := t.parts = s.parts ∧ t.regions = s.regions ∧ t.elems = s.elems ∧ t.mem = s.mem ∧
    t.faults = s.faults
  (sidebandUp s = true → controllerPaused s = false →
    (running → exec (.pldmFwUpdate b img) s = .next (modDev s fun d => { d with sideband := d.sideband ++ [.castleRefused 3] })) ∧
    (¬ running → ∃ t, exec (.pldmFwUpdate b img) s = .next t ∧ t.dev.castle.body = b ∧ untouched t ∧
      let k := t.dev.castle
      if b ≠ .controller ∧ s.dev.featAct.getLsbD 11 = false then k.state = .refused ∧ k.reason = 4
      else if Config.measurementLogEntries ≤ s.dev.log.length then k.state = .refused ∧ k.reason = 5
      else k.state = .verify ∧ k.reason = 0 ∧ k.image = some img ∧ k.verified = false)) ∧
  (c.state = .verify → c.image = some img → ∃ t, exec .castleVerify s = .next t ∧ untouched t ∧
    let k := t.dev.castle
    let old := (imageOf s c.body).schema
    if img.signatureOk = false then k.state = .refused ∧ k.reason = 1
    else if img.security < minSecurityOf s c.body then k.state = .refused ∧ k.reason = 6
    else if old < img.importLo ∨ img.importHi < old ∨ old ∉ img.writes then k.state = .refused ∧ k.reason = 2
    else (c.body = .scheduler → img.fgePeak ≤ 512) → k.state = .verify ∧ k.verified = true) ∧
  (c.state = .verify → c.body = .engine → c.back ≠ [] → exec .castleStaged s = .next s) ∧
  (c.state = .verify → c.verified = true → c.image = some img → (c.body = .engine → c.back = []) → ∃ t, exec .castleStaged s = .next t ∧
    t.dev.castle.state = .staged ∧ imageOf t c.body = imageOf s c.body ∧
    ((c.body = .scheduler → (.fgeInactive, img) ∈ t.dev.castle.stores ∧ ∀ r < 24, (.managerBank r, img) ∈ t.dev.castle.stores) ∧
      (c.body = .engine → ∀ e < 170, (.engineStandby e, img) ∈ t.dev.castle.stores) ∧
      (c.body = .controller → (.controllerHalf, img) ∈ t.dev.castle.stores))) ∧
  (c.state = .staged → c.body = .scheduler → (∃ r ∈ s.regions, r.2.task ≠ none) → exec .castlePoint s = .next s) ∧
  (c.state = .staged → (c.body = .scheduler → ∀ r ∈ s.regions, r.2.task = none) → ∃ t k, exec .castlePoint s = .next t ∧
    t.dev.castle.state = .castlePoint ∧ t.dev.castle.record = some k ∧
      (c.body = .scheduler → k.rounds = s.dev.rounds ∧ k.faults = s.faults ∧ k.store = s.fge.store ∧ ∀ n q, 1 ≤ n → n ≤ 24 → q < 4 →
        let u := queueOf s n q
        let left (us : Nat) (t : DWord) : Nat := us * 16000 - (tt s - t).toNat
        (u.state = .draining → (.t1 n q, left u.t1lim u.rungAt) ∈ k.timers) ∧
        (u.state = .saving → (.t2 n q, left u.t2lim u.rungAt) ∈ k.timers) ∧
        (regionsOf s n q ≠ [] → (.quantum n q, 16000 * (u.deficit - u.charge)) ∈ k.timers) ∧
        (∀ t, u.stallAt = some t → (.headStall n q, left 10000 t) ∈ k.timers) ∧
        (∀ t, u.fireStallAt = some t → (.fireStall n q, left 10000 t) ∈ k.timers) ∧
        (watched s n = true → (.spill n, left 10000 (partOf s n).progressAt) ∈ k.timers))) ∧
  (∀ e < 170, e ∈ c.back →
    (c.stall = none → exec (.engineStoreSwap e) s = .next (if engineAtBoundary s e then modDev s fun d =>
      { d with castle := { d.castle with stall := some e } } else s)) ∧
    (c.stall = some e → ∃ t, exec (.engineStoreSwap e) s = .next t ∧ t.dev.castle.back = c.back.filter (· != e) ∧
      t.dev.castle.swapped = c.swapped ∧ t.dev.castle.stall = none)) ∧
  (∀ e, c.body = .engine → c.state = .castlePoint → e < 170 → e ∉ c.swapped → e ∉ c.back →
    (c.stall = none → engineAtBoundary s e = true → exec (.engineStoreSwap e) s = .next (modDev s fun d =>
      { d with castle := { d.castle with stall := some e } })) ∧
    (c.stall = none → engineAtBoundary s e = false → exec (.engineStoreSwap e) s = .next s) ∧
    (c.stall = some e → ∃ t, exec (.engineStoreSwap e) s = .next t ∧ t.dev.castle.swapped = c.swapped ++ [e] ∧
      t.dev.castle.stall = none)) ∧
  (c.state = .castlePoint → c.image = some img → (c.body = .engine → ∀ e < 170, e ∈ c.swapped) → ∃ t,
    exec .castleImportDone s = .next t ∧ imageOf t c.body = img ∧
      (∀ r, c.body = .scheduler → s.fge.results = [.saved r] → (regionOf s r).state = .saving → (regionOf t r).owner = 0 ∧ t.fge.results = []) ∧
      (c.latched = [] → s.fge.results = [] → t.dev.castle.state = .probation ∧ t.dev.castle.heartbeats = 0 ∧ t.regions = s.regions ∧
        t.elems = s.elems ∧ t.mem = s.mem ∧ t.faults = s.faults ∧ (c.body ≠ .scheduler → t.parts = s.parts) ∧
        (∀ n q, let w := queueOf t n q
          w = { queueOf s n q with deficit := w.deficit, charge := w.charge, rungAt := w.rungAt }) ∧
        (∀ k, c.body = .scheduler → c.record = some k → t.dev.rounds = k.rounds ∧ ∀ n q, 1 ≤ n → n ≤ 24 → q < 4 →
          ((queueOf t n q).deficit, (queueOf t n q).charge) =
            match k.credits.find? (fun x => x.1 == n && x.2.1 == q) with
            | some x => x.2.2
            | none => (0, 0)))) ∧
  (c.state = .probation →
    (since ≤ 160000000 → ∃ t, exec .castleHeartbeat s = .next t ∧ t.dev.castle.heartbeats = min 127 (c.heartbeats + 1) ∧
      t.dev.castle.beatAt = tt s ∧ t.dev.castle.state = .probation ∧ t.dev.castle.checkpoint ≠ none) ∧
    (since < 160000000 → exec .heartbeatDeadline s = .next s) ∧
    (160000000 ≤ since → ∃ t, exec .heartbeatDeadline s = .next t ∧ t.dev.castle.state = .fallback ∧
      imageOf t c.body = imageIn c.committed c.body ∧ t.dev.castle.committed = c.committed ∧ logged t 3 ∧ told t 3 ∧
      (∀ e ∈ c.swapped, e ∈ t.dev.castle.back) ∧
      ∀ k, c.body = .scheduler → c.checkpoint.or c.record = some k → t.dev.rounds = k.rounds ∧ ∀ n q, 1 ≤ n → n ≤ 24 → q < 4 →
        ((queueOf t n q).deficit, (queueOf t n q).charge) =
          match k.credits.find? (fun x => x.1 == n && x.2.1 == q) with
          | some x => x.2.2
          | none => (0, 0)) ∧
    (c.image = some img → 16000000000 ≤ (tt s - c.importAt).toNat → since ≤ 160000000 → imageOf s c.body = img →
      ∃ t, exec .castleCommit s = .next t ∧ t.dev.castle.state = .committed ∧ imageIn t.dev.castle.committed c.body = img ∧
        minSecurityOf t c.body = img.security ∧ logged t 2 ∧ told t 2) ∧
    ((tt s - c.importAt).toNat < 16000000000 → exec .castleCommit s = .next s)) ∧
  (atStage s .s1 = true →
    (∀ body : BitVec 2, let ok : Prop := body ≠ 3 ∧ g.size.toNat % 64 = 0 ∧ 64 ≤ g.size.toNat ∧ g.size.toNat ≤ 2 ^ 28
      ∃ t, exec (.fwsctlOpen body) s = .next t ∧ t.dev.staging.received = 0 ∧ t.dev.staging.total = g.size ∧
        (ok → t.dev.staging.state = 1 ∧ t.dev.staging.err = 0) ∧ (¬ ok → t.dev.staging.state = 3 ∧ t.dev.staging.err = 1)) ∧
    (g.push = false → g.state = 1 → ∃ t, exec .fwspush s = .next t ∧
      let k := t.dev.staging
      if g.len.toNat % 64 ≠ 0 ∨ g.len = 0 ∨ 2 ^ 23 < g.len.toNat then k.state = 3 ∧ k.err = 1
      else if g.off ≠ g.received ∨ g.total.toNat < g.off.toNat + g.len.toNat then k.state = 3 ∧ k.err = 2
      else k.state = 1 ∧ k.push = true) ∧
    (∃ t, exec (.fwsctlGo img) s = .next t ∧
      let whole : Prop := g.total ≠ 0 ∧ g.received = g.total
      (¬ whole → t.dev.staging.state = 3 ∧ t.dev.staging.err = 3 ∧ t.dev.castle = c) ∧
      (whole → running → t.dev.staging.state = 3 ∧ t.dev.staging.err = 4 ∧ t.dev.castle = c) ∧
      (whole → ¬ running → g.requested = true → t.dev.staging.state = 3 ∧ t.dev.staging.err = 3 ∧ t.dev.castle = c) ∧
      (whole → ¬ running → g.requested = false → t.dev.staging.state = 2 ∧ t.dev.staging.err = 0 ∧
        t.dev.castle.body = bodyOf g.body.toNat))) ∧
  (g.push = true → ∃ t, exec .fwsChunkCopied s = .next t ∧ t.dev.staging.push = false ∧
    t.dev.staging.received.toNat = (g.received.toNat + g.len.toNat) % 2 ^ 32)

/-! ### Decoding, stepping, and the whole machine (R154, R158, R325 to R335, R80, R139, R197) -/

/-- R325 to R330: words written out from the fields of R325 hold the instructions they stand for, and R335's rejected words
none. -/
def Obligations.DecodeWords : Prop :=
  decode 0x03010400 = .ok (.iadds 0 1 1 0 0) ∧ decode 0x32010407 = .ok (.fmul 0 1 1 0 7) ∧
  decode 0x71000400 = .ok (.steer 0 0 1 0 0) ∧ decode 0x84080420 = .ok (.ldg 0 8 1 2 0) ∧
  decode 0xA5020400 = .ok (.rel 0 2 1 0 0) ∧ decode 0xB2380010 = .ok (.cpgo 3 8 0 1 0) ∧
  decode 0xC0080010 = .ok (.mxlw 0 8 0 1 0) ∧ decode 0xE0080400 = .ok (.shidx 0 8 1 0 0) ∧
  decode 0 = .error .void ∧ decode 0x00010000 = .error .reservedOp ∧ decode 0x28010400 = .error .reservedOp ∧
  decode 0x01710400 = .error .select ∧ decode 0x0101040B = .error .tagAction ∧ decode 0x7C000400 = .error .destination

/-- R325 to R335: every well-formed instruction that has a word is the one its word holds, and every word that holds an
instruction holds a well-formed one, whose word it is. -/
def Obligations.DecodeAndEncodeAgree : Prop :=
  (∀ (i : Instr) (w : Word), i.wellFormed = true → encode i = some w → decode w = .ok i) ∧
  ∀ (w : Word) (i : Instr), decode w = .ok i → encode i = some w ∧ i.wellFormed = true

/-- R158: a step takes the first item of the agenda off it: at a site it runs the instruction that the site's slot holds, an
event runs with its queue or ring in hand, and a word that holds no instruction stops the machine; a word placed by
State.withFetchWord is the one the next step runs. -/
def Obligations.StepRunsDecoded : Prop :=
  ∀ (s : State) (rest : List Item),
  (∀ st i, s.agenda = .fire st :: rest → decode (lookup 0 (elemOf s st.el).instr (key16 st.v st.slot)) = .ok i →
    step s = exec i { s with agenda := rest, focus := some st }) ∧
  (∀ st e, s.agenda = .fire st :: rest → decode (lookup 0 (elemOf s st.el).instr (key16 st.v st.slot)) = .error e →
    step s = .fault .badWord) ∧
  (∀ hand i, s.agenda = .event hand i :: rest → step s = exec i { s with agenda := rest, hand := hand }) ∧
  ∀ w i, decode (BitVec.ofNat 32 w) = .ok i → w < 2 ^ 32 → ∃ t : State, t.focus = some firstSite ∧ t.agenda = s.agenda ∧
    fetchWord t firstSite = BitVec.ofNat 32 w ∧ t.mem = s.mem ∧ t.dev = s.dev ∧ step (s.withFetchWord 32 w) = exec i t

/-- R15, R28, R33 to R35, R43, R44, R70, R77, R80, R107, R134: the machine right after reset: unpowered, with no feature
offered or active, no castling, trace time and its ERA at 0, no region in the pool, every queue IDLE with LASTSEQ
0xFFFFFFFF, the allocator at tag 1, and memory in canonical form. -/
def Obligations.ResetState : Prop :=
  let s := State.reset
  let d := s.dev
  s.memOk = true ∧ s.mem = [] ∧ s.agenda = [] ∧ d.stage = .off ∧ d.devFeat = 0 ∧ d.drvFeat = 0 ∧ d.featAct = 0 ∧ d.bar2base = 0 ∧
  d.castle.state = .idle ∧ d.castle.reason = 0 ∧ d.staging.state = 0 ∧ d.staging.err = 0 ∧ d.staging.received = 0 ∧
  d.clk.tt = 0 ∧ d.clk.era = 0 ∧ d.clk.lock = false ∧ d.linkUp = false ∧ d.log = [] ∧ d.trace.en = false ∧
  ∀ n q r, (partOf s n).tagNext = 1 ∧ (partOf s n).hold = false ∧ (partOf s n).dies = 3 ∧ (partOf s n).rmax = 0 ∧
    (partOf s n).ptEn = false ∧ (queueOf s n q).state = .idle ∧ (queueOf s n q).enable = false ∧ (queueOf s n q).fault = 0 ∧
    (queueOf s n q).rung = 0 ∧ (queueOf s n q).lastSeq = 0xFFFFFFFF#32 ∧ (queueOf s n q).t1us = 500 ∧ (queueOf s n q).t2us = 100 ∧
    (regionOf s r).owner = 0 ∧ (regionOf s r).state = .free ∧ (regionOf s r).avail = false

/-- A model invariant (log entry 3): every step keeps both memories in canonical form, rising addresses and no entry equal
to what an unlisted byte reads as. -/
def Obligations.StepKeepsMemory : Prop :=
  ∀ s t : State, s.memOk = true → step s = .next t → t.memOk = true

/-- R158, R162, R212 and R392: what the firing of an instruction leaves unchanged. No instruction but ARRIVE, MBXS and QPUT stores when
it fires. ARRIVE, which releases at its set's scope, changes only bytes that caches hold of stores acknowledged in its region (R212, R403). MBXS and QPUT
release at SYS first, and then store only in the 64 bytes of the slot at MBXTAIL, or of the ring's slot at the producer index; they
change nothing while the release waits, and no more than the release where the slot does not translate. QPUT's read of its record comes
after the writes to the host that a read there comes after (`s0` is the state in which they have performed). -/
def Obligations.FiringFrame : Prop :=
  (∀ (i : Instr) (w : Word) (s t : State), encode i = some w → (∀ a d e k, i ≠ .arrive a d e k) → (∀ a d e k, i ≠ .mbxs a d e k) →
    (∀ a b d e k, i ≠ .qput a b d e k) → exec i s = .next t → Kept s t) ∧
  (∀ (a : BitVec 4) (d e : BitVec 6) (k : BitVec 4) (s t : State), exec (.arrive a d e k) s = .next t →
    (slotInHand s = none → SameBut s t fun _ _ => False) ∧
    ∀ h, slotInHand s = some h → SameBut s t (dirtyAt s (elemRegion h.el))) ∧
  (∀ (a : BitVec 4) (d e : BitVec 6) (k : BitVec 4) (s t : State), exec (.mbxs a d e k) s = .next t →
    (slotInHand s = none → SameBut s t fun _ _ => False) ∧
    ∀ h, slotInHand s = some h →
      let n := cfgPart h.cfg
      let m := (partOf s n).mbx
      let r := elemRegion h.el
      match releaseSys s r with
      | none => SameBut s t fun _ _ => False
      | some s1 =>
        match placesVia (fun a => translateRing s1 n m.host m.pasid a .write) (m.base + 64 * (m.tail.toNat % 2 ^ m.log2)) 64 with
        | .ok ps => SameBut s t fun host x => releasedAt s r host x ∨ (⟨host, x⟩ : Place) ∈ ps
        | .error _ => SameBut s t (releasedAt s r)) ∧
  (∀ (a b : BitVec 4) (d e : BitVec 6) (k : BitVec 4) (s t : State), exec (.qput a b d e k) s = .next t →
    (readyFiring qputOp (form 0xAA a b d e k) s = none → SameBut s t fun _ _ => False) ∧
    ∀ f, readyFiring qputOp (form 0xAA a b d e k) s = some f →
      let ring := ringOf s f.part (qputQueue f) (qputRing f)
      let r := elemRegion f.el
      let s0 := match recOf s f.cfg ((laneOf f.b 0).toNat % 4096) with
        | some rc => seeHost s r (recordPlaces s (elemDie f.el) f.cfg rc (clipCoord rc [(laneOf f.a 1).toNat]) .read (List.range 16))
        | none => s
      let before (host : Bool) (x : Nat) : Prop := releasedAt s r host x ∨ onItsWay s (hostFirst r) host x
      match releaseSys s0 r with
      | none => SameBut s t fun _ _ => False
      | some s1 =>
        match placesVia (fun a => translateRing s1 f.part ring.host ring.pasid a .write)
            (ring.base + 64 * (ring.prod.toNat % 2 ^ ring.rlog2)) 64 with
        | .ok ps => SameBut s t fun host x => before host x ∨ (⟨host, x⟩ : Place) ∈ ps
        | .error _ => SameBut s t before)

/-- R8, R13 to R15, R17, R18, R20, R24, R26, R42 to R52, R87 to R99, R134 to R136 and R197 to R201: each event of the links, of castling with
its staging window, of trace time, of the data rings' streams and of translation and the memory controllers completes with its effect
wherever the conditions of its rule hold. -/
def Obligations.EventsComplete : Prop :=
  ∀ (s : State) (n q : Nat) (b : Body) (img : ImageFacts),
  let d := s.dev
  let c := d.castle
  let g := d.staging
  let u := queueOf s n q
  let completes (i : Instr) (effect : State → Prop) : Prop := ∃ t, exec i s = .next t ∧ effect t
  (d.perst = false → sidebandUp s = true → ∀ gts ∈ [32, 64, 128], ∀ width ∈ [1, 4, 8, 16],
    completes (.pcieLinkTrained ⟨true, gts⟩ width) fun t => t.dev.linkUp = true ∧ t.dev.linkGts = gts ∧ t.dev.linkWidth = width) ∧
  completes .orderlyPowerDownMessage (fun t => t.dev.orderlyDown = true) ∧
  (d.linkUp = true → completes .hostLinkLost fun t => t.dev.linkUp = false) ∧
  (s.hand = (n, q) → d.linkUp = false → d.orderlyDown = false → u.state = .saved → completes .linklostSaveComplete fun t =>
    (queueOf t n q).state = .linkLost ∧ (queueOf t n q).rung = 2 ∧ (queueOf t n q).fault = 0x40) ∧
  (d.linkUp = false → d.linkGts ≠ 0 → completes .hostLinkRetrained fun t =>
    t.dev.linkUp = true ∧ t.dev.orderlyDown = false ∧ t.dev.linkGts = d.linkGts ∧ t.dev.linkWidth = d.linkWidth) ∧
  (s.hand = (n, q) → u.state = .recovery → d.recoveryS * 16000000000 ≤ (tt s - u.rungAt).toNat → completes .recoveryTimeout fun t =>
    (queueOf t n q).state = .resetting ∧ (queueOf t n q).enable = false ∧ (queueOf t n q).fault = 0) ∧
  (∀ v : BitVec 64, let base := v.toNat / 2 ^ 30 % 2 ^ 22 * 2 ^ 30
    base % 2 ^ d.bar2log2 = 0 → completes (.bar2baseWrite v) fun t => t.dev.bar2base.toNat = base) ∧
  (∀ off x, off < 2 ^ d.bar2log2 → backed s (d.bar2base.toNat + off) = true →
    completes (.hostBar2Access off false [x]) (fun t => t.dev.hostRead = [readByte s.mem (d.bar2base.toNat + off)]) ∧
    (s.memOk = true → completes (.hostBar2Access off true [x]) fun t => readByte t.mem (d.bar2base.toNat + off) = x)) ∧
  (d.aux54 = true → ∀ gts, 1 ≤ gts → gts ≤ 32 ∨ gts = 64 → ∀ width ∈ [1, 2, 4, 8, 16], ∀ xs, expandersOk xs = true →
    completes (.cxlLinkTrained gts width xs) fun t => t.dev.cxlGts = gts ∧ t.dev.cxlWidth = width ∧ t.dev.expanders = xs) ∧
  (∀ k x, d.expanders[k]? = some x → completes (.expanderLost k) fun t => t.dev.lostRanges = d.lostRanges ++ [x]) ∧
  completes .d2dCorrectableRetry (fun t => t.dev.d2dRetries = d.d2dRetries + 1) ∧
  (∀ gs, completes (.d2dUncorrectableFlit gs) fun t => t.dev.d2dFlits = d.d2dFlits + 1) ∧
  (sidebandUp s = true → controllerPaused s = false → castling s = false → castleOffered s b = true →
    d.log.length < Config.measurementLogEntries → completes (.pldmFwUpdate b img) fun t =>
      t.dev.castle.state = .verify ∧ t.dev.castle.body = b ∧ t.dev.castle.image = some img) ∧
  (c.image = some img →
    (c.state = .verify → refusal s c.body img = none → completes .castleVerify fun t => t.dev.castle.verified = true) ∧
    (c.state = .verify → c.verified = true → (c.body = .engine → c.back = []) → completes .castleStaged fun t => t.dev.castle.state = .staged) ∧
    (c.state = .castlePoint → c.latched = [] → (c.body = .scheduler → s.fge.results = []) → allSwapped c = true → completes .castleImportDone fun t =>
      t.dev.castle.state = .probation ∧ imageOf t c.body = img) ∧
    (c.state = .probation → 16000000000 ≤ (tt s - c.importAt).toNat → (tt s - c.beatAt).toNat ≤ 160000000 →
      completes .castleCommit fun t => t.dev.castle.state = .committed ∧ imageIn t.dev.castle.committed c.body = img)) ∧
  (c.state = .staged → atCastlePoint s = true → completes .castlePoint fun t => t.dev.castle.state = .castlePoint) ∧
  (∀ e < 170, c.body = .engine → c.state = .castlePoint → e ∉ c.swapped → e ∉ c.back → c.stall = some e →
    completes (.engineStoreSwap e) fun t => t.dev.castle.swapped = c.swapped ++ [e]) ∧
  (c.state = .probation → (tt s - c.beatAt).toNat ≤ 160000000 → completes .castleHeartbeat fun t =>
    t.dev.castle.heartbeats = min 127 (c.heartbeats + 1)) ∧
  (c.state = .probation → 160000000 ≤ (tt s - c.beatAt).toNat → completes .heartbeatDeadline fun t => t.dev.castle.state = .fallback) ∧
  (atStage s .s1 = true →
    (∀ body : BitVec 2, body ≠ 3 → sizeOk g.size.toNat = true → completes (.fwsctlOpen body) fun t =>
      t.dev.staging.state = 1 ∧ t.dev.staging.total = g.size) ∧
    (g.push = false → g.state = 1 → 64 ≤ g.len.toNat → g.len.toNat % 64 = 0 → g.len.toNat ≤ 2 ^ 23 → g.off = g.received →
      g.off.toNat + g.len.toNat ≤ g.total.toNat → completes .fwspush fun t => t.dev.staging.push = true) ∧
    (g.total ≠ 0 → g.received = g.total → g.requested = false → castling s = false → completes (.fwsctlGo img) fun t =>
      t.dev.staging.state = 2)) ∧
  (g.push = true → completes .fwsChunkCopied fun t => t.dev.staging.push = false ∧ t.dev.staging.received = g.received + g.len.setWidth 32) ∧
  (sidebandUp s = true → controllerPaused s = false →
    (∀ secs, completes (.timeOfDayDelivery secs) fun t => t.dev.clk.tod = some secs) ∧
    completes .ppsEdge (fun t => t.dev.clk.tod = none)) ∧
  (∀ last, d.clk.holdover = false → d.clk.lastEdge = some last → 24000000000 ≤ (tt s - last).toNat → completes .ppsHoldover fun t =>
    t.dev.clk.holdover = true ∧ t.dev.clk.lock = false) ∧
  (d.clk.tt = BitVec.allOnes 64 → completes .ttEraWrap fun t => t.dev.clk.tt = 0 ∧ t.dev.clk.era = d.clk.era + 1) ∧
  (∀ diff : BitVec 16, completes (.d2dTimeCalibration diff) fun t => t.dev.clk.skew = diff) ∧
  completes .skewAlarm (fun t => ∃ e, t.traceOut = s.traceOut ++ [e] ∧ e.cls = 16 ∧ e.code = 3) ∧
  (∀ k bs,
    let r := dringOf s n k
    let body (off w : Nat) : Nat := leNat ((bs.drop (8 + off)).take w)
    let at_ : Nat := body 0 8 + 16 * shidx (body 16 4) (shuffleKeys (body 8 8) (body 28 4)) (body 20 4 + r.spanPos)
    let flows : Prop := s.hand = (n, k) ∧ losslessNow s n = false
    (∀ e raw, AtRing s n k 0x21 bs → r.samplePos = 0 → dringRead s n r at_ 16 = .ok e →
      let entry := e.map (·.1)
      let len := leNat ((entry.drop 8).take 4)
      leNat (entry.take 8) % 4 = 0 → 1 ≤ len → len ≤ 32767 → leNat ((entry.drop 12).take 4) = 0 →
      dringRead s n r (leNat (entry.take 8)) (4 * len) = .ok raw →
      completes .span fun t => (dringOf t n k).spanPos = r.spanPos + 1) ∧
    (∀ raw, AtRing s n k 0x22 bs → r.samplePos = 0 → dringRead s n r (body 0 8) (4 * body 8 4) = .ok raw →
      completes .sample fun t => (dringOf t n k).delivered = true) ∧
    (AtRing s n k 0x23 bs → r.tag.isSome = true → completes .flush fun t =>
      (dringOf t n k).delivered = true ∧ (dringOf t n k).tag = none) ∧
    (flows → r.delivered = true → r.parkedPage = none → r.pubs = [] → r.pubAddr = 0 → completes .dataPacketConsumed fun t =>
      (dringOf t n k).consumed = r.consumed + 1 ∧ (dringOf t n k).packet = none) ∧
    (∀ tg u, flows → r.packet = some bs → r.delivered = false → r.tag = none → dringGoes s n r = true →
      newTag s n (fun u => { alloc := true, link := u, head := u }) = some (tg, u) → (graphOf s n r.graph).life ≠ .free →
      completes .streamOpen fun t => (dringOf t n k).tag = some tg ∧ (dringOf t n k).opening = true) ∧
    (∀ l pl, flows → r.opening = true → plainRing r = true → r.closeNext = false → r.marks = false →
      (graphOf s n r.graph).life = .loaded → (graphOf s n r.graph).config.launch[r.dent]? = some l →
      launchStrm (graphOf s n r.graph).config l = true →
      ((List.range 4).findSome? fun q => readyPlace s n q r.graph) = some pl →
      completes .streamBind fun t => (dringOf t n k).opening = false ∧ (dringOf t n k).bound.isSome = true) ∧
    (∀ tg rest u, flows → r.closings = tg :: rest → liveCount s n tg = 0 → r.state ≠ .resetting →
      releaseQueue s n (dringQueue s n r) = some u → completes .streamComplete fun t =>
        (dringOf t n k).streams = r.streams + 1 ∧ (tagInfo t n tg).alloc = false)) ∧
  (∀ die page pte level, (partOf s n).ptEn = true → walk s n (page * 4096 % 2 ^ 57) = .leaf pte level →
    completes (.translationWalk ⟨die, n⟩ page) fun t => resolve t die n (page * 4096 % 2 ^ 57) = .leaf pte level) ∧
  (∀ page f, faultOf s n page = some f →
    ((loadManager s).isSome = true → (∀ w, completes (.rmResolve n page (some w)) fun t => (faultOf t n page).map (·.resolved) = some true) ∧
      completes (.rmResolve n page none) fun t => ∀ r ∈ t.reqs, reqPart r = n → r.parked ≠ some page) ∧
    (page < 2 ^ 52 ∨ f ∈ priAsked s → completes (.priPageResponse n page true) (fun t => (faultOf t n page).map (·.resolved) = some true) ∧
      completes (.priPageResponse n page false) fun t => ∀ r ∈ t.reqs, reqPart r = n → r.parked ≠ some page) ∧
    (f.resolved = true → page < 2 ^ 52 → completes (.faultReplay n page) fun t => ∀ r ∈ t.reqs, reqPart r = n → r.parked ≠ some page)) ∧
  (∀ pasid page, let hp := 2 ^ 52 * (pasid + 1) + page % 2 ^ 52
    (hp ∈ s.atsPending → ∀ answer, completes (.atsTranslationResponse pasid page answer) fun t => lookup none t.ats hp = some answer) ∧
    completes (.atsInvalidation pasid page) fun t => lookup none t.ats hp = none) ∧
  (∀ v : BitVec 64, invalidating s = false → completes (.tlbinvWrite v) fun t => t.dev.tlbinv.toNat % 64 = v.toNat % 64 ∧
    ∀ e ∈ t.tlb, e.1 % 2 ^ 51 / 2 ^ 45 = v.toNat % 32 → v.getLsbD 5 = false) ∧
  (∀ stack pc m,
    let ev (code m : Nat) : State :=
      emitEvent s (stack / 4) (0x700 + stack % 4) 11 code 0 (stack % 8 + 8 * (pc % 32) + 256 * (m % 2 ^ 24))
    completes (.hbmForcedRefresh stack pc) (· = ev 0 1) ∧ completes (.hbmCorrectedError stack pc m) (· = ev 1 m)) ∧
  (∀ pa pc, pa < 0x8000000000 → completes (.hbmUncorrectableError pa pc) fun t => pa / 64 ∈ t.poison) ∧
  ∀ r p, completes (.latctlClr r p) fun t => lookup {} (regionOf t r).lat p = {}
end

