-- ==== Sys2Proof/Laws/Firing.lean ====
section
/-! SUPPORT. What a firing does, said once: a slot that goes and that nothing holds back does what its opcode's body
does. -/

namespace Sys2Proof.Machine

/-- A fault FIFO that is full of a die holds a fault of that die (R103). -/
theorem full_holds (l : List FaultTok) (d : Nat) (hl : Config.faultFifoEntries ≤ (l.filter fun g => regionDie g.region == d).length) :
    ∃ f ∈ l, regionDie f.region = d := by
  have h0 : 0 < (l.filter fun g => regionDie g.region == d).length := Nat.lt_of_lt_of_le (by decide) hl
  obtain ⟨f, hf⟩ := List.exists_mem_of_length_pos h0
  simp only [List.mem_filter, beq_iff_eq] at hf
  exact ⟨f, hf⟩

theorem holdForFge_free (s s' : State)
    (h : (s.faults.all fun f =>
      decide ((s.faults.filter fun g => regionDie g.region == regionDie f.region).length < Config.faultFifoEntries)) = true) :
    holdForFge s s' = s' := by
  unfold holdForFge
  split
  · refine if_neg fun hl => ?_
    obtain ⟨f, hf, hd⟩ := full_holds _ _ hl
    have := List.all_eq_true.1 h f hf
    simp only [decide_eq_true_eq, hd] at this
    omega
  · rfl

theorem holdForTrace_reportable (s s' : State) (n : Nat) (h : reportable s n = true) : holdForTrace s s' n = s' := by
  simp only [reportable, Bool.and_eq_true, Bool.or_eq_true, Bool.not_eq_true', decide_eq_true_eq] at h
  obtain ⟨hf, hr⟩ := h
  unfold holdForTrace
  have : traceHolds s s' n = false := by
    unfold traceHolds
    rcases hr with hr | hr
    · simp [hr]
    · have : ¬ freeSlots s n < 16 + slotsNeeded (partOf s n).trace (newStalling s s' n).length := by
        simp only [slotsNeeded]; omega
      simp [this]
  rw [if_neg (by simp [this])]
  exact holdForFge_free s s' hf

theorem holdForTrace_free (s s' : State) (n : Nat) (h : unheld s n = true) : holdForTrace s s' n = s' :=
  holdForTrace_reportable s s' n (by simp only [unheld, Bool.and_eq_true] at h; exact h.1)

theorem stallsOnTag_free (fm : Form) (s : State) (go : State → Slot → State) (h : Slot)
    (hu : unheld s (cfgPart h.cfg) = true) : stallsOnTag fm s go h = false := by
  simp only [unheld, Bool.and_eq_true, Bool.not_eq_true'] at hu
  simp [stallsOnTag, hu.2]

/-- The firing of a slot that nothing holds back. -/
theorem fireSlot_free (fm : Form) (s : State) (go : State → Slot → State) (h : Slot) (hs : slotInHand s = some h)
    (hr : roomFor s h.el h.v fm = true) (hd : dividerBusy fm s h = false) (hu : unheld s (cfgPart h.cfg) = true) :
    fireSlot fm s go = go s h := by
  simp only [fireSlot, hs, hr, hd, Bool.not_true, Bool.or_self, Bool.false_eq_true, if_false, stallsOnTag_free fm s go h hu]
  exact holdForTrace_free s _ _ hu

/-- A slot that goes does what its opcode's body answers. -/
theorem fire_go {o : Op} {fm : Form} {s s1 u : State} {f : Firing} (hg : Goes s fm o.compare f s1)
    (hb : o.body s1 f = some u) : fire o fm s = u := by
  obtain ⟨h, i, hs, hi, hr, hd, hu, hg⟩ := hg
  simp only [fire, hi]
  rw [fireSlot_free fm s _ h hs hr hd hu, hg]
  simp [fireReady, hb]

/-- The results of a firing whose tag action has a tag. -/
theorem emit_tag {s s2 : State} {f : Firing} {tag : Tag} (outs : List Out) (h : resultTag s f = some (tag, s2)) :
    emit s f outs = some (sent s2 f tag outs) := by
  simp [emit, h, sent]

/-- A DATA result whose lanes a function of the lane number gives: masked lanes are zero (R162). -/
theorem dataTok_map (n : Nat) (g : Nat → Word) (m : BitVec 8) (fmt : Fmt) (pred : Bool) (aux : Option Word) :
    dataTok ((List.range n).map g) m fmt pred aux =
      { kind := .data, fmt := fmt, lanes := (List.range n).map fun j => if m.getLsbD j then g j else 0,
        mask := m &&& lowMask n, pred := pred, aux := aux } := by
  have : maskLanes m ((List.range n).map g) = (List.range n).map fun j => if m.getLsbD j then g j else 0 := by
    apply List.ext_getElem <;> simp [maskLanes]
  simp [dataTok, this]

end Sys2Proof.Machine
end

