-- ==== Sys2Proof/Laws/Sparse.lean ====
section
/-! SUPPORT. The laws of sparse tables: what is read after a write or an erasure, and that both keep keys rising. -/

namespace Sys2Proof.Machine

variable {α : Type}

theorem lookup_store_same (d : α) (m : Sparse α) (k : Nat) (v : α) : lookup d (store m k v) k = v := by
  induction m with
  | nil => simp [store, lookup]
  | cons e m ih =>
    simp only [store]
    split
    · simp [lookup]
    · split
      · simp [lookup]
      · rename_i h _
        simp [lookup, h, ih]

theorem lookup_store_other (d : α) (m : Sparse α) (k j : Nat) (v : α) (h : j ≠ k) : lookup d (store m k v) j = lookup d m j := by
  induction m with
  | nil => simp [store, lookup, h.symm]
  | cons e m ih =>
    simp only [store]
    split
    · rename_i he; simp [lookup, he, h.symm]
    · split
      · simp [lookup, h.symm]
      · simp only [lookup, ih]

theorem lookup_erase_other (d : α) (m : Sparse α) (k j : Nat) (h : j ≠ k) : lookup d (erase m k) j = lookup d m j := by
  induction m with
  | nil => rfl
  | cons e m ih =>
    simp only [erase]
    split
    · rename_i he; simp [lookup, he, h.symm]
    · simp only [lookup, ih]

/-- Every key of a table is above `k`. -/
def above (k : Nat) (m : Sparse α) : Prop := ∀ e ∈ m, k < e.1

theorem rising_cons {e : Nat × α} {m : Sparse α} : rising (e :: m) = true ↔ above e.1 m ∧ rising m = true := by
  obtain ⟨k, v⟩ := e
  induction m generalizing k v with
  | nil => simp [rising, above]
  | cons f m ih =>
    obtain ⟨j, w⟩ := f
    simp only [rising, Bool.and_eq_true, decide_eq_true_eq, ih, above, List.forall_mem_cons]
    exact ⟨fun ⟨h, ha, hm⟩ => ⟨⟨h, fun x hx => Nat.lt_trans h (ha x hx)⟩, ha, hm⟩, fun ⟨⟨h, _⟩, ha, hm⟩ => ⟨h, ha, hm⟩⟩

theorem lookup_above (d : α) {m : Sparse α} {k j : Nat} (h : above k m) (hj : j ≤ k) : lookup d m j = d := by
  induction m with
  | nil => rfl
  | cons e m ih =>
    simp only [above, List.forall_mem_cons] at h
    simp only [lookup]
    rw [if_neg (by omega)]
    exact ih h.2

theorem lookup_erase_same (d : α) {m : Sparse α} (k : Nat) (h : rising m = true) : lookup d (erase m k) k = d := by
  induction m with
  | nil => rfl
  | cons e m ih =>
    obtain ⟨ha, hm⟩ := rising_cons.1 h
    simp only [erase]
    split
    · rename_i he; exact lookup_above d (he ▸ ha) (Nat.le_refl _)
    · rename_i he; simp [lookup, he, ih hm]

theorem above_store {m : Sparse α} {k j : Nat} {v : α} (h : above j m) (hk : j < k) : above j (store m k v) := by
  induction m with
  | nil => simpa [store, above] using hk
  | cons e m ih =>
    simp only [above, List.forall_mem_cons] at h
    simp only [store]
    split
    · simpa [above] using ⟨hk, fun a b hab => h.2 (a, b) hab⟩
    · split
      · simpa [above] using ⟨hk, h.1, fun a b hab => h.2 (a, b) hab⟩
      · have := ih h.2
        simpa [above] using ⟨h.1, fun a b hab => this (a, b) hab⟩

/-- A write keeps the keys rising. -/
theorem rising_store {m : Sparse α} (k : Nat) (v : α) (h : rising m = true) : rising (store m k v) = true := by
  induction m with
  | nil => rfl
  | cons e m ih =>
    obtain ⟨ha, hm⟩ := rising_cons.1 h
    simp only [store]
    split
    · rename_i he; exact rising_cons.2 ⟨he ▸ ha, hm⟩
    · split
      · rename_i hk
        exact rising_cons.2 ⟨by simpa [above] using ⟨hk, fun a b hab => Nat.lt_trans hk (ha (a, b) hab)⟩, h⟩
      · rename_i he hk
        exact rising_cons.2 ⟨above_store ha (by simp only at he hk ⊢; omega), ih hm⟩

theorem mem_of_erase {m : Sparse α} {k : Nat} {e : Nat × α} (h : e ∈ erase m k) : e ∈ m := by
  induction m with
  | nil => simp [erase] at h
  | cons f m ih =>
    simp only [erase] at h
    split at h
    · exact List.mem_cons_of_mem _ h
    · rcases List.mem_cons.1 h with h | h
      · exact h ▸ List.mem_cons_self ..
      · exact List.mem_cons_of_mem _ (ih h)

theorem mem_of_store {m : Sparse α} {k : Nat} {v : α} {e : Nat × α} (h : e ∈ store m k v) : e = (k, v) ∨ e ∈ m := by
  induction m with
  | nil => simpa [store] using h
  | cons f m ih =>
    simp only [store] at h
    split at h
    · rcases List.mem_cons.1 h with h | h
      · exact .inl h
      · exact .inr (List.mem_cons_of_mem _ h)
    · split at h
      · rcases List.mem_cons.1 h with h | h
        · exact .inl h
        · exact .inr h
      · rcases List.mem_cons.1 h with h | h
        · exact .inr (h ▸ List.mem_cons_self ..)
        · exact (ih h).imp id (List.mem_cons_of_mem _)

/-- An erasure keeps the keys rising. -/
theorem rising_erase {m : Sparse α} (k : Nat) (h : rising m = true) : rising (erase m k) = true := by
  induction m with
  | nil => rfl
  | cons e m ih =>
    obtain ⟨ha, hm⟩ := rising_cons.1 h
    simp only [erase]
    split
    · exact hm
    · exact rising_cons.2 ⟨fun x hx => ha x (mem_of_erase hx), ih hm⟩

end Sys2Proof.Machine
end

