-- ==== Sys2Proof/Laws/State.lean ====
section
/-! SUPPORT. What each update of the state leaves as it was, a lemma for every field, and what it makes of the part it
names. -/

namespace Sys2Proof.Machine

variable (s : State)

/-! ### setPart -/

@[simp] theorem setPart_agenda (n : Nat) (p : Part) : (setPart s n p).agenda = s.agenda := rfl
@[simp] theorem setPart_focus (n : Nat) (p : Part) : (setPart s n p).focus = s.focus := rfl
@[simp] theorem setPart_hand (n : Nat) (p : Part) : (setPart s n p).hand = s.hand := rfl
@[simp] theorem setPart_dev (n : Nat) (p : Part) : (setPart s n p).dev = s.dev := rfl
@[simp] theorem setPart_regions (n : Nat) (p : Part) : (setPart s n p).regions = s.regions := rfl
@[simp] theorem setPart_elems (n : Nat) (p : Part) : (setPart s n p).elems = s.elems := rfl
@[simp] theorem setPart_cores (n : Nat) (p : Part) : (setPart s n p).cores = s.cores := rfl
@[simp] theorem setPart_clusters (n : Nat) (p : Part) : (setPart s n p).clusters = s.clusters := rfl
@[simp] theorem setPart_ingress (n : Nat) (p : Part) : (setPart s n p).ingress = s.ingress := rfl
@[simp] theorem setPart_dieSets (n : Nat) (p : Part) : (setPart s n p).dieSets = s.dieSets := rfl
@[simp] theorem setPart_mem (n : Nat) (p : Part) : (setPart s n p).mem = s.mem := rfl
@[simp] theorem setPart_hostMem (n : Nat) (p : Part) : (setPart s n p).hostMem = s.hostMem := rfl
@[simp] theorem setPart_poison (n : Nat) (p : Part) : (setPart s n p).poison = s.poison := rfl
@[simp] theorem setPart_hostPoison (n : Nat) (p : Part) : (setPart s n p).hostPoison = s.hostPoison := rfl
@[simp] theorem setPart_tlb (n : Nat) (p : Part) : (setPart s n p).tlb = s.tlb := rfl
@[simp] theorem setPart_ats (n : Nat) (p : Part) : (setPart s n p).ats = s.ats := rfl
@[simp] theorem setPart_atsPending (n : Nat) (p : Part) : (setPart s n p).atsPending = s.atsPending := rfl
@[simp] theorem setPart_pageFaults (n : Nat) (p : Part) : (setPart s n p).pageFaults = s.pageFaults := rfl
@[simp] theorem setPart_net (n : Nat) (p : Part) : (setPart s n p).net = s.net := rfl
@[simp] theorem setPart_reqs (n : Nat) (p : Part) : (setPart s n p).reqs = s.reqs := rfl
@[simp] theorem setPart_cmds (n : Nat) (p : Part) : (setPart s n p).cmds = s.cmds := rfl
@[simp] theorem setPart_copies (n : Nat) (p : Part) : (setPart s n p).copies = s.copies := rfl
@[simp] theorem setPart_drpRows (n : Nat) (p : Part) : (setPart s n p).drpRows = s.drpRows := rfl
@[simp] theorem setPart_posted (n : Nat) (p : Part) : (setPart s n p).posted = s.posted := rfl
@[simp] theorem setPart_orders (n : Nat) (p : Part) : (setPart s n p).orders = s.orders := rfl
@[simp] theorem setPart_nextIdent (n : Nat) (p : Part) : (setPart s n p).nextIdent = s.nextIdent := rfl
@[simp] theorem setPart_fge (n : Nat) (p : Part) : (setPart s n p).fge = s.fge := rfl
@[simp] theorem setPart_faults (n : Nat) (p : Part) : (setPart s n p).faults = s.faults := rfl
@[simp] theorem setPart_traceOut (n : Nat) (p : Part) : (setPart s n p).traceOut = s.traceOut := rfl
@[simp] theorem setPart_moment (n : Nat) (p : Part) : (setPart s n p).moment = s.moment := rfl
@[simp] theorem setPart_ages (n : Nat) (p : Part) : (setPart s n p).ages = s.ages := rfl

/-! ### modPart -/

@[simp] theorem modPart_agenda (n : Nat) (f : Part → Part) : (modPart s n f).agenda = s.agenda := rfl
@[simp] theorem modPart_focus (n : Nat) (f : Part → Part) : (modPart s n f).focus = s.focus := rfl
@[simp] theorem modPart_hand (n : Nat) (f : Part → Part) : (modPart s n f).hand = s.hand := rfl
@[simp] theorem modPart_dev (n : Nat) (f : Part → Part) : (modPart s n f).dev = s.dev := rfl
@[simp] theorem modPart_regions (n : Nat) (f : Part → Part) : (modPart s n f).regions = s.regions := rfl
@[simp] theorem modPart_elems (n : Nat) (f : Part → Part) : (modPart s n f).elems = s.elems := rfl
@[simp] theorem modPart_cores (n : Nat) (f : Part → Part) : (modPart s n f).cores = s.cores := rfl
@[simp] theorem modPart_clusters (n : Nat) (f : Part → Part) : (modPart s n f).clusters = s.clusters := rfl
@[simp] theorem modPart_ingress (n : Nat) (f : Part → Part) : (modPart s n f).ingress = s.ingress := rfl
@[simp] theorem modPart_dieSets (n : Nat) (f : Part → Part) : (modPart s n f).dieSets = s.dieSets := rfl
@[simp] theorem modPart_mem (n : Nat) (f : Part → Part) : (modPart s n f).mem = s.mem := rfl
@[simp] theorem modPart_hostMem (n : Nat) (f : Part → Part) : (modPart s n f).hostMem = s.hostMem := rfl
@[simp] theorem modPart_poison (n : Nat) (f : Part → Part) : (modPart s n f).poison = s.poison := rfl
@[simp] theorem modPart_hostPoison (n : Nat) (f : Part → Part) : (modPart s n f).hostPoison = s.hostPoison := rfl
@[simp] theorem modPart_tlb (n : Nat) (f : Part → Part) : (modPart s n f).tlb = s.tlb := rfl
@[simp] theorem modPart_ats (n : Nat) (f : Part → Part) : (modPart s n f).ats = s.ats := rfl
@[simp] theorem modPart_atsPending (n : Nat) (f : Part → Part) : (modPart s n f).atsPending = s.atsPending := rfl
@[simp] theorem modPart_pageFaults (n : Nat) (f : Part → Part) : (modPart s n f).pageFaults = s.pageFaults := rfl
@[simp] theorem modPart_net (n : Nat) (f : Part → Part) : (modPart s n f).net = s.net := rfl
@[simp] theorem modPart_reqs (n : Nat) (f : Part → Part) : (modPart s n f).reqs = s.reqs := rfl
@[simp] theorem modPart_cmds (n : Nat) (f : Part → Part) : (modPart s n f).cmds = s.cmds := rfl
@[simp] theorem modPart_copies (n : Nat) (f : Part → Part) : (modPart s n f).copies = s.copies := rfl
@[simp] theorem modPart_drpRows (n : Nat) (f : Part → Part) : (modPart s n f).drpRows = s.drpRows := rfl
@[simp] theorem modPart_posted (n : Nat) (f : Part → Part) : (modPart s n f).posted = s.posted := rfl
@[simp] theorem modPart_orders (n : Nat) (f : Part → Part) : (modPart s n f).orders = s.orders := rfl
@[simp] theorem modPart_nextIdent (n : Nat) (f : Part → Part) : (modPart s n f).nextIdent = s.nextIdent := rfl
@[simp] theorem modPart_fge (n : Nat) (f : Part → Part) : (modPart s n f).fge = s.fge := rfl
@[simp] theorem modPart_faults (n : Nat) (f : Part → Part) : (modPart s n f).faults = s.faults := rfl
@[simp] theorem modPart_traceOut (n : Nat) (f : Part → Part) : (modPart s n f).traceOut = s.traceOut := rfl
@[simp] theorem modPart_moment (n : Nat) (f : Part → Part) : (modPart s n f).moment = s.moment := rfl
@[simp] theorem modPart_ages (n : Nat) (f : Part → Part) : (modPart s n f).ages = s.ages := rfl

/-! ### modQueue -/

@[simp] theorem modQueue_agenda (n q : Nat) (f : Queue → Queue) : (modQueue s n q f).agenda = s.agenda := rfl
@[simp] theorem modQueue_focus (n q : Nat) (f : Queue → Queue) : (modQueue s n q f).focus = s.focus := rfl
@[simp] theorem modQueue_hand (n q : Nat) (f : Queue → Queue) : (modQueue s n q f).hand = s.hand := rfl
@[simp] theorem modQueue_dev (n q : Nat) (f : Queue → Queue) : (modQueue s n q f).dev = s.dev := rfl
@[simp] theorem modQueue_regions (n q : Nat) (f : Queue → Queue) : (modQueue s n q f).regions = s.regions := rfl
@[simp] theorem modQueue_elems (n q : Nat) (f : Queue → Queue) : (modQueue s n q f).elems = s.elems := rfl
@[simp] theorem modQueue_cores (n q : Nat) (f : Queue → Queue) : (modQueue s n q f).cores = s.cores := rfl
@[simp] theorem modQueue_clusters (n q : Nat) (f : Queue → Queue) : (modQueue s n q f).clusters = s.clusters := rfl
@[simp] theorem modQueue_ingress (n q : Nat) (f : Queue → Queue) : (modQueue s n q f).ingress = s.ingress := rfl
@[simp] theorem modQueue_dieSets (n q : Nat) (f : Queue → Queue) : (modQueue s n q f).dieSets = s.dieSets := rfl
@[simp] theorem modQueue_mem (n q : Nat) (f : Queue → Queue) : (modQueue s n q f).mem = s.mem := rfl
@[simp] theorem modQueue_hostMem (n q : Nat) (f : Queue → Queue) : (modQueue s n q f).hostMem = s.hostMem := rfl
@[simp] theorem modQueue_poison (n q : Nat) (f : Queue → Queue) : (modQueue s n q f).poison = s.poison := rfl
@[simp] theorem modQueue_hostPoison (n q : Nat) (f : Queue → Queue) : (modQueue s n q f).hostPoison = s.hostPoison := rfl
@[simp] theorem modQueue_tlb (n q : Nat) (f : Queue → Queue) : (modQueue s n q f).tlb = s.tlb := rfl
@[simp] theorem modQueue_ats (n q : Nat) (f : Queue → Queue) : (modQueue s n q f).ats = s.ats := rfl
@[simp] theorem modQueue_atsPending (n q : Nat) (f : Queue → Queue) : (modQueue s n q f).atsPending = s.atsPending := rfl
@[simp] theorem modQueue_pageFaults (n q : Nat) (f : Queue → Queue) : (modQueue s n q f).pageFaults = s.pageFaults := rfl
@[simp] theorem modQueue_net (n q : Nat) (f : Queue → Queue) : (modQueue s n q f).net = s.net := rfl
@[simp] theorem modQueue_reqs (n q : Nat) (f : Queue → Queue) : (modQueue s n q f).reqs = s.reqs := rfl
@[simp] theorem modQueue_cmds (n q : Nat) (f : Queue → Queue) : (modQueue s n q f).cmds = s.cmds := rfl
@[simp] theorem modQueue_copies (n q : Nat) (f : Queue → Queue) : (modQueue s n q f).copies = s.copies := rfl
@[simp] theorem modQueue_drpRows (n q : Nat) (f : Queue → Queue) : (modQueue s n q f).drpRows = s.drpRows := rfl
@[simp] theorem modQueue_posted (n q : Nat) (f : Queue → Queue) : (modQueue s n q f).posted = s.posted := rfl
@[simp] theorem modQueue_orders (n q : Nat) (f : Queue → Queue) : (modQueue s n q f).orders = s.orders := rfl
@[simp] theorem modQueue_nextIdent (n q : Nat) (f : Queue → Queue) : (modQueue s n q f).nextIdent = s.nextIdent := rfl
@[simp] theorem modQueue_fge (n q : Nat) (f : Queue → Queue) : (modQueue s n q f).fge = s.fge := rfl
@[simp] theorem modQueue_faults (n q : Nat) (f : Queue → Queue) : (modQueue s n q f).faults = s.faults := rfl
@[simp] theorem modQueue_traceOut (n q : Nat) (f : Queue → Queue) : (modQueue s n q f).traceOut = s.traceOut := rfl
@[simp] theorem modQueue_moment (n q : Nat) (f : Queue → Queue) : (modQueue s n q f).moment = s.moment := rfl
@[simp] theorem modQueue_ages (n q : Nat) (f : Queue → Queue) : (modQueue s n q f).ages = s.ages := rfl

/-! ### modRing -/

@[simp] theorem modRing_agenda (n q i : Nat) (f : Ring → Ring) : (modRing s n q i f).agenda = s.agenda := rfl
@[simp] theorem modRing_focus (n q i : Nat) (f : Ring → Ring) : (modRing s n q i f).focus = s.focus := rfl
@[simp] theorem modRing_hand (n q i : Nat) (f : Ring → Ring) : (modRing s n q i f).hand = s.hand := rfl
@[simp] theorem modRing_dev (n q i : Nat) (f : Ring → Ring) : (modRing s n q i f).dev = s.dev := rfl
@[simp] theorem modRing_regions (n q i : Nat) (f : Ring → Ring) : (modRing s n q i f).regions = s.regions := rfl
@[simp] theorem modRing_elems (n q i : Nat) (f : Ring → Ring) : (modRing s n q i f).elems = s.elems := rfl
@[simp] theorem modRing_cores (n q i : Nat) (f : Ring → Ring) : (modRing s n q i f).cores = s.cores := rfl
@[simp] theorem modRing_clusters (n q i : Nat) (f : Ring → Ring) : (modRing s n q i f).clusters = s.clusters := rfl
@[simp] theorem modRing_ingress (n q i : Nat) (f : Ring → Ring) : (modRing s n q i f).ingress = s.ingress := rfl
@[simp] theorem modRing_dieSets (n q i : Nat) (f : Ring → Ring) : (modRing s n q i f).dieSets = s.dieSets := rfl
@[simp] theorem modRing_mem (n q i : Nat) (f : Ring → Ring) : (modRing s n q i f).mem = s.mem := rfl
@[simp] theorem modRing_hostMem (n q i : Nat) (f : Ring → Ring) : (modRing s n q i f).hostMem = s.hostMem := rfl
@[simp] theorem modRing_poison (n q i : Nat) (f : Ring → Ring) : (modRing s n q i f).poison = s.poison := rfl
@[simp] theorem modRing_hostPoison (n q i : Nat) (f : Ring → Ring) : (modRing s n q i f).hostPoison = s.hostPoison := rfl
@[simp] theorem modRing_tlb (n q i : Nat) (f : Ring → Ring) : (modRing s n q i f).tlb = s.tlb := rfl
@[simp] theorem modRing_ats (n q i : Nat) (f : Ring → Ring) : (modRing s n q i f).ats = s.ats := rfl
@[simp] theorem modRing_atsPending (n q i : Nat) (f : Ring → Ring) : (modRing s n q i f).atsPending = s.atsPending := rfl
@[simp] theorem modRing_pageFaults (n q i : Nat) (f : Ring → Ring) : (modRing s n q i f).pageFaults = s.pageFaults := rfl
@[simp] theorem modRing_net (n q i : Nat) (f : Ring → Ring) : (modRing s n q i f).net = s.net := rfl
@[simp] theorem modRing_reqs (n q i : Nat) (f : Ring → Ring) : (modRing s n q i f).reqs = s.reqs := rfl
@[simp] theorem modRing_cmds (n q i : Nat) (f : Ring → Ring) : (modRing s n q i f).cmds = s.cmds := rfl
@[simp] theorem modRing_copies (n q i : Nat) (f : Ring → Ring) : (modRing s n q i f).copies = s.copies := rfl
@[simp] theorem modRing_drpRows (n q i : Nat) (f : Ring → Ring) : (modRing s n q i f).drpRows = s.drpRows := rfl
@[simp] theorem modRing_posted (n q i : Nat) (f : Ring → Ring) : (modRing s n q i f).posted = s.posted := rfl
@[simp] theorem modRing_orders (n q i : Nat) (f : Ring → Ring) : (modRing s n q i f).orders = s.orders := rfl
@[simp] theorem modRing_nextIdent (n q i : Nat) (f : Ring → Ring) : (modRing s n q i f).nextIdent = s.nextIdent := rfl
@[simp] theorem modRing_fge (n q i : Nat) (f : Ring → Ring) : (modRing s n q i f).fge = s.fge := rfl
@[simp] theorem modRing_faults (n q i : Nat) (f : Ring → Ring) : (modRing s n q i f).faults = s.faults := rfl
@[simp] theorem modRing_traceOut (n q i : Nat) (f : Ring → Ring) : (modRing s n q i f).traceOut = s.traceOut := rfl
@[simp] theorem modRing_moment (n q i : Nat) (f : Ring → Ring) : (modRing s n q i f).moment = s.moment := rfl
@[simp] theorem modRing_ages (n q i : Nat) (f : Ring → Ring) : (modRing s n q i f).ages = s.ages := rfl

/-! ### modDring -/

@[simp] theorem modDring_agenda (n d : Nat) (f : DataRing → DataRing) : (modDring s n d f).agenda = s.agenda := rfl
@[simp] theorem modDring_focus (n d : Nat) (f : DataRing → DataRing) : (modDring s n d f).focus = s.focus := rfl
@[simp] theorem modDring_hand (n d : Nat) (f : DataRing → DataRing) : (modDring s n d f).hand = s.hand := rfl
@[simp] theorem modDring_dev (n d : Nat) (f : DataRing → DataRing) : (modDring s n d f).dev = s.dev := rfl
@[simp] theorem modDring_regions (n d : Nat) (f : DataRing → DataRing) : (modDring s n d f).regions = s.regions := rfl
@[simp] theorem modDring_elems (n d : Nat) (f : DataRing → DataRing) : (modDring s n d f).elems = s.elems := rfl
@[simp] theorem modDring_cores (n d : Nat) (f : DataRing → DataRing) : (modDring s n d f).cores = s.cores := rfl
@[simp] theorem modDring_clusters (n d : Nat) (f : DataRing → DataRing) : (modDring s n d f).clusters = s.clusters := rfl
@[simp] theorem modDring_ingress (n d : Nat) (f : DataRing → DataRing) : (modDring s n d f).ingress = s.ingress := rfl
@[simp] theorem modDring_dieSets (n d : Nat) (f : DataRing → DataRing) : (modDring s n d f).dieSets = s.dieSets := rfl
@[simp] theorem modDring_mem (n d : Nat) (f : DataRing → DataRing) : (modDring s n d f).mem = s.mem := rfl
@[simp] theorem modDring_hostMem (n d : Nat) (f : DataRing → DataRing) : (modDring s n d f).hostMem = s.hostMem := rfl
@[simp] theorem modDring_poison (n d : Nat) (f : DataRing → DataRing) : (modDring s n d f).poison = s.poison := rfl
@[simp] theorem modDring_hostPoison (n d : Nat) (f : DataRing → DataRing) : (modDring s n d f).hostPoison = s.hostPoison := rfl
@[simp] theorem modDring_tlb (n d : Nat) (f : DataRing → DataRing) : (modDring s n d f).tlb = s.tlb := rfl
@[simp] theorem modDring_ats (n d : Nat) (f : DataRing → DataRing) : (modDring s n d f).ats = s.ats := rfl
@[simp] theorem modDring_atsPending (n d : Nat) (f : DataRing → DataRing) : (modDring s n d f).atsPending = s.atsPending := rfl
@[simp] theorem modDring_pageFaults (n d : Nat) (f : DataRing → DataRing) : (modDring s n d f).pageFaults = s.pageFaults := rfl
@[simp] theorem modDring_net (n d : Nat) (f : DataRing → DataRing) : (modDring s n d f).net = s.net := rfl
@[simp] theorem modDring_reqs (n d : Nat) (f : DataRing → DataRing) : (modDring s n d f).reqs = s.reqs := rfl
@[simp] theorem modDring_cmds (n d : Nat) (f : DataRing → DataRing) : (modDring s n d f).cmds = s.cmds := rfl
@[simp] theorem modDring_copies (n d : Nat) (f : DataRing → DataRing) : (modDring s n d f).copies = s.copies := rfl
@[simp] theorem modDring_drpRows (n d : Nat) (f : DataRing → DataRing) : (modDring s n d f).drpRows = s.drpRows := rfl
@[simp] theorem modDring_posted (n d : Nat) (f : DataRing → DataRing) : (modDring s n d f).posted = s.posted := rfl
@[simp] theorem modDring_orders (n d : Nat) (f : DataRing → DataRing) : (modDring s n d f).orders = s.orders := rfl
@[simp] theorem modDring_nextIdent (n d : Nat) (f : DataRing → DataRing) : (modDring s n d f).nextIdent = s.nextIdent := rfl
@[simp] theorem modDring_fge (n d : Nat) (f : DataRing → DataRing) : (modDring s n d f).fge = s.fge := rfl
@[simp] theorem modDring_faults (n d : Nat) (f : DataRing → DataRing) : (modDring s n d f).faults = s.faults := rfl
@[simp] theorem modDring_traceOut (n d : Nat) (f : DataRing → DataRing) : (modDring s n d f).traceOut = s.traceOut := rfl
@[simp] theorem modDring_moment (n d : Nat) (f : DataRing → DataRing) : (modDring s n d f).moment = s.moment := rfl
@[simp] theorem modDring_ages (n d : Nat) (f : DataRing → DataRing) : (modDring s n d f).ages = s.ages := rfl

/-! ### modGraph -/

@[simp] theorem modGraph_agenda (n h : Nat) (f : Graph → Graph) : (modGraph s n h f).agenda = s.agenda := rfl
@[simp] theorem modGraph_focus (n h : Nat) (f : Graph → Graph) : (modGraph s n h f).focus = s.focus := rfl
@[simp] theorem modGraph_hand (n h : Nat) (f : Graph → Graph) : (modGraph s n h f).hand = s.hand := rfl
@[simp] theorem modGraph_dev (n h : Nat) (f : Graph → Graph) : (modGraph s n h f).dev = s.dev := rfl
@[simp] theorem modGraph_regions (n h : Nat) (f : Graph → Graph) : (modGraph s n h f).regions = s.regions := rfl
@[simp] theorem modGraph_elems (n h : Nat) (f : Graph → Graph) : (modGraph s n h f).elems = s.elems := rfl
@[simp] theorem modGraph_cores (n h : Nat) (f : Graph → Graph) : (modGraph s n h f).cores = s.cores := rfl
@[simp] theorem modGraph_clusters (n h : Nat) (f : Graph → Graph) : (modGraph s n h f).clusters = s.clusters := rfl
@[simp] theorem modGraph_ingress (n h : Nat) (f : Graph → Graph) : (modGraph s n h f).ingress = s.ingress := rfl
@[simp] theorem modGraph_dieSets (n h : Nat) (f : Graph → Graph) : (modGraph s n h f).dieSets = s.dieSets := rfl
@[simp] theorem modGraph_mem (n h : Nat) (f : Graph → Graph) : (modGraph s n h f).mem = s.mem := rfl
@[simp] theorem modGraph_hostMem (n h : Nat) (f : Graph → Graph) : (modGraph s n h f).hostMem = s.hostMem := rfl
@[simp] theorem modGraph_poison (n h : Nat) (f : Graph → Graph) : (modGraph s n h f).poison = s.poison := rfl
@[simp] theorem modGraph_hostPoison (n h : Nat) (f : Graph → Graph) : (modGraph s n h f).hostPoison = s.hostPoison := rfl
@[simp] theorem modGraph_tlb (n h : Nat) (f : Graph → Graph) : (modGraph s n h f).tlb = s.tlb := rfl
@[simp] theorem modGraph_ats (n h : Nat) (f : Graph → Graph) : (modGraph s n h f).ats = s.ats := rfl
@[simp] theorem modGraph_atsPending (n h : Nat) (f : Graph → Graph) : (modGraph s n h f).atsPending = s.atsPending := rfl
@[simp] theorem modGraph_pageFaults (n h : Nat) (f : Graph → Graph) : (modGraph s n h f).pageFaults = s.pageFaults := rfl
@[simp] theorem modGraph_net (n h : Nat) (f : Graph → Graph) : (modGraph s n h f).net = s.net := rfl
@[simp] theorem modGraph_reqs (n h : Nat) (f : Graph → Graph) : (modGraph s n h f).reqs = s.reqs := rfl
@[simp] theorem modGraph_cmds (n h : Nat) (f : Graph → Graph) : (modGraph s n h f).cmds = s.cmds := rfl
@[simp] theorem modGraph_copies (n h : Nat) (f : Graph → Graph) : (modGraph s n h f).copies = s.copies := rfl
@[simp] theorem modGraph_drpRows (n h : Nat) (f : Graph → Graph) : (modGraph s n h f).drpRows = s.drpRows := rfl
@[simp] theorem modGraph_posted (n h : Nat) (f : Graph → Graph) : (modGraph s n h f).posted = s.posted := rfl
@[simp] theorem modGraph_orders (n h : Nat) (f : Graph → Graph) : (modGraph s n h f).orders = s.orders := rfl
@[simp] theorem modGraph_nextIdent (n h : Nat) (f : Graph → Graph) : (modGraph s n h f).nextIdent = s.nextIdent := rfl
@[simp] theorem modGraph_fge (n h : Nat) (f : Graph → Graph) : (modGraph s n h f).fge = s.fge := rfl
@[simp] theorem modGraph_faults (n h : Nat) (f : Graph → Graph) : (modGraph s n h f).faults = s.faults := rfl
@[simp] theorem modGraph_traceOut (n h : Nat) (f : Graph → Graph) : (modGraph s n h f).traceOut = s.traceOut := rfl
@[simp] theorem modGraph_moment (n h : Nat) (f : Graph → Graph) : (modGraph s n h f).moment = s.moment := rfl
@[simp] theorem modGraph_ages (n h : Nat) (f : Graph → Graph) : (modGraph s n h f).ages = s.ages := rfl

/-! ### modRegion -/

@[simp] theorem modRegion_agenda (r : Nat) (f : Region → Region) : (modRegion s r f).agenda = s.agenda := rfl
@[simp] theorem modRegion_focus (r : Nat) (f : Region → Region) : (modRegion s r f).focus = s.focus := rfl
@[simp] theorem modRegion_hand (r : Nat) (f : Region → Region) : (modRegion s r f).hand = s.hand := rfl
@[simp] theorem modRegion_dev (r : Nat) (f : Region → Region) : (modRegion s r f).dev = s.dev := rfl
@[simp] theorem modRegion_parts (r : Nat) (f : Region → Region) : (modRegion s r f).parts = s.parts := rfl
@[simp] theorem modRegion_elems (r : Nat) (f : Region → Region) : (modRegion s r f).elems = s.elems := rfl
@[simp] theorem modRegion_cores (r : Nat) (f : Region → Region) : (modRegion s r f).cores = s.cores := rfl
@[simp] theorem modRegion_clusters (r : Nat) (f : Region → Region) : (modRegion s r f).clusters = s.clusters := rfl
@[simp] theorem modRegion_ingress (r : Nat) (f : Region → Region) : (modRegion s r f).ingress = s.ingress := rfl
@[simp] theorem modRegion_dieSets (r : Nat) (f : Region → Region) : (modRegion s r f).dieSets = s.dieSets := rfl
@[simp] theorem modRegion_mem (r : Nat) (f : Region → Region) : (modRegion s r f).mem = s.mem := rfl
@[simp] theorem modRegion_hostMem (r : Nat) (f : Region → Region) : (modRegion s r f).hostMem = s.hostMem := rfl
@[simp] theorem modRegion_poison (r : Nat) (f : Region → Region) : (modRegion s r f).poison = s.poison := rfl
@[simp] theorem modRegion_hostPoison (r : Nat) (f : Region → Region) : (modRegion s r f).hostPoison = s.hostPoison := rfl
@[simp] theorem modRegion_tlb (r : Nat) (f : Region → Region) : (modRegion s r f).tlb = s.tlb := rfl
@[simp] theorem modRegion_ats (r : Nat) (f : Region → Region) : (modRegion s r f).ats = s.ats := rfl
@[simp] theorem modRegion_atsPending (r : Nat) (f : Region → Region) : (modRegion s r f).atsPending = s.atsPending := rfl
@[simp] theorem modRegion_pageFaults (r : Nat) (f : Region → Region) : (modRegion s r f).pageFaults = s.pageFaults := rfl
@[simp] theorem modRegion_net (r : Nat) (f : Region → Region) : (modRegion s r f).net = s.net := rfl
@[simp] theorem modRegion_reqs (r : Nat) (f : Region → Region) : (modRegion s r f).reqs = s.reqs := rfl
@[simp] theorem modRegion_cmds (r : Nat) (f : Region → Region) : (modRegion s r f).cmds = s.cmds := rfl
@[simp] theorem modRegion_copies (r : Nat) (f : Region → Region) : (modRegion s r f).copies = s.copies := rfl
@[simp] theorem modRegion_drpRows (r : Nat) (f : Region → Region) : (modRegion s r f).drpRows = s.drpRows := rfl
@[simp] theorem modRegion_posted (r : Nat) (f : Region → Region) : (modRegion s r f).posted = s.posted := rfl
@[simp] theorem modRegion_orders (r : Nat) (f : Region → Region) : (modRegion s r f).orders = s.orders := rfl
@[simp] theorem modRegion_nextIdent (r : Nat) (f : Region → Region) : (modRegion s r f).nextIdent = s.nextIdent := rfl
@[simp] theorem modRegion_fge (r : Nat) (f : Region → Region) : (modRegion s r f).fge = s.fge := rfl
@[simp] theorem modRegion_faults (r : Nat) (f : Region → Region) : (modRegion s r f).faults = s.faults := rfl
@[simp] theorem modRegion_traceOut (r : Nat) (f : Region → Region) : (modRegion s r f).traceOut = s.traceOut := rfl
@[simp] theorem modRegion_moment (r : Nat) (f : Region → Region) : (modRegion s r f).moment = s.moment := rfl
@[simp] theorem modRegion_ages (r : Nat) (f : Region → Region) : (modRegion s r f).ages = s.ages := rfl

/-! ### setElem -/

@[simp] theorem setElem_agenda (e : Nat) (x : Element) : (setElem s e x).agenda = s.agenda := rfl
@[simp] theorem setElem_focus (e : Nat) (x : Element) : (setElem s e x).focus = s.focus := rfl
@[simp] theorem setElem_hand (e : Nat) (x : Element) : (setElem s e x).hand = s.hand := rfl
@[simp] theorem setElem_dev (e : Nat) (x : Element) : (setElem s e x).dev = s.dev := rfl
@[simp] theorem setElem_parts (e : Nat) (x : Element) : (setElem s e x).parts = s.parts := rfl
@[simp] theorem setElem_regions (e : Nat) (x : Element) : (setElem s e x).regions = s.regions := rfl
@[simp] theorem setElem_cores (e : Nat) (x : Element) : (setElem s e x).cores = s.cores := rfl
@[simp] theorem setElem_clusters (e : Nat) (x : Element) : (setElem s e x).clusters = s.clusters := rfl
@[simp] theorem setElem_ingress (e : Nat) (x : Element) : (setElem s e x).ingress = s.ingress := rfl
@[simp] theorem setElem_dieSets (e : Nat) (x : Element) : (setElem s e x).dieSets = s.dieSets := rfl
@[simp] theorem setElem_mem (e : Nat) (x : Element) : (setElem s e x).mem = s.mem := rfl
@[simp] theorem setElem_hostMem (e : Nat) (x : Element) : (setElem s e x).hostMem = s.hostMem := rfl
@[simp] theorem setElem_poison (e : Nat) (x : Element) : (setElem s e x).poison = s.poison := rfl
@[simp] theorem setElem_hostPoison (e : Nat) (x : Element) : (setElem s e x).hostPoison = s.hostPoison := rfl
@[simp] theorem setElem_tlb (e : Nat) (x : Element) : (setElem s e x).tlb = s.tlb := rfl
@[simp] theorem setElem_ats (e : Nat) (x : Element) : (setElem s e x).ats = s.ats := rfl
@[simp] theorem setElem_atsPending (e : Nat) (x : Element) : (setElem s e x).atsPending = s.atsPending := rfl
@[simp] theorem setElem_pageFaults (e : Nat) (x : Element) : (setElem s e x).pageFaults = s.pageFaults := rfl
@[simp] theorem setElem_net (e : Nat) (x : Element) : (setElem s e x).net = s.net := rfl
@[simp] theorem setElem_reqs (e : Nat) (x : Element) : (setElem s e x).reqs = s.reqs := rfl
@[simp] theorem setElem_cmds (e : Nat) (x : Element) : (setElem s e x).cmds = s.cmds := rfl
@[simp] theorem setElem_copies (e : Nat) (x : Element) : (setElem s e x).copies = s.copies := rfl
@[simp] theorem setElem_drpRows (e : Nat) (x : Element) : (setElem s e x).drpRows = s.drpRows := rfl
@[simp] theorem setElem_posted (e : Nat) (x : Element) : (setElem s e x).posted = s.posted := rfl
@[simp] theorem setElem_orders (e : Nat) (x : Element) : (setElem s e x).orders = s.orders := rfl
@[simp] theorem setElem_nextIdent (e : Nat) (x : Element) : (setElem s e x).nextIdent = s.nextIdent := rfl
@[simp] theorem setElem_fge (e : Nat) (x : Element) : (setElem s e x).fge = s.fge := rfl
@[simp] theorem setElem_faults (e : Nat) (x : Element) : (setElem s e x).faults = s.faults := rfl
@[simp] theorem setElem_traceOut (e : Nat) (x : Element) : (setElem s e x).traceOut = s.traceOut := rfl
@[simp] theorem setElem_moment (e : Nat) (x : Element) : (setElem s e x).moment = s.moment := rfl
@[simp] theorem setElem_ages (e : Nat) (x : Element) : (setElem s e x).ages = s.ages := rfl

/-! ### modElem -/

@[simp] theorem modElem_agenda (e : Nat) (f : Element → Element) : (modElem s e f).agenda = s.agenda := rfl
@[simp] theorem modElem_focus (e : Nat) (f : Element → Element) : (modElem s e f).focus = s.focus := rfl
@[simp] theorem modElem_hand (e : Nat) (f : Element → Element) : (modElem s e f).hand = s.hand := rfl
@[simp] theorem modElem_dev (e : Nat) (f : Element → Element) : (modElem s e f).dev = s.dev := rfl
@[simp] theorem modElem_parts (e : Nat) (f : Element → Element) : (modElem s e f).parts = s.parts := rfl
@[simp] theorem modElem_regions (e : Nat) (f : Element → Element) : (modElem s e f).regions = s.regions := rfl
@[simp] theorem modElem_cores (e : Nat) (f : Element → Element) : (modElem s e f).cores = s.cores := rfl
@[simp] theorem modElem_clusters (e : Nat) (f : Element → Element) : (modElem s e f).clusters = s.clusters := rfl
@[simp] theorem modElem_ingress (e : Nat) (f : Element → Element) : (modElem s e f).ingress = s.ingress := rfl
@[simp] theorem modElem_dieSets (e : Nat) (f : Element → Element) : (modElem s e f).dieSets = s.dieSets := rfl
@[simp] theorem modElem_mem (e : Nat) (f : Element → Element) : (modElem s e f).mem = s.mem := rfl
@[simp] theorem modElem_hostMem (e : Nat) (f : Element → Element) : (modElem s e f).hostMem = s.hostMem := rfl
@[simp] theorem modElem_poison (e : Nat) (f : Element → Element) : (modElem s e f).poison = s.poison := rfl
@[simp] theorem modElem_hostPoison (e : Nat) (f : Element → Element) : (modElem s e f).hostPoison = s.hostPoison := rfl
@[simp] theorem modElem_tlb (e : Nat) (f : Element → Element) : (modElem s e f).tlb = s.tlb := rfl
@[simp] theorem modElem_ats (e : Nat) (f : Element → Element) : (modElem s e f).ats = s.ats := rfl
@[simp] theorem modElem_atsPending (e : Nat) (f : Element → Element) : (modElem s e f).atsPending = s.atsPending := rfl
@[simp] theorem modElem_pageFaults (e : Nat) (f : Element → Element) : (modElem s e f).pageFaults = s.pageFaults := rfl
@[simp] theorem modElem_net (e : Nat) (f : Element → Element) : (modElem s e f).net = s.net := rfl
@[simp] theorem modElem_reqs (e : Nat) (f : Element → Element) : (modElem s e f).reqs = s.reqs := rfl
@[simp] theorem modElem_cmds (e : Nat) (f : Element → Element) : (modElem s e f).cmds = s.cmds := rfl
@[simp] theorem modElem_copies (e : Nat) (f : Element → Element) : (modElem s e f).copies = s.copies := rfl
@[simp] theorem modElem_drpRows (e : Nat) (f : Element → Element) : (modElem s e f).drpRows = s.drpRows := rfl
@[simp] theorem modElem_posted (e : Nat) (f : Element → Element) : (modElem s e f).posted = s.posted := rfl
@[simp] theorem modElem_orders (e : Nat) (f : Element → Element) : (modElem s e f).orders = s.orders := rfl
@[simp] theorem modElem_nextIdent (e : Nat) (f : Element → Element) : (modElem s e f).nextIdent = s.nextIdent := rfl
@[simp] theorem modElem_fge (e : Nat) (f : Element → Element) : (modElem s e f).fge = s.fge := rfl
@[simp] theorem modElem_faults (e : Nat) (f : Element → Element) : (modElem s e f).faults = s.faults := rfl
@[simp] theorem modElem_traceOut (e : Nat) (f : Element → Element) : (modElem s e f).traceOut = s.traceOut := rfl
@[simp] theorem modElem_moment (e : Nat) (f : Element → Element) : (modElem s e f).moment = s.moment := rfl
@[simp] theorem modElem_ages (e : Nat) (f : Element → Element) : (modElem s e f).ages = s.ages := rfl

/-! ### modCore -/

@[simp] theorem modCore_agenda (c : Nat) (f : Core → Core) : (modCore s c f).agenda = s.agenda := rfl
@[simp] theorem modCore_focus (c : Nat) (f : Core → Core) : (modCore s c f).focus = s.focus := rfl
@[simp] theorem modCore_hand (c : Nat) (f : Core → Core) : (modCore s c f).hand = s.hand := rfl
@[simp] theorem modCore_dev (c : Nat) (f : Core → Core) : (modCore s c f).dev = s.dev := rfl
@[simp] theorem modCore_parts (c : Nat) (f : Core → Core) : (modCore s c f).parts = s.parts := rfl
@[simp] theorem modCore_regions (c : Nat) (f : Core → Core) : (modCore s c f).regions = s.regions := rfl
@[simp] theorem modCore_elems (c : Nat) (f : Core → Core) : (modCore s c f).elems = s.elems := rfl
@[simp] theorem modCore_clusters (c : Nat) (f : Core → Core) : (modCore s c f).clusters = s.clusters := rfl
@[simp] theorem modCore_ingress (c : Nat) (f : Core → Core) : (modCore s c f).ingress = s.ingress := rfl
@[simp] theorem modCore_dieSets (c : Nat) (f : Core → Core) : (modCore s c f).dieSets = s.dieSets := rfl
@[simp] theorem modCore_mem (c : Nat) (f : Core → Core) : (modCore s c f).mem = s.mem := rfl
@[simp] theorem modCore_hostMem (c : Nat) (f : Core → Core) : (modCore s c f).hostMem = s.hostMem := rfl
@[simp] theorem modCore_poison (c : Nat) (f : Core → Core) : (modCore s c f).poison = s.poison := rfl
@[simp] theorem modCore_hostPoison (c : Nat) (f : Core → Core) : (modCore s c f).hostPoison = s.hostPoison := rfl
@[simp] theorem modCore_tlb (c : Nat) (f : Core → Core) : (modCore s c f).tlb = s.tlb := rfl
@[simp] theorem modCore_ats (c : Nat) (f : Core → Core) : (modCore s c f).ats = s.ats := rfl
@[simp] theorem modCore_atsPending (c : Nat) (f : Core → Core) : (modCore s c f).atsPending = s.atsPending := rfl
@[simp] theorem modCore_pageFaults (c : Nat) (f : Core → Core) : (modCore s c f).pageFaults = s.pageFaults := rfl
@[simp] theorem modCore_net (c : Nat) (f : Core → Core) : (modCore s c f).net = s.net := rfl
@[simp] theorem modCore_reqs (c : Nat) (f : Core → Core) : (modCore s c f).reqs = s.reqs := rfl
@[simp] theorem modCore_cmds (c : Nat) (f : Core → Core) : (modCore s c f).cmds = s.cmds := rfl
@[simp] theorem modCore_copies (c : Nat) (f : Core → Core) : (modCore s c f).copies = s.copies := rfl
@[simp] theorem modCore_drpRows (c : Nat) (f : Core → Core) : (modCore s c f).drpRows = s.drpRows := rfl
@[simp] theorem modCore_posted (c : Nat) (f : Core → Core) : (modCore s c f).posted = s.posted := rfl
@[simp] theorem modCore_orders (c : Nat) (f : Core → Core) : (modCore s c f).orders = s.orders := rfl
@[simp] theorem modCore_nextIdent (c : Nat) (f : Core → Core) : (modCore s c f).nextIdent = s.nextIdent := rfl
@[simp] theorem modCore_fge (c : Nat) (f : Core → Core) : (modCore s c f).fge = s.fge := rfl
@[simp] theorem modCore_faults (c : Nat) (f : Core → Core) : (modCore s c f).faults = s.faults := rfl
@[simp] theorem modCore_traceOut (c : Nat) (f : Core → Core) : (modCore s c f).traceOut = s.traceOut := rfl
@[simp] theorem modCore_moment (c : Nat) (f : Core → Core) : (modCore s c f).moment = s.moment := rfl
@[simp] theorem modCore_ages (c : Nat) (f : Core → Core) : (modCore s c f).ages = s.ages := rfl

/-! ### modCluster -/

@[simp] theorem modCluster_agenda (c : Nat) (f : Cluster → Cluster) : (modCluster s c f).agenda = s.agenda := rfl
@[simp] theorem modCluster_focus (c : Nat) (f : Cluster → Cluster) : (modCluster s c f).focus = s.focus := rfl
@[simp] theorem modCluster_hand (c : Nat) (f : Cluster → Cluster) : (modCluster s c f).hand = s.hand := rfl
@[simp] theorem modCluster_dev (c : Nat) (f : Cluster → Cluster) : (modCluster s c f).dev = s.dev := rfl
@[simp] theorem modCluster_parts (c : Nat) (f : Cluster → Cluster) : (modCluster s c f).parts = s.parts := rfl
@[simp] theorem modCluster_regions (c : Nat) (f : Cluster → Cluster) : (modCluster s c f).regions = s.regions := rfl
@[simp] theorem modCluster_elems (c : Nat) (f : Cluster → Cluster) : (modCluster s c f).elems = s.elems := rfl
@[simp] theorem modCluster_cores (c : Nat) (f : Cluster → Cluster) : (modCluster s c f).cores = s.cores := rfl
@[simp] theorem modCluster_ingress (c : Nat) (f : Cluster → Cluster) : (modCluster s c f).ingress = s.ingress := rfl
@[simp] theorem modCluster_dieSets (c : Nat) (f : Cluster → Cluster) : (modCluster s c f).dieSets = s.dieSets := rfl
@[simp] theorem modCluster_mem (c : Nat) (f : Cluster → Cluster) : (modCluster s c f).mem = s.mem := rfl
@[simp] theorem modCluster_hostMem (c : Nat) (f : Cluster → Cluster) : (modCluster s c f).hostMem = s.hostMem := rfl
@[simp] theorem modCluster_poison (c : Nat) (f : Cluster → Cluster) : (modCluster s c f).poison = s.poison := rfl
@[simp] theorem modCluster_hostPoison (c : Nat) (f : Cluster → Cluster) : (modCluster s c f).hostPoison = s.hostPoison := rfl
@[simp] theorem modCluster_tlb (c : Nat) (f : Cluster → Cluster) : (modCluster s c f).tlb = s.tlb := rfl
@[simp] theorem modCluster_ats (c : Nat) (f : Cluster → Cluster) : (modCluster s c f).ats = s.ats := rfl
@[simp] theorem modCluster_atsPending (c : Nat) (f : Cluster → Cluster) : (modCluster s c f).atsPending = s.atsPending := rfl
@[simp] theorem modCluster_pageFaults (c : Nat) (f : Cluster → Cluster) : (modCluster s c f).pageFaults = s.pageFaults := rfl
@[simp] theorem modCluster_net (c : Nat) (f : Cluster → Cluster) : (modCluster s c f).net = s.net := rfl
@[simp] theorem modCluster_reqs (c : Nat) (f : Cluster → Cluster) : (modCluster s c f).reqs = s.reqs := rfl
@[simp] theorem modCluster_cmds (c : Nat) (f : Cluster → Cluster) : (modCluster s c f).cmds = s.cmds := rfl
@[simp] theorem modCluster_copies (c : Nat) (f : Cluster → Cluster) : (modCluster s c f).copies = s.copies := rfl
@[simp] theorem modCluster_drpRows (c : Nat) (f : Cluster → Cluster) : (modCluster s c f).drpRows = s.drpRows := rfl
@[simp] theorem modCluster_posted (c : Nat) (f : Cluster → Cluster) : (modCluster s c f).posted = s.posted := rfl
@[simp] theorem modCluster_orders (c : Nat) (f : Cluster → Cluster) : (modCluster s c f).orders = s.orders := rfl
@[simp] theorem modCluster_nextIdent (c : Nat) (f : Cluster → Cluster) : (modCluster s c f).nextIdent = s.nextIdent := rfl
@[simp] theorem modCluster_fge (c : Nat) (f : Cluster → Cluster) : (modCluster s c f).fge = s.fge := rfl
@[simp] theorem modCluster_faults (c : Nat) (f : Cluster → Cluster) : (modCluster s c f).faults = s.faults := rfl
@[simp] theorem modCluster_traceOut (c : Nat) (f : Cluster → Cluster) : (modCluster s c f).traceOut = s.traceOut := rfl
@[simp] theorem modCluster_moment (c : Nat) (f : Cluster → Cluster) : (modCluster s c f).moment = s.moment := rfl
@[simp] theorem modCluster_ages (c : Nat) (f : Cluster → Cluster) : (modCluster s c f).ages = s.ages := rfl

/-! ### modIngress -/

@[simp] theorem modIngress_agenda (d : Nat) (f : Ingress → Ingress) : (modIngress s d f).agenda = s.agenda := rfl
@[simp] theorem modIngress_focus (d : Nat) (f : Ingress → Ingress) : (modIngress s d f).focus = s.focus := rfl
@[simp] theorem modIngress_hand (d : Nat) (f : Ingress → Ingress) : (modIngress s d f).hand = s.hand := rfl
@[simp] theorem modIngress_dev (d : Nat) (f : Ingress → Ingress) : (modIngress s d f).dev = s.dev := rfl
@[simp] theorem modIngress_parts (d : Nat) (f : Ingress → Ingress) : (modIngress s d f).parts = s.parts := rfl
@[simp] theorem modIngress_regions (d : Nat) (f : Ingress → Ingress) : (modIngress s d f).regions = s.regions := rfl
@[simp] theorem modIngress_elems (d : Nat) (f : Ingress → Ingress) : (modIngress s d f).elems = s.elems := rfl
@[simp] theorem modIngress_cores (d : Nat) (f : Ingress → Ingress) : (modIngress s d f).cores = s.cores := rfl
@[simp] theorem modIngress_clusters (d : Nat) (f : Ingress → Ingress) : (modIngress s d f).clusters = s.clusters := rfl
@[simp] theorem modIngress_dieSets (d : Nat) (f : Ingress → Ingress) : (modIngress s d f).dieSets = s.dieSets := rfl
@[simp] theorem modIngress_mem (d : Nat) (f : Ingress → Ingress) : (modIngress s d f).mem = s.mem := rfl
@[simp] theorem modIngress_hostMem (d : Nat) (f : Ingress → Ingress) : (modIngress s d f).hostMem = s.hostMem := rfl
@[simp] theorem modIngress_poison (d : Nat) (f : Ingress → Ingress) : (modIngress s d f).poison = s.poison := rfl
@[simp] theorem modIngress_hostPoison (d : Nat) (f : Ingress → Ingress) : (modIngress s d f).hostPoison = s.hostPoison := rfl
@[simp] theorem modIngress_tlb (d : Nat) (f : Ingress → Ingress) : (modIngress s d f).tlb = s.tlb := rfl
@[simp] theorem modIngress_ats (d : Nat) (f : Ingress → Ingress) : (modIngress s d f).ats = s.ats := rfl
@[simp] theorem modIngress_atsPending (d : Nat) (f : Ingress → Ingress) : (modIngress s d f).atsPending = s.atsPending := rfl
@[simp] theorem modIngress_pageFaults (d : Nat) (f : Ingress → Ingress) : (modIngress s d f).pageFaults = s.pageFaults := rfl
@[simp] theorem modIngress_net (d : Nat) (f : Ingress → Ingress) : (modIngress s d f).net = s.net := rfl
@[simp] theorem modIngress_reqs (d : Nat) (f : Ingress → Ingress) : (modIngress s d f).reqs = s.reqs := rfl
@[simp] theorem modIngress_cmds (d : Nat) (f : Ingress → Ingress) : (modIngress s d f).cmds = s.cmds := rfl
@[simp] theorem modIngress_copies (d : Nat) (f : Ingress → Ingress) : (modIngress s d f).copies = s.copies := rfl
@[simp] theorem modIngress_drpRows (d : Nat) (f : Ingress → Ingress) : (modIngress s d f).drpRows = s.drpRows := rfl
@[simp] theorem modIngress_posted (d : Nat) (f : Ingress → Ingress) : (modIngress s d f).posted = s.posted := rfl
@[simp] theorem modIngress_orders (d : Nat) (f : Ingress → Ingress) : (modIngress s d f).orders = s.orders := rfl
@[simp] theorem modIngress_nextIdent (d : Nat) (f : Ingress → Ingress) : (modIngress s d f).nextIdent = s.nextIdent := rfl
@[simp] theorem modIngress_fge (d : Nat) (f : Ingress → Ingress) : (modIngress s d f).fge = s.fge := rfl
@[simp] theorem modIngress_faults (d : Nat) (f : Ingress → Ingress) : (modIngress s d f).faults = s.faults := rfl
@[simp] theorem modIngress_traceOut (d : Nat) (f : Ingress → Ingress) : (modIngress s d f).traceOut = s.traceOut := rfl
@[simp] theorem modIngress_moment (d : Nat) (f : Ingress → Ingress) : (modIngress s d f).moment = s.moment := rfl
@[simp] theorem modIngress_ages (d : Nat) (f : Ingress → Ingress) : (modIngress s d f).ages = s.ages := rfl

/-! ### modDev -/

@[simp] theorem modDev_agenda (f : Device → Device) : (modDev s f).agenda = s.agenda := rfl
@[simp] theorem modDev_focus (f : Device → Device) : (modDev s f).focus = s.focus := rfl
@[simp] theorem modDev_hand (f : Device → Device) : (modDev s f).hand = s.hand := rfl
@[simp] theorem modDev_parts (f : Device → Device) : (modDev s f).parts = s.parts := rfl
@[simp] theorem modDev_regions (f : Device → Device) : (modDev s f).regions = s.regions := rfl
@[simp] theorem modDev_elems (f : Device → Device) : (modDev s f).elems = s.elems := rfl
@[simp] theorem modDev_cores (f : Device → Device) : (modDev s f).cores = s.cores := rfl
@[simp] theorem modDev_clusters (f : Device → Device) : (modDev s f).clusters = s.clusters := rfl
@[simp] theorem modDev_ingress (f : Device → Device) : (modDev s f).ingress = s.ingress := rfl
@[simp] theorem modDev_dieSets (f : Device → Device) : (modDev s f).dieSets = s.dieSets := rfl
@[simp] theorem modDev_mem (f : Device → Device) : (modDev s f).mem = s.mem := rfl
@[simp] theorem modDev_hostMem (f : Device → Device) : (modDev s f).hostMem = s.hostMem := rfl
@[simp] theorem modDev_poison (f : Device → Device) : (modDev s f).poison = s.poison := rfl
@[simp] theorem modDev_hostPoison (f : Device → Device) : (modDev s f).hostPoison = s.hostPoison := rfl
@[simp] theorem modDev_tlb (f : Device → Device) : (modDev s f).tlb = s.tlb := rfl
@[simp] theorem modDev_ats (f : Device → Device) : (modDev s f).ats = s.ats := rfl
@[simp] theorem modDev_atsPending (f : Device → Device) : (modDev s f).atsPending = s.atsPending := rfl
@[simp] theorem modDev_pageFaults (f : Device → Device) : (modDev s f).pageFaults = s.pageFaults := rfl
@[simp] theorem modDev_net (f : Device → Device) : (modDev s f).net = s.net := rfl
@[simp] theorem modDev_reqs (f : Device → Device) : (modDev s f).reqs = s.reqs := rfl
@[simp] theorem modDev_cmds (f : Device → Device) : (modDev s f).cmds = s.cmds := rfl
@[simp] theorem modDev_copies (f : Device → Device) : (modDev s f).copies = s.copies := rfl
@[simp] theorem modDev_drpRows (f : Device → Device) : (modDev s f).drpRows = s.drpRows := rfl
@[simp] theorem modDev_posted (f : Device → Device) : (modDev s f).posted = s.posted := rfl
@[simp] theorem modDev_orders (f : Device → Device) : (modDev s f).orders = s.orders := rfl
@[simp] theorem modDev_nextIdent (f : Device → Device) : (modDev s f).nextIdent = s.nextIdent := rfl
@[simp] theorem modDev_fge (f : Device → Device) : (modDev s f).fge = s.fge := rfl
@[simp] theorem modDev_faults (f : Device → Device) : (modDev s f).faults = s.faults := rfl
@[simp] theorem modDev_traceOut (f : Device → Device) : (modDev s f).traceOut = s.traceOut := rfl
@[simp] theorem modDev_moment (f : Device → Device) : (modDev s f).moment = s.moment := rfl
@[simp] theorem modDev_ages (f : Device → Device) : (modDev s f).ages = s.ages := rfl

@[simp] theorem modDev_dev (f : Device → Device) : (modDev s f).dev = f s.dev := rfl

/-! ### The part an update names, and the others -/

@[simp] theorem partOf_setPart (n : Nat) (p : Part) : partOf (setPart s n p) n = p := lookup_store_same _ _ _ _

theorem partOf_setPart_other {n m : Nat} (p : Part) (h : m ≠ n) : partOf (setPart s n p) m = partOf s m :=
  lookup_store_other _ _ _ _ _ h

@[simp] theorem partOf_modPart (n : Nat) (f : Part → Part) : partOf (modPart s n f) n = f (partOf s n) := partOf_setPart _ _ _

theorem partOf_modPart_other {n m : Nat} (f : Part → Part) (h : m ≠ n) : partOf (modPart s n f) m = partOf s m :=
  partOf_setPart_other _ _ h

@[simp] theorem queueOf_modQueue (n q : Nat) (f : Queue → Queue) : queueOf (modQueue s n q f) n q = f (queueOf s n q) := by
  simp only [queueOf, modQueue, partOf_modPart]; exact lookup_store_same _ _ _ _

theorem queueOf_modQueue_other {n q m p : Nat} (f : Queue → Queue) (h : m ≠ n ∨ p ≠ q) :
    queueOf (modQueue s n q f) m p = queueOf s m p := by
  by_cases hm : m = n
  · subst hm
    simp only [queueOf, modQueue, partOf_modPart]
    exact lookup_store_other _ _ _ _ _ (h.resolve_left (· rfl))
  · simp only [queueOf, modQueue, partOf_modPart_other _ _ hm]

@[simp] theorem ringOf_modRing (n q i : Nat) (f : Ring → Ring) : ringOf (modRing s n q i f) n q i = f (ringOf s n q i) := by
  simp only [ringOf, modRing, queueOf_modQueue]; exact lookup_store_same _ _ _ _

@[simp] theorem dringOf_modDring (n d : Nat) (f : DataRing → DataRing) : dringOf (modDring s n d f) n d = f (dringOf s n d) := by
  simp only [dringOf, modDring, partOf_modPart]; exact lookup_store_same _ _ _ _

@[simp] theorem graphOf_modGraph (n h : Nat) (f : Graph → Graph) : graphOf (modGraph s n h f) n h = f (graphOf s n h) := by
  simp only [graphOf, modGraph, partOf_modPart]; exact lookup_store_same _ _ _ _

@[simp] theorem regionOf_modRegion (r : Nat) (f : Region → Region) : regionOf (modRegion s r f) r = f (regionOf s r) :=
  lookup_store_same _ _ _ _

theorem regionOf_modRegion_other {r k : Nat} (f : Region → Region) (h : k ≠ r) : regionOf (modRegion s r f) k = regionOf s k :=
  lookup_store_other _ _ _ _ _ h

@[simp] theorem elemOf_setElem (e : Nat) (x : Element) : elemOf (setElem s e x) e = x := lookup_store_same _ _ _ _

theorem elemOf_setElem_other {e k : Nat} (x : Element) (h : k ≠ e) : elemOf (setElem s e x) k = elemOf s k :=
  lookup_store_other _ _ _ _ _ h

@[simp] theorem elemOf_modElem (e : Nat) (f : Element → Element) : elemOf (modElem s e f) e = f (elemOf s e) :=
  elemOf_setElem _ _ _

theorem elemOf_modElem_other {e k : Nat} (f : Element → Element) (h : k ≠ e) : elemOf (modElem s e f) k = elemOf s k :=
  elemOf_setElem_other _ _ h

@[simp] theorem coreOf_modCore (c : Nat) (f : Core → Core) : coreOf (modCore s c f) c = f (coreOf s c) := lookup_store_same _ _ _ _

theorem coreOf_modCore_other {c k : Nat} (f : Core → Core) (h : k ≠ c) : coreOf (modCore s c f) k = coreOf s k :=
  lookup_store_other _ _ _ _ _ h

@[simp] theorem clusterOf_modCluster (c : Nat) (f : Cluster → Cluster) : clusterOf (modCluster s c f) c = f (clusterOf s c) :=
  lookup_store_same _ _ _ _

@[simp] theorem ingressOf_modIngress (d : Nat) (f : Ingress → Ingress) : ingressOf (modIngress s d f) d = f (ingressOf s d) :=
  lookup_store_same _ _ _ _

end Sys2Proof.Machine
end

