-- ==== Sys2Proof/Laws/Memory.lean ====
section
/-! SUPPORT. The laws of memory: a read after a write, canonical form kept by every write, and what translation and a store
through it can do. -/

namespace Sys2Proof.Machine

/-! ### One byte -/

theorem readByte_writeByte_same {m : List Host.Cell} (a : Nat) (b : Byte) (h : Memory.wf m = true) :
    readByte (writeByte m a b) a = b := by
  simp only [Memory.wf, Bool.and_eq_true] at h
  simp only [readByte, writeByte]
  split
  · rename_i hb; rw [hb]; exact lookup_erase_same _ _ h.1
  · exact lookup_store_same _ _ _ _

theorem readByte_writeByte_other (m : List Host.Cell) {a x : Nat} (b : Byte) (h : x ≠ a) :
    readByte (writeByte m a b) x = readByte m x := by
  simp only [readByte, writeByte]
  split
  · exact lookup_erase_other _ _ _ _ h
  · exact lookup_store_other _ _ _ _ _ h

/-- A byte written keeps canonical form. -/
theorem wf_writeByte {m : List Host.Cell} (a : Nat) (b : Byte) (h : Memory.wf m = true) : Memory.wf (writeByte m a b) = true := by
  simp only [Memory.wf, Bool.and_eq_true, List.all_eq_true, bne_iff_ne] at h ⊢
  simp only [writeByte]
  split
  · exact ⟨rising_erase _ h.1, fun e he => h.2 e (mem_of_erase he)⟩
  · rename_i hb
    exact ⟨rising_store _ _ h.1, fun e he => (mem_of_store he).elim (fun h' => by simpa [h'] using hb) (h.2 e)⟩

/-! ### Runs of bytes -/

/-- Bytes written keep canonical form. -/
theorem wf_writeBytes {m : List Host.Cell} (a : Nat) (bs : List Byte) (h : Memory.wf m = true) :
    Memory.wf (writeBytes m a bs) = true := by
  induction bs generalizing m a with
  | nil => exact h
  | cons b bs ih => exact ih _ (wf_writeByte a b h)

/-- A byte outside a written run keeps its value. -/
theorem readByte_writeBytes_outside (m : List Host.Cell) (a : Nat) (bs : List Byte) (x : Nat) (h : x < a ∨ a + bs.length ≤ x) :
    readByte (writeBytes m a bs) x = readByte m x := by
  induction bs generalizing m a with
  | nil => rfl
  | cons b bs ih =>
    simp only [List.length_cons] at h
    simp only [writeBytes]
    rw [ih _ _ (by omega), readByte_writeByte_other _ _ (by omega)]

/-- A byte of a written run reads as written. -/
theorem readByte_writeBytes_inside {m : List Host.Cell} (a : Nat) (bs : List Byte) (i : Nat) (h : Memory.wf m = true)
    (hi : i < bs.length) : readByte (writeBytes m a bs) (a + i) = bs.getD i 0 := by
  induction bs generalizing m a i with
  | nil => simp at hi
  | cons b bs ih =>
    simp only [writeBytes]
    cases i with
    | zero =>
      simp only [Nat.add_zero]
      rw [readByte_writeBytes_outside _ _ _ _ (by omega), readByte_writeByte_same _ _ h]
      rfl
    | succ i =>
      have := ih (m := writeByte m a b) (a + 1) i (wf_writeByte a b h) (by simpa using hi)
      rw [show a + (i + 1) = a + 1 + i by omega, this]
      simp

theorem readBytes_length (m : List Host.Cell) (a n : Nat) : (readBytes m a n).length = n := by
  induction n generalizing a with
  | zero => rfl
  | succ n ih => simp [readBytes, ih]

theorem readBytes_getD (m : List Host.Cell) (a n i : Nat) (h : i < n) : (readBytes m a n).getD i 0 = readByte m (a + i) := by
  induction n generalizing a i with
  | zero => omega
  | succ n ih =>
    cases i with
    | zero => rfl
    | succ i => rw [show a + (i + 1) = a + 1 + i by omega, ← ih (a + 1) i (by omega)]; rfl

/-! ### Stores at a place -/

/-- What a store at a place does to the two memories. -/
theorem save_cases (s : State) (p : Place) (bs : List Byte) :
    ((save s p bs).mem = if p.host = true ∨ lostAt s p.addr = true then s.mem else writeBytes s.mem p.addr bs) ∧
    ((save s p bs).hostMem = if p.host = true then writeBytes s.hostMem p.addr bs else s.hostMem) := by
  unfold save
  by_cases hp : p.host = true
  · simp [hp]
  · by_cases hl : lostAt s p.addr = true <;> simp [hp, hl]

/-- A store keeps canonical form. -/
theorem memOk_save (s : State) (p : Place) (bs : List Byte) (h : s.memOk = true) : (save s p bs).memOk = true := by
  simp only [State.memOk, Bool.and_eq_true] at h ⊢
  obtain ⟨h1, h2⟩ := save_cases s p bs
  rw [h1, h2]
  constructor
  · split
    · exact h.1
    · exact wf_writeBytes _ _ h.1
  · split
    · exact wf_writeBytes _ _ h.2
    · exact h.2

theorem memOk_saveWord (s : State) (p : Place) (w : Word) (h : s.memOk = true) : (saveWord s p w).memOk = true :=
  memOk_save s p _ h

theorem memOk_saveEach (s : State) (ps : List Place) (bs : List Byte) (h : s.memOk = true) : (saveEach s ps bs).memOk = true := by
  induction ps generalizing s bs with
  | nil => simpa [saveEach] using h
  | cons p ps ih =>
    cases bs with
    | nil => simpa [saveEach] using h
    | cons b bs => exact ih _ _ (memOk_save s p _ h)

theorem memOk_saveAt (s : State) (ps : List Place) (bs : List Byte) (h : s.memOk = true) : (saveAt s ps bs).memOk = true := by
  unfold saveAt
  cases ps with
  | nil => exact h
  | cons p ps =>
    simp only
    split
    · exact memOk_save s p _ h
    · exact memOk_saveEach s _ _ h

/-- Canonical form depends on the memories alone. -/
theorem memOk_of_eq {s t : State} (hm : t.mem = s.mem) (hh : t.hostMem = s.hostMem) (h : s.memOk = true) : t.memOk = true := by
  simpa only [State.memOk, hm, hh] using h

/-- Reset memory is in canonical form. -/
theorem memOk_reset : State.reset.memOk = true := rfl

/-! ### Translation (R199 to R201) -/

/-- A translated address: the partition translates, and a leaf entry of the TLBs or of a walk allows the use and gives the
place, which exists. -/
theorem translate_at {s : State} {die n va : Nat} {u : Use} {p : Place} (h : translate s die n va u = .at p) :
    (partOf s n).ptEn = true ∧ ∃ pte level, resolve s die n (va % 2 ^ 57) = .leaf pte level ∧ allows pte u = true ∧
      p = placeOf pte level (va % 2 ^ 57) ∧ (p.host = true ∨ mapped s p.addr = true) := by
  simp only [translate] at h
  split at h
  · simp at h
  · rename_i he
    split at h
    · simp at h
    · simp at h
    · rename_i pte level hr
      split at h
      · simp at h
      · rename_i ha
        split at h
        · rename_i hm
          simp only [Xlate.at.injEq] at h
          subst h
          simp only [Bool.not_eq_true'] at he ha
          exact ⟨by simpa using he, pte, level, hr, by simpa using ha, rfl, by simpa using hm⟩
        · simp at h

/-- The places of a range: one for each byte, where its address translates to. -/
theorem placesVia_ok {tr : Nat → Xlate} {va n : Nat} {ps : List Place} (h : placesVia tr va n = .ok ps) :
    ps.length = n ∧ ∀ i p, ps[i]? = some p → tr (va + i) = .at p := by
  induction n generalizing va ps with
  | zero => simp only [placesVia, Except.ok.injEq] at h; subst h; simp
  | succ n ih =>
    simp only [placesVia] at h
    split at h
    · rename_i q hq
      cases hr : placesVia tr (va + 1) n with
      | error e => simp [hr, Except.map] at h
      | ok qs =>
        simp only [hr, Except.map, Except.ok.injEq] at h
        subst h
        obtain ⟨hl, hi⟩ := ih hr
        refine ⟨by simp [hl], fun i p hp => ?_⟩
        cases i with
        | zero => simp only [List.getElem?_cons_zero, Option.some.injEq] at hp; rw [Nat.add_zero, hq, hp]
        | succ i => rw [show va + (i + 1) = va + 1 + i by omega]; exact hi i p (by simpa using hp)
    · simp at h

end Sys2Proof.Machine
end

