-- ==== Sys2Proof/Laws/Frame.lean ====
section
/-! SUPPORT. The frame of a firing, said once for each shared operation: consuming operands, counting, emitting an event,
sending a token, allocating and freeing a tag, raising a fault, and the firing of a slot leave what Kept lists as it was. -/

namespace Sys2Proof.Machine

theorem SameLine.refl (l : Nat × Line) : SameLine l l := ⟨rfl, .inl rfl⟩

theorem SameLine.dirty {l0 l : Nat × Line} (h : SameLine l0 l) : l.2.dirty = l0.2.dirty := by rw [h.1]

theorem SameLine.trans {l0 l1 l2 : Nat × Line} (h : SameLine l0 l1) (k : SameLine l1 l2) : SameLine l0 l2 := by
  refine ⟨by rw [k.1, h.1], ?_⟩
  rcases k.2 with k2 | k2
  · rcases h.2 with h2 | h2
    · exact .inl (k2.trans h2)
    · exact .inr fun j hj => by rw [k2]; exact h2 j (k.dirty ▸ hj)
  · exact .inr k2

/-- A region's lines are its own. -/
theorem sameLines (ls : Sparse Line) :
    (∀ l ∈ ls, ∃ l0 ∈ ls, SameLine l0 l) ∧ ∀ l0 ∈ ls, l0.2.dirty ≠ [] → ∃ l ∈ ls, SameLine l0 l :=
  ⟨fun l hl => ⟨l, hl, .refl l⟩, fun l hl _ => ⟨l, hl, .refl l⟩⟩

theorem Kept.refl (s : State) : Kept s s := by
  constructor
  case regions => exact fun r => ⟨rfl, sameLines _⟩
  all_goals simp

theorem Kept.trans {s t u : State} (h : Kept s t) (k : Kept t u) : Kept s u where
  mem := by simp [k.mem, h.mem]
  pages := by simp [k.pages, h.pages]
  engines := by simp [k.engines, h.engines]
  todo := by simp [k.todo, h.todo]
  dev := by rw [k.dev, h.dev]
  tables el := by
    have a := h.tables el
    have b := k.tables el
    simp_all
  ingress d := by
    obtain ⟨a1, a2, a3⟩ := h.ingress d
    obtain ⟨b1, b2, b3⟩ := k.ingress d
    exact ⟨b1.trans a1, fun x hx => a2 x (b2 x hx), fun x hx => a3 x (b3 x hx)⟩
  regions r := by
    obtain ⟨a1, a2, a3⟩ := h.regions r
    obtain ⟨b1, b2, b3⟩ := k.regions r
    refine ⟨by rw [b1, a1], fun l hl => ?_, fun l hl hd => ?_⟩
    · obtain ⟨l1, h1, k1⟩ := b2 l hl
      obtain ⟨l0, h0, k0⟩ := a2 l1 h1
      exact ⟨l0, h0, k0.trans k1⟩
    · obtain ⟨l1, h1, k1⟩ := a3 l hl hd
      obtain ⟨l2, h2, k2⟩ := b3 l1 h1 (k1.dirty ▸ hd)
      exact ⟨l2, h2, k1.trans k2⟩
  config n := by
    obtain ⟨a1, a2, a3, a4, a5, a6, a7, a8, a9, a10, a11, a12, a13⟩ := h.config n
    obtain ⟨b1, b2, b3, b4, b5, b6, b7, b8, b9, b10, b11, b12, b13⟩ := k.config n
    exact ⟨b1.trans a1, b2.trans a2, b3.trans a3, b4.trans a4, b5.trans a5, b6.trans a6, b7.trans a7, b8.trans a8, b9.trans a9,
      b10.trans a10, b11.trans a11, by rw [b12, a12], b13.trans a13⟩
  queues n q := by rw [k.queues n q, h.queues n q]
  rings n d := by rw [k.rings n d, h.rings n d]
  graphs n g := by rw [k.graphs n g, h.graphs n g]

/-! ### Single updates -/

theorem lookup_mapVals {α : Type} (d : α) (g : Nat → α → α) (m : Sparse α) (k : Nat) :
    lookup d (mapVals g m) k = if m.any (·.1 == k) then g k (lookup d m k) else d := by
  induction m with
  | nil => rfl
  | cons e m ih =>
    obtain ⟨j, v⟩ := e
    have hm : lookup d (mapVals g ((j, v) :: m)) k = if j = k then g j v else lookup d (mapVals g m) k := rfl
    rw [hm]
    by_cases h : j = k
    · subst h; simp [lookup]
    · have hb : (j == k) = false := by simpa using h
      simp only [if_neg h, ih, lookup, List.any_cons, hb, Bool.false_or]

theorem lookup_absent {α : Type} (d : α) (m : Sparse α) (k : Nat) (h : ¬ m.any (·.1 == k) = true) : lookup d m k = d := by
  induction m with
  | nil => rfl
  | cons e m ih =>
    simp only [List.any_cons, Bool.or_eq_true, not_or] at h
    simp only [lookup]
    rw [if_neg (by simpa using h.1)]
    exact ih h.2

theorem mem_of_mem_erase {α : Type} {m : Sparse α} {k : Nat} {x : Nat × α} (h : x ∈ erase m k) : x ∈ m := by
  induction m with
  | nil => exact h
  | cons e m ih =>
    simp only [erase] at h
    split at h
    · exact List.mem_cons_of_mem _ h
    · rcases List.mem_cons.1 h with rfl | h
      · exact List.mem_cons_self
      · exact List.mem_cons_of_mem _ (ih h)

/-- Tokens and requests on their way, orders, faults, events, set units of a die and the model's counters are outside the
frame. -/
theorem kept_flow (s : State) (net : List Flight) (reqs : List MemReq) (orders : List Order) (faults : List FaultTok)
    (out : List Event) (dieSets : Sparse SetUnit) (ident moment : Nat) :
    Kept s { s with net := net, reqs := reqs, orders := orders, faults := faults, traceOut := out, dieSets := dieSets
                    nextIdent := ident, moment := moment } := by
  constructor
  case regions => exact fun r => ⟨rfl, sameLines _⟩
  all_goals simp [elemOf, partOf, queueOf, dringOf, graphOf, ingressOf]

/-- What the ports and the ingress units hold of a tag taken away. -/
theorem kept_ingress (s : State) (reqs : List MemReq) (f : Nat → Ingress → Ingress) (hf : ∀ d i, (f d i).keys = i.keys ∧
    (∀ x ∈ (f d i).packers, x ∈ i.packers) ∧ ∀ x ∈ (f d i).segids, x ∈ i.segids) :
    Kept s { s with reqs := reqs, ingress := mapVals f s.ingress } := by
  constructor
  case regions => exact fun r => ⟨rfl, sameLines _⟩
  all_goals try simp [elemOf, partOf, queueOf, dringOf, graphOf]
  intro d
  have h := lookup_mapVals ({} : Ingress) f s.ingress d
  simp only [ingressOf, h]
  split
  · simpa using hf d (lookup {} s.ingress d)
  · rename_i hn
    rw [lookup_absent _ _ _ hn]; simp

theorem kept_emitEvent (s : State) (die src cls code ctx payload : Nat) (floor : DWord) :
    Kept s (emitEvent s die src cls code ctx payload floor) := by
  constructor
  case regions => exact fun r => ⟨rfl, sameLines _⟩
  all_goals simp [emitEvent, elemOf, partOf, queueOf, dringOf, graphOf, ingressOf]

/-- An element changed outside its tables. -/
theorem kept_modElem (s : State) (el : Nat) (f : Element → Element)
    (hf : let e := elemOf s el
      let e' := f e
      e'.instr = e.instr ∧ e'.lits = e.lits ∧ e'.routes = e.routes ∧ e'.attrs = e.attrs ∧ e'.owner = e.owner ∧ e'.absent = e.absent) :
    Kept s (modElem s el f) := by
  constructor
  case regions => exact fun r => ⟨rfl, sameLines _⟩
  all_goals try simp [partOf, queueOf, dringOf, graphOf, ingressOf]
  intro k
  by_cases hk : k = el
  · subst hk; simpa using hf
  · rw [elemOf_modElem_other _ _ hk]; simp

/-- A partition changed outside the frame. -/
theorem kept_modPart (s : State) (n : Nat) (f : Part → Part)
    (hc : let p := partOf s n
      let p' := f p
      p'.en = p.en ∧ p'.rmax = p.rmax ∧ p'.dies = p.dies ∧ p'.hold = p.hold ∧ p'.ptEn = p.ptEn ∧ p'.ptRoot = p.ptRoot ∧
        p'.mbx = p.mbx ∧ p'.elcsel = p.elcsel ∧ p'.elcval = p.elcval ∧ p'.saveArea = p.saveArea ∧
        p'.bankArea = p.bankArea ∧ p'.trace = { p.trace with stalled := p'.trace.stalled, holders := p'.trace.holders, need := p'.trace.need } ∧
        p'.acts.map (fun a => { a with discard := 0 }) = p.acts.map fun a => { a with discard := 0 })
    (hq : ∀ q, lookup {} (f (partOf s n)).queues q =
      { (lookup {} (partOf s n).queues q : Queue) with
        stallAt := (lookup {} (f (partOf s n)).queues q).stallAt, fireStallAt := (lookup {} (f (partOf s n)).queues q).fireStallAt
        fireStallPos := (lookup {} (f (partOf s n)).queues q).fireStallPos })
    (hr : ∀ d, lookup {} (f (partOf s n)).rings d =
      { (lookup {} (partOf s n).rings d : DataRing) with stallAt := (lookup {} (f (partOf s n)).rings d).stallAt })
    (hg : ∀ h, lookup {} (f (partOf s n)).graphs h =
      { (lookup {} (partOf s n).graphs h : Graph) with yielded := (lookup {} (f (partOf s n)).graphs h).yielded }) :
    Kept s (modPart s n f) := by
  have other {m : Nat} (hm : m ≠ n) : partOf (modPart s n f) m = partOf s m := partOf_modPart_other s f hm
  constructor
  case regions => exact fun r => ⟨rfl, sameLines _⟩
  all_goals try simp [elemOf, ingressOf]
  · intro m
    by_cases hm : m = n
    · subst hm; simpa using hc
    · rw [other hm]; simp
  · intro m q
    by_cases hm : m = n
    · subst hm; simpa [queueOf] using hq q
    · simp only [queueOf, other hm]
  · intro m d
    by_cases hm : m = n
    · subst hm; simpa [dringOf] using hr d
    · simp only [dringOf, other hm]
  · intro m h
    by_cases hm : m = n
    · subst hm; simpa [graphOf] using hg h
    · simp only [graphOf, other hm]

/-- A partition changed in fields that the frame does not name. -/
theorem kept_modPart_plain (s : State) (n : Nat) (f : Part → Part)
    (hf : f (partOf s n) = { partOf s n with
      tagNext := (f (partOf s n)).tagNext, tags := (f (partOf s n)).tags, freedAt := (f (partOf s n)).freedAt
      progressAt := (f (partOf s n)).progressAt }) :
    Kept s (modPart s n f) := by
  refine kept_modPart s n f ?_ ?_ ?_ ?_
  · dsimp only; rw [hf]; simp
  all_goals rw [hf]; intro _; rfl

/-! ### Counts, sends and faults -/

theorem kept_bump (s : State) (el : Nat) (c : Counter) (n : Nat) : Kept s (bump s el c n) := by
  unfold bump
  split
  · exact .refl s
  · exact kept_modElem _ _ _ (by simp only [bumpElem]; split <;> simp)

theorem kept_ecount (s : State) (el code ctx tag slot n : Nat) (floor : DWord) : Kept s (ecount s el code ctx tag slot n floor) :=
  kept_emitEvent ..

theorem kept_countLenDrop (s : State) (el ctx tag slot n : Nat) (floor : DWord) : Kept s (countLenDrop s el ctx tag slot n floor) := by
  unfold countLenDrop
  split
  · exact .refl s
  · exact (kept_bump ..).trans (kept_ecount ..)

theorem kept_countEosMis (s : State) (el ctx tag slot : Nat) (floor : DWord) : Kept s (countEosMis s el ctx tag slot floor) :=
  (kept_bump ..).trans (kept_ecount ..)

theorem kept_countFloat (s : State) (el nan ovf : Nat) : Kept s (countFloat s el nan ovf) :=
  (kept_bump ..).trans (kept_bump ..)

theorem kept_foldl {α : Type} (f : State → α → State) (hf : ∀ s a, Kept s (f s a)) (l : List α) (s : State) :
    Kept s (l.foldl f s) := by
  induction l generalizing s with
  | nil => exact .refl s
  | cons a l ih => exact (hf s a).trans (ih _)

theorem kept_sendTok (s : State) (el : Nat) (t : Token) (d : Dest) (slot : Option Nat) : Kept s (sendTok s el t d slot) := by
  unfold sendTok
  split
  · exact kept_bump ..
  · exact kept_flow s _ s.reqs s.orders s.faults s.traceOut s.dieSets s.nextIdent s.moment

theorem kept_sendAll (s : State) (el : Nat) (t : Token) (ds : List Dest) : Kept s (sendAll s el t ds) :=
  kept_foldl _ (fun s d => kept_sendTok s el t d _) ds s

theorem kept_raise (s : State) (f : FaultTok) : Kept s (raise s f) := by
  have h (g : FaultTok) := kept_flow s s.net s.reqs s.orders (s.faults ++ [g]) s.traceOut s.dieSets s.nextIdent s.moment
  unfold raise
  extract_lets g t
  split
  · exact (h g).trans (kept_emitEvent ..)
  · exact h g

theorem kept_elemFault (s : State) (el : Nat) (v : Bool) (slot n : Nat) (t : Tag) (code : Byte) :
    Kept s (elemFault s el v slot n t code) := kept_raise ..

/-! ### Tags -/

theorem kept_modTag (s : State) (n : Nat) (t : Tag) (f : TagInfo → TagInfo) : Kept s (modTag s n t f) :=
  kept_modPart_plain _ _ _ (by simp)

theorem kept_newTag {s s' : State} {n : Nat} {info : Tag → TagInfo} {u : Tag} (h : newTag s n info = some (u, s')) : Kept s s' := by
  simp only [newTag] at h
  split at h
  · simp at h
  · rename_i v _
    simp only [Option.some.injEq, Prod.mk.injEq] at h
    obtain ⟨rfl, rfl⟩ := h
    exact kept_modPart_plain s n (fun p => { p with tagNext := tagAfter v, tags := store p.tags v.toNat (info v) }) (by simp)

theorem kept_nextTag {s s' : State} {n bound : Nat} {bounded : Bool} {t u : Tag}
    (h : nextTag s n bound bounded t = some (u, s')) : Kept s s' := by
  simp only [nextTag] at h
  split at h
  · simp only [Option.some.injEq, Prod.mk.injEq] at h; exact h.2 ▸ .refl s
  · split at h
    · simp at h
    · split at h
      · simp at h
      · rename_i w s1 hn
        simp only [Option.some.injEq, Prod.mk.injEq] at h
        obtain ⟨-, rfl⟩ := h
        split
        · exact (kept_newTag hn).trans (kept_modTag ..)
        · exact kept_newTag hn

theorem kept_tagAction {s s' : State} {n bound act : Nat} {t u : Tag} {b : Word}
    (h : tagAction s n bound act t b = some (u, s')) : Kept s s' := by
  unfold tagAction at h
  split at h
  · exact kept_nextTag h
  · exact kept_nextTag h
  · exact kept_newTag h
  · simp only [Option.some.injEq, Prod.mk.injEq] at h; exact h.2 ▸ .refl s
  · simp only [Option.some.injEq, Prod.mk.injEq] at h; exact h.2 ▸ .refl s
  · simp only [Option.some.injEq, Prod.mk.injEq] at h
    obtain ⟨-, rfl⟩ := h
    split
    · exact .refl s
    · exact kept_modTag ..
  · simp only [Option.some.injEq, Prod.mk.injEq] at h; exact h.2 ▸ .refl s

theorem kept_resultTag {s s' : State} {f : Firing} {u : Tag} (h : resultTag s f = some (u, s')) : Kept s s' := by
  simp only [resultTag] at h
  split at h
  · simp at h
  · rename_i t s1 ht
    split at h
    · simp at h
    · simp only [Option.some.injEq, Prod.mk.injEq] at h
      exact h.2 ▸ kept_tagAction ht

theorem kept_freeInElem (n : Nat) (t : Tag) (reqs : List MemReq) (floor : DWord) (s : State) (el : Nat) :
    Kept s (freeInElem n t reqs floor s el) := by
  unfold freeInElem
  have h : Kept s (modElem s el fun e => releaseParts e n t) := kept_modElem _ _ _ (by simp [releaseParts])
  simp only
  split
  · exact h
  · refine h.trans ((kept_bump _ el .freeDisc _).trans (kept_foldl _ (fun s sl => ?_) _ _))
    split
    · exact .refl s
    · exact kept_ecount ..

theorem kept_addDiscard (s : State) (n : Nat) (t : Tag) (k : Nat) : Kept s (addDiscard s n t k) := by
  unfold addDiscard
  split
  · exact .refl s
  · rename_i r _
    refine kept_modPart _ _ _ ?_ ?_ ?_ ?_ <;> simp
    intro a _
    split <;> simp

/-- Freeing a tag. -/
theorem kept_freeTag (s : State) (n : Nat) (t : Tag) (floor : DWord) : Kept s (freeTag s n t floor) := by
  unfold freeTag
  split
  · exact .refl s
  · refine Kept.trans ?_ (kept_addDiscard ..)
    refine Kept.trans ?_ (kept_ingress _ _ _ ?_)
    case refine_2 => exact fun _ _ => ⟨rfl, fun _ hx => mem_of_mem_erase hx, fun _ hx => mem_of_mem_erase hx⟩
    refine Kept.trans ?_ (kept_foldl _ (fun s el => kept_freeInElem n t _ floor s el) _ _)
    refine Kept.trans ?_ (kept_modTag ..)
    refine kept_modPart _ _ _ (by simp) ?_ ?_ (by simp)
    · intro q; simp only [lookup_mapVals]; split
      · rfl
      · rename_i h; rw [lookup_absent _ _ _ h]
    · intro d; simp only [lookup_mapVals]; split
      · rfl
      · rename_i h; rw [lookup_absent _ _ _ h]

/-! ### Consuming and sending (R158, R164, R168) -/

theorem kept_progress (s : State) (n : Nat) : Kept s (progress s n) := kept_modPart_plain _ _ _ (by simp)

theorem kept_setElem (s : State) (el : Nat) (x : Element)
    (hx : let e := elemOf s el
      x.instr = e.instr ∧ x.lits = e.lits ∧ x.routes = e.routes ∧ x.attrs = e.attrs ∧ x.owner = e.owner ∧ x.absent = e.absent) :
    Kept s (setElem s el x) := kept_modElem s el (fun _ => x) hx

theorem kept_countFiring (s : State) (el n op slot : Nat) (v : Bool) (tag : Tag) (floor : DWord) :
    Kept s (countFiring s el n op slot v tag floor) := by
  unfold countFiring
  have h : Kept s (progress (setElem s el { elemOf s el with
      fires := (elemOf s el).fires + 1, lastSlot := slot, clock := (elemOf s el).clock + 1 }) n) :=
    (kept_setElem _ _ _ (by simp)).trans (kept_progress ..)
  simp only
  split
  · exact h.trans (kept_emitEvent ..)
  · exact h

theorem kept_dropEmpty (s : State) (el cfg : Nat) (t : Tag) : Kept s (modElem s el fun e => dropEmpty e cfg t) :=
  kept_modElem _ _ _ (by simp [dropEmpty])

theorem kept_consume (s : State) (h : Slot) (op : Nat) (ks : List Nat) (rest : List (Nat × Token)) (floor : DWord) :
    Kept s (consume s h op ks rest floor) := by
  unfold consume
  exact (kept_countFiring ..).trans (kept_modElem _ _ _ (by simp [modPartOf]))

theorem kept_endStream (s : State) (h : Slot) : Kept s (endStream s h) := kept_modElem _ _ _ (by simp)

theorem kept_takeStamp (s : State) (f : Firing) : Kept s (takeStamp s f).2 := by
  show Kept s (modElem s f.el fun e => modPartOf e f.cfg f.tag fun p => { p with seq := (takeStamp s f).1 + 1 })
  exact kept_modElem _ _ _ (by simp [modPartOf])

theorem kept_sendOut (f : Firing) (tag : Tag) (s : State) (o : Out) : Kept s (sendOut f tag s o) := by
  unfold sendOut
  have h : Kept s (if stampsSeq f.form.t then takeStamp s f else (f.head.seq, s)).2 := by
    split
    · exact kept_takeStamp ..
    · exact .refl s
  simp only
  generalize (if stampsSeq f.form.t then takeStamp s f else (f.head.seq, s)) = st at h
  have h0 (x : Token) : Kept s (if o.d0 = true then
      match route st.2 f.el f.v f.form.d with | some d => sendTok st.2 f.el x d (some (key16 f.v f.slot)) | none => st.2 else st.2) := by
    split
    · split
      · exact h.trans (kept_sendTok ..)
      · exact h
    · exact h
  split
  · split
    · exact (h0 _).trans (kept_sendTok ..)
    · exact h0 _
  · exact h0 _

theorem kept_afterFiring (s : State) (f : Firing) : Kept s (afterFiring s f) := by
  unfold afterFiring
  simp only
  split
  · exact (kept_freeTag ..).trans (kept_dropEmpty ..)
  · exact kept_dropEmpty ..

theorem kept_stampUnsent (s : State) (f : Firing) (outs : List Out) : Kept s (stampUnsent s f outs) := by
  unfold stampUnsent
  split
  · exact kept_takeStamp ..
  · exact .refl s

/-- The results of a firing sent. -/
theorem kept_emit {s s' : State} {f : Firing} {outs : List Out} (h : emit s f outs = some s') : Kept s s' := by
  simp only [emit] at h
  split at h
  · simp at h
  · rename_i tag s1 ht
    simp only [Option.some.injEq] at h
    subst h
    exact (kept_resultTag ht).trans ((kept_stampUnsent s1 f outs).trans
      ((kept_foldl _ (fun s o => kept_sendOut f tag s o) outs _).trans (kept_afterFiring ..)))

theorem kept_getD {s t : State} {x : Option State} (h : ∀ u, x = some u → Kept s u) (ht : Kept s t) : Kept s (x.getD t) := by
  cases x with
  | none => exact ht
  | some u => exact h u rfl

/-! ### The firing of a slot (R150, R158, R169 to R172, R202) -/

/-- The state in which a slot's operands have been read, whatever they were. -/
def Ready.state (s : State) : Ready → State
  | .wait => s
  | .dropped s' => s'
  | .eos _ s' => s'
  | .poison _ s' => s'
  | .null _ s' => s'
  | .go _ s' => s'

theorem kept_gather (s : State) (h : Slot) (fm : Form) (ks : List Nat) (compare : Bool) :
    Kept s ((gather s h fm ks compare).state s) := by
  simp only [gather]
  split
  · exact (kept_modElem _ _ _ (by simp [modPartOf])).trans (kept_foldl _ (fun s (x : Nat × Token) => kept_countEosMis s h.el x.2.ctx x.2.tag.toNat h.slot x.2.floor) _ _)
  · split
    · exact .refl s
    · split
      · exact .refl s
      · split
        · exact (kept_consume ..).trans (kept_endStream ..)
        · split
          · exact kept_consume ..
          · split <;> exact (kept_consume ..).trans (kept_countLenDrop ..)

theorem kept_poisonFault (s : State) (f : Firing) : Kept s (poisonFault s f) := (kept_dropEmpty ..).trans (kept_elemFault ..)

theorem kept_permFault (s : State) (f : Firing) : Kept s (permFault s f) := (kept_dropEmpty ..).trans (kept_elemFault ..)

/-- A slot fires within the frame if the body of its opcode does. -/
theorem kept_fireReady (o : Op) (s : State) (r : Ready) (hr : Kept s (r.state s))
    (hb : ∀ s f u, o.body s f = some u → Kept s u) : Kept s (fireReady o s r) := by
  cases r with
  | wait => exact .refl s
  | dropped s' => exact hr
  | poison f s' => exact hr.trans (kept_poisonFault ..)
  | eos f s' => exact kept_getD (fun u hu => hr.trans (kept_emit hu)) (.refl s)
  | null f s' => exact kept_getD (fun u hu => hr.trans (kept_emit hu)) (.refl s)
  | go f s' => exact kept_getD (fun u hu => hr.trans (hb s' f u hu)) (.refl s)

theorem kept_noteFiringStall (s : State) (n q : Nat) (pos : Word) : Kept s (noteFiringStall s n q pos) := by
  unfold noteFiringStall modQueue
  refine kept_modPart _ _ _ (by simp) ?_ (by simp) (by simp)
  intro p
  by_cases hp : p = q
  · subst hp
    simp only [lookup_store_same]
    split <;> rfl
  · simp only [lookup_store_other _ _ _ _ _ hp]

theorem kept_stalled (s : State) (n : Nat) (hs : List Nat) (need : TraceRing → Nat) (hn : n ≠ 0) :
    Kept s (modRingAt s n fun g => { g with stalled := true, holders := (g.holders ++ hs).eraseDups, need := need g }) := by
  unfold modRingAt
  rw [if_neg hn]
  exact kept_modPart _ _ _ (by simp) (by simp) (by simp) (by simp)

theorem kept_holdForTrace {s s' : State} (n : Nat) (h : Kept s s') : Kept s (holdForTrace s s' n) := by
  unfold holdForTrace
  split
  · rename_i hc
    have hn : n ≠ 0 := by
      simp only [traceHolds, Bool.and_eq_true, bne_iff_ne] at hc
      exact hc.1.1.1
    simp only
    split
    · exact kept_stalled s n _ _ hn
    · exact (kept_stalled s n _ _ hn).trans (kept_emitEvent ..)
  · unfold holdForFge
    split
    · split
      · exact .refl s
      · exact h
    · exact h

theorem kept_fireSlot (fm : Form) (s : State) (go : State → Slot → State) (hgo : ∀ h, Kept s (go s h)) : Kept s (fireSlot fm s go) := by
  unfold fireSlot
  split
  · split
    · exact .refl s
    · split
      · exact kept_noteFiringStall ..
      · exact kept_holdForTrace _ (hgo _)
  · exact .refl s

/-- An opcode fires within the frame if its body does. -/
theorem kept_fire (o : Op) (fm : Form) (s : State) (hb : ∀ s f u, o.body s f = some u → Kept s u) : Kept s (fire o fm s) := by
  unfold fire
  split
  · exact kept_fireSlot _ _ _ fun h => kept_fireReady o s _ (kept_gather ..) hb
  · exact .refl s

/-- A request that reaches its port, where it may park at once (R200). -/
theorem kept_reachPort (s : State) (r : MemReq) : Kept s (reachPort s r) := by
  have h (reqs : List MemReq) (k : Nat) : Kept s { s with reqs := reqs, nextIdent := k } :=
    kept_flow s s.net reqs s.orders s.faults s.traceOut s.dieSets k s.moment
  unfold reachPort
  simp only
  split
  · unfold parkBehind
    simp only
    split
    · exact (h _ _).trans (kept_emitEvent ..)
    · exact h _ _
  · exact h _ _

/-- A memory opcode's request leaves within the frame. -/
theorem kept_sendRequest {s s' : State} {f : Firing} {w : Nat} (h : sendRequest s f w = some s') : Kept s s' := by
  simp only [sendRequest] at h
  split at h
  · simp at h
  · rename_i tag s1 ht
    simp only [Option.some.injEq] at h
    subst h
    have hs : Kept s1 (if stampsSeq f.form.t then takeStamp s1 f else (f.head.seq, s1)).2 := by
      split
      · exact kept_takeStamp ..
      · exact .refl s1
    exact (kept_resultTag ht).trans (hs.trans ((kept_reachPort ..).trans (kept_afterFiring ..)))

end Sys2Proof.Machine
end

