-- ==== Sys2Proof/Laws/PerInstr.lean ====
section
/-! SUPPORT. The family FieldsRoundTrip, one lemma for each instruction: the fields of an instruction word hold the
instruction they are the fields of (R325). An event has no fields. -/

namespace Sys2Proof.Laws

/-- The two bits of a scope pass through the modifier field. -/
theorem twoBits (x : BitVec 2) : (x.setWidth 4).setWidth 2 = x := by revert x; decide

end Sys2Proof.Laws

namespace Sys2Proof.Laws.FieldsRoundTrip

open Sys2Proof

/-- The fields of the instruction, where it has any, hold it and no other. -/
def Statement (i : Instr) : Prop := ∀ f, fieldsOfInstr i = some f → instrOfFields f = some i

theorem powerAux3v3On : Statement .powerAux3v3On := by intro f h; cases h
theorem stageS0Reached : ∀ x0, Statement (.stageS0Reached x0) := by intro x0 f h; cases h
theorem perstDeassert : Statement .perstDeassert := by intro f h; cases h
theorem stageS1Reached : Statement .stageS1Reached := by intro f h; cases h
theorem stageS2Reached : Statement .stageS2Reached := by intro f h; cases h
theorem stageS3Reached : Statement .stageS3Reached := by intro f h; cases h
theorem stageDeadlineMissed : ∀ x0, Statement (.stageDeadlineMissed x0) := by intro x0 f h; cases h
theorem aux54vArrives : Statement .aux54vArrives := by intro f h; cases h
theorem drvfeatWrite : ∀ x0, Statement (.drvfeatWrite x0) := by intro x0 f h; cases h
theorem vfFlr : ∀ x0, Statement (.vfFlr x0) := by intro x0 f h; cases h
theorem pfFlr : Statement .pfFlr := by intro f h; cases h
theorem pcieLinkTrained : ∀ x0 x1, Statement (.pcieLinkTrained x0 x1) := by intro x0 x1 f h; cases h
theorem hostLinkLost : Statement .hostLinkLost := by intro f h; cases h
theorem linklostSaveComplete : Statement .linklostSaveComplete := by intro f h; cases h
theorem hostLinkRetrained : Statement .hostLinkRetrained := by intro f h; cases h
theorem recoveryTimeout : Statement .recoveryTimeout := by intro f h; cases h
theorem bar2baseWrite : ∀ x0, Statement (.bar2baseWrite x0) := by intro x0 f h; cases h
theorem hostBar2Access : ∀ x0 x1 x2, Statement (.hostBar2Access x0 x1 x2) := by intro x0 x1 x2 f h; cases h
theorem hostVfBarAccessInFlr : ∀ x0 x1 x2 x3, Statement (.hostVfBarAccessInFlr x0 x1 x2 x3) := by intro x0 x1 x2 x3 f h; cases h
theorem cxlLinkTrained : ∀ x0 x1 x2, Statement (.cxlLinkTrained x0 x1 x2) := by intro x0 x1 x2 f h; cases h
theorem expanderLost : ∀ x0, Statement (.expanderLost x0) := by intro x0 f h; cases h
theorem d2dCorrectableRetry : Statement .d2dCorrectableRetry := by intro f h; cases h
theorem d2dUncorrectableFlit : ∀ x0, Statement (.d2dUncorrectableFlit x0) := by intro x0 f h; cases h
theorem ppsEdge : Statement .ppsEdge := by intro f h; cases h
theorem timeOfDayDelivery : ∀ x0, Statement (.timeOfDayDelivery x0) := by intro x0 f h; cases h
theorem ppsHoldover : Statement .ppsHoldover := by intro f h; cases h
theorem ttEraWrap : Statement .ttEraWrap := by intro f h; cases h
theorem d2dTimeCalibration : ∀ x0, Statement (.d2dTimeCalibration x0) := by intro x0 f h; cases h
theorem skewAlarm : Statement .skewAlarm := by intro f h; cases h
theorem powerCapSet : ∀ x0, Statement (.powerCapSet x0) := by intro x0 f h; cases h
theorem clockStep : ∀ x0, Statement (.clockStep x0) := by intro x0 f h; cases h
theorem pldmSensorRead : ∀ x0, Statement (.pldmSensorRead x0) := by intro x0 f h; cases h
theorem wearUpdate : ∀ x0, Statement (.wearUpdate x0) := by intro x0 f h; cases h
theorem attestationRequestSideband : ∀ x0, Statement (.attestationRequestSideband x0) := by intro x0 f h; cases h
theorem pldmFwUpdate : ∀ x0 x1, Statement (.pldmFwUpdate x0 x1) := by intro x0 x1 f h; cases h
theorem fwsctlOpen : ∀ x0, Statement (.fwsctlOpen x0) := by intro x0 f h; cases h
theorem fwspush : Statement .fwspush := by intro f h; cases h
theorem fwsChunkCopied : Statement .fwsChunkCopied := by intro f h; cases h
theorem fwsctlGo : ∀ x0, Statement (.fwsctlGo x0) := by intro x0 f h; cases h
theorem castleVerify : Statement .castleVerify := by intro f h; cases h
theorem castleStaged : Statement .castleStaged := by intro f h; cases h
theorem castlePoint : Statement .castlePoint := by intro f h; cases h
theorem engineStoreSwap : ∀ x0, Statement (.engineStoreSwap x0) := by intro x0 f h; cases h
theorem castleImportDone : Statement .castleImportDone := by intro f h; cases h
theorem castleHeartbeat : Statement .castleHeartbeat := by intro f h; cases h
theorem heartbeatDeadline : Statement .heartbeatDeadline := by intro f h; cases h
theorem castleCommit : Statement .castleCommit := by intro f h; cases h
theorem doorbellWrite : ∀ x0 x1 x2 x3, Statement (.doorbellWrite x0 x1 x2 x3) := by intro x0 x1 x2 x3 f h; cases h
theorem ringFetch : ∀ x0 x1 x2, Statement (.ringFetch x0 x1 x2) := by intro x0 x1 x2 f h; cases h
theorem mergeRound : Statement .mergeRound := by intro f h; cases h
theorem inject : Statement .inject := by intro f h; cases h
theorem reside : Statement .reside := by intro f h; cases h
theorem evict : Statement .evict := by intro f h; cases h
theorem evictDone : ∀ x0 x1, Statement (.evictDone x0 x1) := by intro x0 x1 f h; cases h
theorem ib : Statement .ib := by intro f h; cases h
theorem waitv : Statement .waitv := by intro f h; cases h
theorem waitvReread : Statement .waitvReread := by intro f h; cases h
theorem writev : Statement .writev := by intro f h; cases h
theorem mboxAttestRequest : Statement .mboxAttestRequest := by intro f h; cases h
theorem mboxEcho : Statement .mboxEcho := by intro f h; cases h
theorem qbar : Statement .qbar := by intro f h; cases h
theorem tracectl : Statement .tracectl := by intro f h; cases h
theorem nopk : Statement .nopk := by intro f h; cases h
theorem activationQuiescent : ∀ x0 x1, Statement (.activationQuiescent x0 x1) := by intro x0 x1 f h; cases h
theorem cplheadWrite : ∀ x0 x1 x2, Statement (.cplheadWrite x0 x1 x2) := by intro x0 x1 x2 f h; cases h
theorem tagStallWatchdog : Statement .tagStallWatchdog := by intro f h; cases h
theorem qctlEnableSet : ∀ x0 x1 x2, Statement (.qctlEnableSet x0 x1 x2) := by intro x0 x1 x2 f h; cases h
theorem qctlEnableClear : ∀ x0 x1, Statement (.qctlEnableClear x0 x1) := by intro x0 x1 f h; cases h
theorem qctlCmdResume : ∀ x0 x1, Statement (.qctlCmdResume x0 x1) := by intro x0 x1 f h; cases h
theorem qctlCmdReset : ∀ x0 x1, Statement (.qctlCmdReset x0 x1) := by intro x0 x1 f h; cases h
theorem mbxheadWrite : ∀ x0 x1, Statement (.mbxheadWrite x0 x1) := by intro x0 x1 f h; cases h
theorem mbxctlWrite : ∀ x0 x1, Statement (.mbxctlWrite x0 x1) := by intro x0 x1 f h; cases h
theorem dataDoorbellWrite : ∀ x0 x1 x2, Statement (.dataDoorbellWrite x0 x1 x2) := by intro x0 x1 x2 f h; cases h
theorem drctlEnableSet : ∀ x0 x1 x2, Statement (.drctlEnableSet x0 x1 x2) := by intro x0 x1 x2 f h; cases h
theorem drctlEnableClear : ∀ x0 x1, Statement (.drctlEnableClear x0 x1) := by intro x0 x1 f h; cases h
theorem drctlCmdResume : ∀ x0 x1, Statement (.drctlCmdResume x0 x1) := by intro x0 x1 f h; cases h
theorem drctlCmdReset : ∀ x0 x1, Statement (.drctlCmdReset x0 x1) := by intro x0 x1 f h; cases h
theorem span : Statement .span := by intro f h; cases h
theorem sample : Statement .sample := by intro f h; cases h
theorem flush : Statement .flush := by intro f h; cases h
theorem dataPacketConsumed : Statement .dataPacketConsumed := by intro f h; cases h
theorem streamOpen : Statement .streamOpen := by intro f h; cases h
theorem streamBind : Statement .streamBind := by intro f h; cases h
theorem streamComplete : Statement .streamComplete := by intro f h; cases h
theorem regionGrant : ∀ x0 x1 x2, Statement (.regionGrant x0 x1 x2) := by intro x0 x1 x2 f h; cases h
theorem quantumCharge : ∀ x0, Statement (.quantumCharge x0) := by intro x0 f h; cases h
theorem drainComplete : Statement .drainComplete := by intro f h; cases h
theorem t1Deadline : Statement .t1Deadline := by intro f h; cases h
theorem engineBoundarySave : ∀ x0, Statement (.engineBoundarySave x0) := by intro x0 f h; cases h
theorem shadowExchange : ∀ x0, Statement (.shadowExchange x0) := by intro x0 f h; cases h
theorem t2Deadline : Statement .t2Deadline := by intro f h; cases h
theorem queueRestore : Statement .queueRestore := by intro f h; cases h
theorem partcfgHoldSet : ∀ x0, Statement (.partcfgHoldSet x0) := by intro x0 f h; cases h
theorem partcfgHoldClear : ∀ x0, Statement (.partcfgHoldClear x0) := by intro x0 f h; cases h
theorem spillWatchdog : ∀ x0, Statement (.spillWatchdog x0) := by intro x0 f h; cases h
theorem faultToken : Statement .faultToken := by intro f h; cases h
theorem rmLoad : ∀ x0 x1, Statement (.rmLoad x0 x1) := by intro x0 x1 f h; cases h
theorem rmPlace : ∀ x0 x1, Statement (.rmPlace x0 x1) := by intro x0 x1 f h; cases h
theorem rmFetch : ∀ x0 x1, Statement (.rmFetch x0 x1) := by intro x0 x1 f h; cases h
theorem configEntryFetched : ∀ x0 x1, Statement (.configEntryFetched x0 x1) := by intro x0 x1 f h; cases h
theorem stageInputIdle : ∀ x0 x1, Statement (.stageInputIdle x0 x1) := by intro x0 x1 f h; cases h
theorem rmStageSwap : ∀ x0 x1 x2, Statement (.rmStageSwap x0 x1 x2) := by intro x0 x1 x2 f h; cases h
theorem rmResolve : ∀ x0 x1 x2, Statement (.rmResolve x0 x1 x2) := by intro x0 x1 x2 f h; cases h
theorem faultReplay : ∀ x0 x1, Statement (.faultReplay x0 x1) := by intro x0 x1 f h; cases h
theorem trctlEnSet : ∀ x0 x1, Statement (.trctlEnSet x0 x1) := by intro x0 x1 f h; cases h
theorem traceFilterWrite : ∀ x0 x1 x2, Statement (.traceFilterWrite x0 x1 x2) := by intro x0 x1 x2 f h; cases h
theorem trheadWrite : ∀ x0 x1, Statement (.trheadWrite x0 x1) := by intro x0 x1 f h; cases h
theorem traceEventWrite : Statement .traceEventWrite := by intro f h; cases h
theorem traceForcedLossy : ∀ x0, Statement (.traceForcedLossy x0) := by intro x0 f h; cases h
theorem elcselWrite : ∀ x0 x1, Statement (.elcselWrite x0 x1) := by intro x0 x1 f h; cases h
theorem tokenEnqueue : ∀ x0, Statement (.tokenEnqueue x0) := by intro x0 f h; cases h
theorem framePartReload : ∀ x0 x1, Statement (.framePartReload x0 x1) := by intro x0 x1 f h; cases h
theorem queueRefill : ∀ x0, Statement (.queueRefill x0) := by intro x0 f h; cases h
theorem translationWalk : ∀ x0 x1, Statement (.translationWalk x0 x1) := by intro x0 x1 f h; cases h
theorem atsInvalidation : ∀ x0 x1, Statement (.atsInvalidation x0 x1) := by intro x0 x1 f h; cases h
theorem tlbinvWrite : ∀ x0, Statement (.tlbinvWrite x0) := by intro x0 f h; cases h
theorem hbmForcedRefresh : ∀ x0 x1, Statement (.hbmForcedRefresh x0 x1) := by intro x0 x1 f h; cases h
theorem hbmCorrectedError : ∀ x0 x1 x2, Statement (.hbmCorrectedError x0 x1 x2) := by intro x0 x1 x2 f h; cases h
theorem hbmUncorrectableError : ∀ x0 x1, Statement (.hbmUncorrectableError x0 x1) := by intro x0 x1 f h; cases h
theorem latctlClr : ∀ x0 x1, Statement (.latctlClr x0 x1) := by intro x0 x1 f h; cases h
theorem copyTrigger : ∀ x0 x1, Statement (.copyTrigger x0 x1) := by intro x0 x1 f h; cases h
theorem copyRetire : ∀ x0, Statement (.copyRetire x0) := by intro x0 f h; cases h
theorem engineFifoIssue : ∀ x0, Statement (.engineFifoIssue x0) := by intro x0 f h; cases h
theorem engineRetire : ∀ x0, Statement (.engineRetire x0) := by intro x0 f h; cases h
theorem mxdrpRowArrive : ∀ x0, Statement (.mxdrpRowArrive x0) := by intro x0 f h; cases h
theorem engineNoncommandDrop : ∀ x0, Statement (.engineNoncommandDrop x0) := by intro x0 f h; cases h
theorem registerWrite : ∀ x0 x1, Statement (.registerWrite x0 x1) := by intro x0 x1 f h; cases h
theorem iadd : ∀ x0 x1 x2 x3 x4, Statement (.iadd x0 x1 x2 x3 x4) := by intro x0 x1 x2 x3 x4 f h; cases h; rfl
theorem isub : ∀ x0 x1 x2 x3 x4, Statement (.isub x0 x1 x2 x3 x4) := by intro x0 x1 x2 x3 x4 f h; cases h; rfl
theorem iadds : ∀ x0 x1 x2 x3 x4, Statement (.iadds x0 x1 x2 x3 x4) := by intro x0 x1 x2 x3 x4 f h; cases h; rfl
theorem iaddus : ∀ x0 x1 x2 x3 x4, Statement (.iaddus x0 x1 x2 x3 x4) := by intro x0 x1 x2 x3 x4 f h; cases h; rfl
theorem isubs : ∀ x0 x1 x2 x3 x4, Statement (.isubs x0 x1 x2 x3 x4) := by intro x0 x1 x2 x3 x4 f h; cases h; rfl
theorem imul : ∀ x0 x1 x2 x3 x4, Statement (.imul x0 x1 x2 x3 x4) := by intro x0 x1 x2 x3 x4 f h; cases h; rfl
theorem imulh : ∀ x0 x1 x2 x3 x4, Statement (.imulh x0 x1 x2 x3 x4) := by intro x0 x1 x2 x3 x4 f h; cases h; rfl
theorem imulhu : ∀ x0 x1 x2 x3 x4, Statement (.imulhu x0 x1 x2 x3 x4) := by intro x0 x1 x2 x3 x4 f h; cases h; rfl
theorem imad : ∀ x0 x1 x2 x3 x4, Statement (.imad x0 x1 x2 x3 x4) := by intro x0 x1 x2 x3 x4 f h; cases h; rfl
theorem idiv : ∀ x0 x1 x2 x3 x4, Statement (.idiv x0 x1 x2 x3 x4) := by intro x0 x1 x2 x3 x4 f h; cases h; rfl
theorem idivu : ∀ x0 x1 x2 x3 x4, Statement (.idivu x0 x1 x2 x3 x4) := by intro x0 x1 x2 x3 x4 f h; cases h; rfl
theorem irem : ∀ x0 x1 x2 x3 x4, Statement (.irem x0 x1 x2 x3 x4) := by intro x0 x1 x2 x3 x4 f h; cases h; rfl
theorem iremu : ∀ x0 x1 x2 x3 x4, Statement (.iremu x0 x1 x2 x3 x4) := by intro x0 x1 x2 x3 x4 f h; cases h; rfl
theorem imin : ∀ x0 x1 x2 x3 x4, Statement (.imin x0 x1 x2 x3 x4) := by intro x0 x1 x2 x3 x4 f h; cases h; rfl
theorem imax : ∀ x0 x1 x2 x3 x4, Statement (.imax x0 x1 x2 x3 x4) := by intro x0 x1 x2 x3 x4 f h; cases h; rfl
theorem iminu : ∀ x0 x1 x2 x3 x4, Statement (.iminu x0 x1 x2 x3 x4) := by intro x0 x1 x2 x3 x4 f h; cases h; rfl
theorem imaxu : ∀ x0 x1 x2 x3 x4, Statement (.imaxu x0 x1 x2 x3 x4) := by intro x0 x1 x2 x3 x4 f h; cases h; rfl
theorem iabs : ∀ x0 x1 x2 x3, Statement (.iabs x0 x1 x2 x3) := by intro x0 x1 x2 x3 f h; cases h; rfl
theorem ineg : ∀ x0 x1 x2 x3, Statement (.ineg x0 x1 x2 x3) := by intro x0 x1 x2 x3 f h; cases h; rfl
theorem and : ∀ x0 x1 x2 x3 x4, Statement (.and x0 x1 x2 x3 x4) := by intro x0 x1 x2 x3 x4 f h; cases h; rfl
theorem or : ∀ x0 x1 x2 x3 x4, Statement (.or x0 x1 x2 x3 x4) := by intro x0 x1 x2 x3 x4 f h; cases h; rfl
theorem xor : ∀ x0 x1 x2 x3 x4, Statement (.xor x0 x1 x2 x3 x4) := by intro x0 x1 x2 x3 x4 f h; cases h; rfl
theorem andn : ∀ x0 x1 x2 x3 x4, Statement (.andn x0 x1 x2 x3 x4) := by intro x0 x1 x2 x3 x4 f h; cases h; rfl
theorem not : ∀ x0 x1 x2 x3, Statement (.not x0 x1 x2 x3) := by intro x0 x1 x2 x3 f h; cases h; rfl
theorem shl : ∀ x0 x1 x2 x3 x4, Statement (.shl x0 x1 x2 x3 x4) := by intro x0 x1 x2 x3 x4 f h; cases h; rfl
theorem shr : ∀ x0 x1 x2 x3 x4, Statement (.shr x0 x1 x2 x3 x4) := by intro x0 x1 x2 x3 x4 f h; cases h; rfl
theorem sar : ∀ x0 x1 x2 x3 x4, Statement (.sar x0 x1 x2 x3 x4) := by intro x0 x1 x2 x3 x4 f h; cases h; rfl
theorem rol : ∀ x0 x1 x2 x3 x4, Statement (.rol x0 x1 x2 x3 x4) := by intro x0 x1 x2 x3 x4 f h; cases h; rfl
theorem clz : ∀ x0 x1 x2 x3, Statement (.clz x0 x1 x2 x3) := by intro x0 x1 x2 x3 f h; cases h; rfl
theorem popc : ∀ x0 x1 x2 x3, Statement (.popc x0 x1 x2 x3) := by intro x0 x1 x2 x3 f h; cases h; rfl
theorem brev : ∀ x0 x1 x2 x3, Statement (.brev x0 x1 x2 x3) := by intro x0 x1 x2 x3 f h; cases h; rfl
theorem bfx : ∀ x0 x1 x2 x3 x4, Statement (.bfx x0 x1 x2 x3 x4) := by intro x0 x1 x2 x3 x4 f h; cases h; rfl
theorem bfi : ∀ x0 x1 x2 x3 x4, Statement (.bfi x0 x1 x2 x3 x4) := by intro x0 x1 x2 x3 x4 f h; cases h; rfl
theorem iseq : ∀ x0 x1 x2 x3 x4, Statement (.iseq x0 x1 x2 x3 x4) := by intro x0 x1 x2 x3 x4 f h; cases h; rfl
theorem isne : ∀ x0 x1 x2 x3 x4, Statement (.isne x0 x1 x2 x3 x4) := by intro x0 x1 x2 x3 x4 f h; cases h; rfl
theorem islt : ∀ x0 x1 x2 x3 x4, Statement (.islt x0 x1 x2 x3 x4) := by intro x0 x1 x2 x3 x4 f h; cases h; rfl
theorem isle : ∀ x0 x1 x2 x3 x4, Statement (.isle x0 x1 x2 x3 x4) := by intro x0 x1 x2 x3 x4 f h; cases h; rfl
theorem isltu : ∀ x0 x1 x2 x3 x4, Statement (.isltu x0 x1 x2 x3 x4) := by intro x0 x1 x2 x3 x4 f h; cases h; rfl
theorem isleu : ∀ x0 x1 x2 x3 x4, Statement (.isleu x0 x1 x2 x3 x4) := by intro x0 x1 x2 x3 x4 f h; cases h; rfl
theorem fadd : ∀ x0 x1 x2 x3 x4, Statement (.fadd x0 x1 x2 x3 x4) := by intro x0 x1 x2 x3 x4 f h; cases h; rfl
theorem fsub : ∀ x0 x1 x2 x3 x4, Statement (.fsub x0 x1 x2 x3 x4) := by intro x0 x1 x2 x3 x4 f h; cases h; rfl
theorem fmul : ∀ x0 x1 x2 x3 x4, Statement (.fmul x0 x1 x2 x3 x4) := by intro x0 x1 x2 x3 x4 f h; cases h; rfl
theorem fma : ∀ x0 x1 x2 x3 x4, Statement (.fma x0 x1 x2 x3 x4) := by intro x0 x1 x2 x3 x4 f h; cases h; rfl
theorem fmin : ∀ x0 x1 x2 x3 x4, Statement (.fmin x0 x1 x2 x3 x4) := by intro x0 x1 x2 x3 x4 f h; cases h; rfl
theorem fmax : ∀ x0 x1 x2 x3 x4, Statement (.fmax x0 x1 x2 x3 x4) := by intro x0 x1 x2 x3 x4 f h; cases h; rfl
theorem fabs : ∀ x0 x1 x2 x3, Statement (.fabs x0 x1 x2 x3) := by intro x0 x1 x2 x3 f h; cases h; rfl
theorem fneg : ∀ x0 x1 x2 x3, Statement (.fneg x0 x1 x2 x3) := by intro x0 x1 x2 x3 f h; cases h; rfl
theorem fseq : ∀ x0 x1 x2 x3 x4, Statement (.fseq x0 x1 x2 x3 x4) := by intro x0 x1 x2 x3 x4 f h; cases h; rfl
theorem fslt : ∀ x0 x1 x2 x3 x4, Statement (.fslt x0 x1 x2 x3 x4) := by intro x0 x1 x2 x3 x4 f h; cases h; rfl
theorem fsle : ∀ x0 x1 x2 x3 x4, Statement (.fsle x0 x1 x2 x3 x4) := by intro x0 x1 x2 x3 x4 f h; cases h; rfl
theorem fsun : ∀ x0 x1 x2 x3 x4, Statement (.fsun x0 x1 x2 x3 x4) := by intro x0 x1 x2 x3 x4 f h; cases h; rfl
theorem fscale : ∀ x0 x1 x2 x3 x4, Statement (.fscale x0 x1 x2 x3 x4) := by intro x0 x1 x2 x3 x4 f h; cases h; rfl
theorem frnd : ∀ x0 x1 x2 x3 x4, Statement (.frnd x0 x1 x2 x3 x4) := by intro x0 x1 x2 x3 x4 f h; cases h; rfl
theorem rcpe : ∀ x0 x1 x2 x3, Statement (.rcpe x0 x1 x2 x3) := by intro x0 x1 x2 x3 f h; cases h; rfl
theorem rsqe : ∀ x0 x1 x2 x3, Statement (.rsqe x0 x1 x2 x3) := by intro x0 x1 x2 x3 f h; cases h; rfl
theorem exp2 : ∀ x0 x1 x2 x3, Statement (.exp2 x0 x1 x2 x3) := by intro x0 x1 x2 x3 f h; cases h; rfl
theorem log2 : ∀ x0 x1 x2 x3, Statement (.log2 x0 x1 x2 x3) := by intro x0 x1 x2 x3 f h; cases h; rfl
theorem tanh : ∀ x0 x1 x2 x3, Statement (.tanh x0 x1 x2 x3) := by intro x0 x1 x2 x3 f h; cases h; rfl
theorem sigm : ∀ x0 x1 x2 x3, Statement (.sigm x0 x1 x2 x3) := by intro x0 x1 x2 x3 f h; cases h; rfl
theorem cvtfi : ∀ x0 x1 x2 x3 x4, Statement (.cvtfi x0 x1 x2 x3 x4) := by intro x0 x1 x2 x3 x4 f h; cases h; rfl
theorem cvtif : ∀ x0 x1 x2 x3 x4, Statement (.cvtif x0 x1 x2 x3 x4) := by intro x0 x1 x2 x3 x4 f h; cases h; rfl
theorem cvtfb : ∀ x0 x1 x2 x3, Statement (.cvtfb x0 x1 x2 x3) := by intro x0 x1 x2 x3 f h; cases h; rfl
theorem cvtbf : ∀ x0 x1 x2 x3, Statement (.cvtbf x0 x1 x2 x3) := by intro x0 x1 x2 x3 f h; cases h; rfl
theorem cvtfh : ∀ x0 x1 x2 x3, Statement (.cvtfh x0 x1 x2 x3) := by intro x0 x1 x2 x3 f h; cases h; rfl
theorem cvthf : ∀ x0 x1 x2 x3, Statement (.cvthf x0 x1 x2 x3) := by intro x0 x1 x2 x3 f h; cases h; rfl
theorem qe4 : ∀ x0 x1 x2 x3 x4, Statement (.qe4 x0 x1 x2 x3 x4) := by intro x0 x1 x2 x3 x4 f h; cases h; rfl
theorem qe5 : ∀ x0 x1 x2 x3 x4, Statement (.qe5 x0 x1 x2 x3 x4) := by intro x0 x1 x2 x3 x4 f h; cases h; rfl
theorem qe2 : ∀ x0 x1 x2 x3 x4, Statement (.qe2 x0 x1 x2 x3 x4) := by intro x0 x1 x2 x3 x4 f h; cases h; rfl
theorem qai8 : ∀ x0 x1 x2 x3 x4, Statement (.qai8 x0 x1 x2 x3 x4) := by intro x0 x1 x2 x3 x4 f h; cases h; rfl
theorem qai4 : ∀ x0 x1 x2 x3 x4, Statement (.qai4 x0 x1 x2 x3 x4) := by intro x0 x1 x2 x3 x4 f h; cases h; rfl
theorem dqf : ∀ x0 x1 x2 x3, Statement (.dqf x0 x1 x2 x3) := by intro x0 x1 x2 x3 f h; cases h; rfl
theorem scaleof : ∀ x0 x1 x2 x3 x4, Statement (.scaleof x0 x1 x2 x3 x4) := by intro x0 x1 x2 x3 x4 f h; cases h; rfl
theorem retag : ∀ x0 x1 x2 x3 x4, Statement (.retag x0 x1 x2 x3 x4) := by intro x0 x1 x2 x3 x4 f h; cases h; rfl
theorem vbcast : ∀ x0 x1 x2 x3 x4, Statement (.vbcast x0 x1 x2 x3 x4) := by intro x0 x1 x2 x3 x4 f h; cases h; rfl
theorem vlane : ∀ x0 x1 x2 x3 x4, Statement (.vlane x0 x1 x2 x3 x4) := by intro x0 x1 x2 x3 x4 f h; cases h; rfl
theorem vins : ∀ x0 x1 x2 x3 x4, Statement (.vins x0 x1 x2 x3 x4) := by intro x0 x1 x2 x3 x4 f h; cases h; rfl
theorem vmerge : ∀ x0 x1 x2 x3 x4, Statement (.vmerge x0 x1 x2 x3 x4) := by intro x0 x1 x2 x3 x4 f h; cases h; rfl
theorem vsplit : ∀ x0 x1 x2 x3 x4, Statement (.vsplit x0 x1 x2 x3 x4) := by intro x0 x1 x2 x3 x4 f h; cases h; rfl
theorem vmask : ∀ x0 x1 x2 x3 x4, Statement (.vmask x0 x1 x2 x3 x4) := by intro x0 x1 x2 x3 x4 f h; cases h; rfl
theorem vsum : ∀ x0 x1 x2 x3, Statement (.vsum x0 x1 x2 x3) := by intro x0 x1 x2 x3 f h; cases h; rfl
theorem vmax : ∀ x0 x1 x2 x3, Statement (.vmax x0 x1 x2 x3) := by intro x0 x1 x2 x3 f h; cases h; rfl
theorem vmin : ∀ x0 x1 x2 x3, Statement (.vmin x0 x1 x2 x3) := by intro x0 x1 x2 x3 f h; cases h; rfl
theorem vdot : ∀ x0 x1 x2 x3 x4, Statement (.vdot x0 x1 x2 x3 x4) := by intro x0 x1 x2 x3 x4 f h; cases h; rfl
theorem vlen : ∀ x0 x1 x2 x3, Statement (.vlen x0 x1 x2 x3) := by intro x0 x1 x2 x3 f h; cases h; rfl
theorem vnz : ∀ x0 x1 x2 x3 x4, Statement (.vnz x0 x1 x2 x3 x4) := by intro x0 x1 x2 x3 x4 f h; cases h; rfl
theorem viota : ∀ x0 x1 x2 x3 x4, Statement (.viota x0 x1 x2 x3 x4) := by intro x0 x1 x2 x3 x4 f h; cases h; rfl
theorem pass : ∀ x0 x1 x2 x3, Statement (.pass x0 x1 x2 x3) := by intro x0 x1 x2 x3 f h; cases h; rfl
theorem steer : ∀ x0 x1 x2 x3 x4, Statement (.steer x0 x1 x2 x3 x4) := by intro x0 x1 x2 x3 x4 f h; cases h; rfl
theorem sel : ∀ x0 x1 x2 x3 x4, Statement (.sel x0 x1 x2 x3 x4) := by intro x0 x1 x2 x3 x4 f h; cases h; rfl
theorem gate : ∀ x0 x1 x2 x3 x4, Statement (.gate x0 x1 x2 x3 x4) := by intro x0 x1 x2 x3 x4 f h; cases h; rfl
theorem merge : ∀ x0 x1 x2, Statement (.merge x0 x1 x2) := by intro x0 x1 x2 f h; cases h; rfl
theorem radd : ∀ x0 x1 x2 x3, Statement (.radd x0 x1 x2 x3) := by intro x0 x1 x2 x3 f h; cases h; rfl
theorem rmax : ∀ x0 x1 x2 x3, Statement (.rmax x0 x1 x2 x3) := by intro x0 x1 x2 x3 f h; cases h; rfl
theorem count : ∀ x0 x1 x2 x3, Statement (.count x0 x1 x2 x3) := by intro x0 x1 x2 x3 f h; cases h; rfl
theorem eosq : ∀ x0 x1 x2 x3, Statement (.eosq x0 x1 x2 x3) := by intro x0 x1 x2 x3 f h; cases h; rfl
theorem eosg : ∀ x0 x1 x2 x3, Statement (.eosg x0 x1 x2 x3) := by intro x0 x1 x2 x3 f h; cases h; rfl
theorem tagof : ∀ x0 x1 x2 x3, Statement (.tagof x0 x1 x2 x3) := by intro x0 x1 x2 x3 f h; cases h; rfl
theorem free : ∀ x0 x1 x2 x3, Statement (.free x0 x1 x2 x3) := by intro x0 x1 x2 x3 f h; cases h; rfl
theorem sink : ∀ x0 x1, Statement (.sink x0 x1) := by intro x0 x1 f h; cases h; rfl
theorem const : ∀ x0 x1 x2 x3 x4, Statement (.const x0 x1 x2 x3 x4) := by intro x0 x1 x2 x3 x4 f h; cases h; rfl
theorem ldl : ∀ x0 x1 x2 x3 x4, Statement (.ldl x0 x1 x2 x3 x4) := by intro x0 x1 x2 x3 x4 f h; cases h; rfl
theorem stl : ∀ x0 x1 x2 x3, Statement (.stl x0 x1 x2 x3) := by intro x0 x1 x2 x3 f h; cases h; rfl
theorem ldc : ∀ x0 x1 x2 x3 x4, Statement (.ldc x0 x1 x2 x3 x4) := by intro x0 x1 x2 x3 x4 f h; cases h; rfl
theorem stc : ∀ x0 x1 x2 x3, Statement (.stc x0 x1 x2 x3) := by intro x0 x1 x2 x3 f h; cases h; rfl
theorem ldg : ∀ x0 x1 x2 x3 x4, Statement (.ldg x0 x1 x2 x3 x4) := by intro x0 x1 x2 x3 x4 f h; cases h; rfl
theorem stg : ∀ x0 x1 x2 x3 x4, Statement (.stg x0 x1 x2 x3 x4) := by intro x0 x1 x2 x3 x4 f h; cases h; rfl
theorem atadd : ∀ x0 x1 x2 x3 x4, Statement (.atadd x0 x1 x2 x3 x4) := by intro x0 x1 x2 x3 x4 f h; cases h; rfl
theorem atmin : ∀ x0 x1 x2 x3 x4, Statement (.atmin x0 x1 x2 x3 x4) := by intro x0 x1 x2 x3 x4 f h; cases h; rfl
theorem atmax : ∀ x0 x1 x2 x3 x4, Statement (.atmax x0 x1 x2 x3 x4) := by intro x0 x1 x2 x3 x4 f h; cases h; rfl
theorem atand : ∀ x0 x1 x2 x3 x4, Statement (.atand x0 x1 x2 x3 x4) := by intro x0 x1 x2 x3 x4 f h; cases h; rfl
theorem ator : ∀ x0 x1 x2 x3 x4, Statement (.ator x0 x1 x2 x3 x4) := by intro x0 x1 x2 x3 x4 f h; cases h; rfl
theorem atxor : ∀ x0 x1 x2 x3 x4, Statement (.atxor x0 x1 x2 x3 x4) := by intro x0 x1 x2 x3 x4 f h; cases h; rfl
theorem atxch : ∀ x0 x1 x2 x3 x4, Statement (.atxch x0 x1 x2 x3 x4) := by intro x0 x1 x2 x3 x4 f h; cases h; rfl
theorem atcas : ∀ x0 x1 x2 x3 x4, Statement (.atcas x0 x1 x2 x3 x4) := by intro x0 x1 x2 x3 x4 f h; cases h; rfl
theorem ticket : ∀ x0 x1 x2 x3 x4, Statement (.ticket x0 x1 x2 x3 x4) := by intro x0 x1 x2 x3 x4 f h; cases h; rfl
theorem append : ∀ x0 x1 x2 x3 x4, Statement (.append x0 x1 x2 x3 x4) := by intro x0 x1 x2 x3 x4 f h; cases h; rfl
theorem prefg : ∀ x0 x1 x2 x3 x4, Statement (.prefg x0 x1 x2 x3 x4) := by intro x0 x1 x2 x3 x4 f h; cases h; rfl
theorem join : ∀ x0 x1 x2 x3, Statement (.join x0 x1 x2 x3) := by intro x0 x1 x2 x3 f h; cases h; rfl
theorem leave : ∀ x0 x1 x2 x3, Statement (.leave x0 x1 x2 x3) := by intro x0 x1 x2 x3 f h; cases h; rfl
theorem arrive : ∀ x0 x1 x2 x3, Statement (.arrive x0 x1 x2 x3) := by intro x0 x1 x2 x3 f h; cases h; rfl
theorem fence : ∀ x0 x1 x2 x3 x4, Statement (.fence x0 x1 x2 x3 x4) := by
  intro x0 x1 x2 x3 x4 f h; cases h
  show some (Instr.fence x0 ((x1.setWidth 4).setWidth 2) x2 x3 x4) = _
  rw [twoBits]
theorem acq : ∀ x0 x1 x2 x3 x4, Statement (.acq x0 x1 x2 x3 x4) := by
  intro x0 x1 x2 x3 x4 f h; cases h
  show some (Instr.acq x0 ((x1.setWidth 4).setWidth 2) x2 x3 x4) = _
  rw [twoBits]
theorem rel : ∀ x0 x1 x2 x3 x4, Statement (.rel x0 x1 x2 x3 x4) := by
  intro x0 x1 x2 x3 x4 f h; cases h
  show some (Instr.rel x0 ((x1.setWidth 4).setWidth 2) x2 x3 x4) = _
  rw [twoBits]
theorem trap : ∀ x0 x1, Statement (.trap x0 x1) := by intro x0 x1 f h; cases h; rfl
theorem evt : ∀ x0 x1 x2 x3 x4, Statement (.evt x0 x1 x2 x3 x4) := by intro x0 x1 x2 x3 x4 f h; cases h; rfl
theorem time : ∀ x0 x1 x2 x3, Statement (.time x0 x1 x2 x3) := by intro x0 x1 x2 x3 f h; cases h; rfl
theorem mbxs : ∀ x0 x1 x2 x3, Statement (.mbxs x0 x1 x2 x3) := by intro x0 x1 x2 x3 f h; cases h; rfl
theorem qput : ∀ x0 x1 x2 x3 x4, Statement (.qput x0 x1 x2 x3 x4) := by intro x0 x1 x2 x3 x4 f h; cases h; rfl
theorem yield : ∀ x0 x1 x2 x3, Statement (.yield x0 x1 x2 x3) := by intro x0 x1 x2 x3 f h; cases h; rfl
theorem cparm : ∀ x0 x1 x2 x3 x4, Statement (.cparm x0 x1 x2 x3 x4) := by intro x0 x1 x2 x3 x4 f h; cases h; rfl
theorem cpdis : ∀ x0 x1 x2 x3 x4, Statement (.cpdis x0 x1 x2 x3 x4) := by intro x0 x1 x2 x3 x4 f h; cases h; rfl
theorem cpgo : ∀ x0 x1 x2 x3 x4, Statement (.cpgo x0 x1 x2 x3 x4) := by intro x0 x1 x2 x3 x4 f h; cases h; rfl
theorem gather : ∀ x0 x1 x2 x3 x4, Statement (.gather x0 x1 x2 x3 x4) := by intro x0 x1 x2 x3 x4 f h; cases h; rfl
theorem scatter : ∀ x0 x1 x2 x3 x4, Statement (.scatter x0 x1 x2 x3 x4) := by intro x0 x1 x2 x3 x4 f h; cases h; rfl
theorem scatadd : ∀ x0 x1 x2 x3 x4, Statement (.scatadd x0 x1 x2 x3 x4) := by intro x0 x1 x2 x3 x4 f h; cases h; rfl
theorem tileld : ∀ x0 x1 x2 x3 x4, Statement (.tileld x0 x1 x2 x3 x4) := by intro x0 x1 x2 x3 x4 f h; cases h; rfl
theorem tilest : ∀ x0 x1 x2 x3 x4, Statement (.tilest x0 x1 x2 x3 x4) := by intro x0 x1 x2 x3 x4 f h; cases h; rfl
theorem oobrd : ∀ x0 x1 x2 x3 x4, Statement (.oobrd x0 x1 x2 x3 x4) := by intro x0 x1 x2 x3 x4 f h; cases h; rfl
theorem mxlw : ∀ x0 x1 x2 x3 x4, Statement (.mxlw x0 x1 x2 x3 x4) := by intro x0 x1 x2 x3 x4 f h; cases h; rfl
theorem mxswap : ∀ x0 x1 x2 x3 x4, Statement (.mxswap x0 x1 x2 x3 x4) := by intro x0 x1 x2 x3 x4 f h; cases h; rfl
theorem mxstr : ∀ x0 x1 x2 x3 x4, Statement (.mxstr x0 x1 x2 x3 x4) := by intro x0 x1 x2 x3 x4 f h; cases h; rfl
theorem mxzero : ∀ x0 x1 x2 x3 x4, Statement (.mxzero x0 x1 x2 x3 x4) := by intro x0 x1 x2 x3 x4 f h; cases h; rfl
theorem mxdrp : ∀ x0 x1 x2 x3 x4, Statement (.mxdrp x0 x1 x2 x3 x4) := by intro x0 x1 x2 x3 x4 f h; cases h; rfl
theorem mxdrs : ∀ x0 x1 x2 x3 x4, Statement (.mxdrs x0 x1 x2 x3 x4) := by intro x0 x1 x2 x3 x4 f h; cases h; rfl
theorem mxdrm : ∀ x0 x1 x2 x3 x4, Statement (.mxdrm x0 x1 x2 x3 x4) := by intro x0 x1 x2 x3 x4 f h; cases h; rfl
theorem mxqp : ∀ x0 x1 x2 x3 x4, Statement (.mxqp x0 x1 x2 x3 x4) := by intro x0 x1 x2 x3 x4 f h; cases h; rfl
theorem tdcfg : ∀ x0 x1 x2 x3 x4, Statement (.tdcfg x0 x1 x2 x3 x4) := by intro x0 x1 x2 x3 x4 f h; cases h; rfl
theorem tdsc : ∀ x0 x1 x2 x3 x4, Statement (.tdsc x0 x1 x2 x3 x4) := by intro x0 x1 x2 x3 x4 f h; cases h; rfl
theorem tdgrp : ∀ x0 x1 x2 x3 x4, Statement (.tdgrp x0 x1 x2 x3 x4) := by intro x0 x1 x2 x3 x4 f h; cases h; rfl
theorem tdptr : ∀ x0 x1 x2 x3 x4, Statement (.tdptr x0 x1 x2 x3 x4) := by intro x0 x1 x2 x3 x4 f h; cases h; rfl
theorem tdnode : ∀ x0 x1 x2 x3 x4, Statement (.tdnode x0 x1 x2 x3 x4) := by intro x0 x1 x2 x3 x4 f h; cases h; rfl
theorem brcfg : ∀ x0 x1 x2 x3 x4, Statement (.brcfg x0 x1 x2 x3 x4) := by intro x0 x1 x2 x3 x4 f h; cases h; rfl
theorem brin : ∀ x0 x1 x2 x3 x4, Statement (.brin x0 x1 x2 x3 x4) := by intro x0 x1 x2 x3 x4 f h; cases h; rfl
theorem brret : ∀ x0 x1 x2 x3 x4, Statement (.brret x0 x1 x2 x3 x4) := by intro x0 x1 x2 x3 x4 f h; cases h; rfl
theorem brstat : ∀ x0 x1 x2 x3 x4, Statement (.brstat x0 x1 x2 x3 x4) := by intro x0 x1 x2 x3 x4 f h; cases h; rfl
theorem brpin : ∀ x0 x1 x2 x3 x4, Statement (.brpin x0 x1 x2 x3 x4) := by intro x0 x1 x2 x3 x4 f h; cases h; rfl
theorem shidx : ∀ x0 x1 x2 x3 x4, Statement (.shidx x0 x1 x2 x3 x4) := by intro x0 x1 x2 x3 x4 f h; cases h; rfl
theorem packr : ∀ x0 x1 x2 x3 x4, Statement (.packr x0 x1 x2 x3 x4) := by intro x0 x1 x2 x3 x4 f h; cases h; rfl
theorem segid : ∀ x0 x1 x2 x3 x4, Statement (.segid x0 x1 x2 x3 x4) := by intro x0 x1 x2 x3 x4 f h; cases h; rfl
theorem perstAssert : Statement .perstAssert := by intro f h; cases h
theorem powerLoss : Statement .powerLoss := by intro f h; cases h
theorem memoryResponse : ∀ x0, Statement (.memoryResponse x0) := by intro x0 f h; cases h
theorem priPageResponse : ∀ x0 x1 x2, Statement (.priPageResponse x0 x1 x2) := by intro x0 x1 x2 f h; cases h
theorem atsTranslationResponse : ∀ x0 x1 x2, Statement (.atsTranslationResponse x0 x1 x2) := by intro x0 x1 x2 f h; cases h
theorem orderlyPowerDownMessage : Statement .orderlyPowerDownMessage := by intro f h; cases h

end Sys2Proof.Laws.FieldsRoundTrip
end

