-- ==== Sys2Proof/Laws/Special.lean ====
section
/-! SUPPORT. The free results of the special functions keep their range and do not decrease with the input (R366). -/

namespace Sys2Proof.Machine

/-- A part of a range lies in it. -/
theorem range_part (v lo hi : Nat) (h : lo ≤ hi) : lo + v % (hi - lo + 1) ≤ hi := by
  have := Nat.mod_lt v (Nat.succ_pos (hi - lo)); simp only [Nat.succ_eq_add_one] at this; omega

/-- A free result lies in its range. -/
theorem freeRising_bounds (fn key k lo hi : Nat) (h : lo ≤ hi) :
    lo ≤ freeRising fn key k lo hi ∧ freeRising fn key k lo hi ≤ hi := by
  induction k generalizing lo hi with
  | zero => exact ⟨Nat.le_add_right lo _, range_part _ lo hi h⟩
  | succ k ih =>
    have hm := range_part (Config.specialBits (4 * k + fn) (BitVec.ofNat 32 (key / 2 ^ (k + 1)))).toNat lo hi h
    simp only [freeRising]
    split
    · exact ⟨Nat.le_trans (Nat.le_add_right lo _) (ih _ hi hm).1, (ih _ hi hm).2⟩
    · exact ⟨(ih lo _ (Nat.le_add_right lo _)).1, Nat.le_trans (ih lo _ (Nat.le_add_right lo _)).2 hm⟩

/-- The free results of a function do not decrease as the input's place rises. -/
theorem freeRising_rising (fn key key' k lo hi : Nat) (h : lo ≤ hi) (same : key / 2 ^ k = key' / 2 ^ k) (le : key ≤ key') :
    freeRising fn key k lo hi ≤ freeRising fn key' k lo hi := by
  induction k generalizing lo hi with
  | zero => simp only [Nat.pow_zero, Nat.div_one] at same; simp [same]
  | succ k ih =>
    have hd := range_part (Config.specialBits (4 * k + fn) (BitVec.ofNat 32 (key / 2 ^ (k + 1)))).toNat lo hi h
    have up : key / 2 ^ k / 2 = key' / 2 ^ k / 2 := by simpa [Nat.div_div_eq_div_mul, ← Nat.pow_succ] using same
    have low : key / 2 ^ k ≤ key' / 2 ^ k := Nat.div_le_div_right le
    simp only [freeRising, ← same]
    generalize (Config.specialBits (4 * k + fn) (BitVec.ofNat 32 (key / 2 ^ (k + 1)))).toNat % (hi - lo + 1) = d at hd ⊢
    by_cases b : bit key k <;> by_cases b' : bit key' k <;> simp only [b, b', if_true, if_false, Bool.false_eq_true]
    · exact ih _ _ hd (by simp only [bit, beq_iff_eq] at b b'; omega)
    · simp only [bit, beq_iff_eq] at b b'; omega
    · exact Nat.le_trans (freeRising_bounds fn key k lo _ (Nat.le_add_right lo d)).2 (freeRising_bounds fn key' k _ hi hd).1
    · exact ih _ _ (Nat.le_add_right lo d) (by simp only [bit, beq_iff_eq] at b b'; omega)

end Sys2Proof.Machine
end

