-- ==== Sys2Proof/Tests/Slice0.lean ====
section
/-! SUPPORT. Tests: ill-formed instructions are refused, words written out from R325 decode, worked examples of the manual
come out, and the hypotheses of the statements can be met. -/

set_option maxRecDepth 10000

open Sys2Proof Sys2Proof.Machine

namespace Sys2Proof.Tests

/-! ### Well-formedness: one ill-formed term for each check -/

theorem test_illformed_selects :
    (Instr.iadd 7 0 0 0 0).wellFormed = false ∧ (Instr.iadd 0 7 0 0 0).wellFormed = false ∧
    (Instr.imad 2 0 0 0 0).wellFormed = false ∧ (Instr.imad 0 2 0 0 0).wellFormed = false ∧
    (Instr.dqf 3 0 0 0).wellFormed = false ∧ (Instr.const 2 0 0 0 0).wellFormed = false ∧
    (Instr.const 7 0 0 0 0).wellFormed = false ∧ (Instr.radd 0 0 0 0).wellFormed = false ∧
    (Instr.radd 2 0 0 0).wellFormed = false := by decide

theorem test_illformed_actions :
    (Instr.iabs 0 0 0 9).wellFormed = false ∧ (Instr.iabs 0 0 0 11).wellFormed = false ∧
    (Instr.iadd 0 1 0 0 11).wellFormed = false := by decide

theorem test_illformed_agents :
    (Instr.mbxheadWrite 0 0).wellFormed = false ∧ (Instr.mbxheadWrite 25 0).wellFormed = false ∧
    (Instr.cplheadWrite 1 4 0).wellFormed = false ∧ (Instr.doorbellWrite 1 0 64 0).wellFormed = false ∧
    (Instr.drctlEnableClear 1 64).wellFormed = false ∧ (Instr.evictDone 1 256).wellFormed = false ∧
    (Instr.queueRefill 24).wellFormed = false ∧ (Instr.regionGrant 0 25 0).wellFormed = false ∧
    (Instr.framePartReload 3072 1).wellFormed = false ∧ (Instr.copyTrigger 6 0).wellFormed = false ∧
    (Instr.copyTrigger 0 64).wellFormed = false := by decide

theorem test_illformed_modifiers :
    (Instr.frnd 0 4 0 0 0).wellFormed = false ∧ (Instr.cvtfi 0 8 0 0 0).wellFormed = false ∧
    (Instr.cvtif 0 1 0 0 0).wellFormed = false ∧ (Instr.scaleof 0 3 0 0 0).wellFormed = false ∧
    (Instr.retag 0 8 0 0 0).wellFormed = false ∧ (Instr.vbcast 0 8 0 0 0).wellFormed = false ∧
    (Instr.vlane 0 8 0 0 0).wellFormed = false ∧ (Instr.vsplit 0 0 0 0 0).wellFormed = false ∧
    (Instr.vnz 0 2 0 0 0).wellFormed = false ∧ (Instr.viota 0 8 0 0 0).wellFormed = false ∧
    (Instr.steer 0 2 0 0 0).wellFormed = false ∧ (Instr.gate 0 2 0 0 0).wellFormed = false ∧
    (Instr.count 2 0 0 0).wellFormed = false := by decide

/-! ### Decoding: fields OP [31:24], ASEL [23:20], BSEL [19:16], D0 [15:10], D1 [9:4], TACT [3:0] of R325 -/

theorem test_decode_integer : decode 0x24810400 = .ok (.islt 8 1 1 0 0) ∧ decode 0x19080400 = .ok (.shl 0 8 1 0 0) ∧
    decode 0x1D000400 = .ok (.clz 0 1 0 0) := ⟨rfl, rfl, rfl⟩

theorem test_decode_float : decode 0x32010407 = .ok (.fmul 0 1 1 0 7) ∧ decode 0x50050400 = .ok (.cvtfi 0 5 1 0 0) :=
  ⟨rfl, rfl⟩

theorem test_decode_packets : decode 0x64030820 = .ok (.vsplit 0 3 2 2 0) ∧ decode 0x71010820 = .ok (.steer 0 1 2 2 0) ∧
    decode 0x7D8B0400 = .ok (.const 8 11 1 0 0) := ⟨rfl, rfl, rfl⟩

theorem test_decode_memory : decode 0x84080420 = .ok (.ldg 0 8 1 2 0) ∧ decode 0xA5020400 = .ok (.rel 0 2 1 0 0) ∧
    decode 0xA0000401 = .ok (.join 0 1 0 1) := ⟨rfl, rfl, rfl⟩

theorem test_decode_engines : decode 0xB2380010 = .ok (.cpgo 3 8 0 1 0) ∧ decode 0xC0080010 = .ok (.mxlw 0 8 0 1 0) ∧
    decode 0xD4080010 = .ok (.tdnode 0 8 0 1 0) ∧ decode 0xD9080010 = .ok (.brin 0 8 0 1 0) ∧
    decode 0xE0080400 = .ok (.shidx 0 8 1 0 0) := ⟨rfl, rfl, rfl, rfl, rfl⟩

theorem test_decode_refuses : decode 0x00010000 = .error .reservedOp ∧ decode 0x01710400 = .error .select :=
  ⟨rfl, rfl⟩

theorem test_decodeTableWord : decodeTableWord 32 0x03010400 = some (.iadds 0 1 1 0 0) ∧
    decodeTableWord 32 0x7C000400 = none := ⟨rfl, rfl⟩

/-! ### A slot that is ready -/

/-- A one-lane I32 token of tag 1 and partition 1. -/
def tok (w : Word) : Token := { lanes := [w], mask := 1, tag := 1, ctx := 1 }

/-- Slot 0 of element 0 holds `w`, its fields L, R and P hold the tokens given, its route 1 goes to slot 0 field L of element
0, its routes 2 and 48 to engine port 0 and its route 3 to set unit 0 of region 0; the slot is in hand. -/
def readyIn (s : State) (w : Word) (a b p : Option Token) : State :=
  let field (k : Nat) (t : Option Token) : Sparse (Option FieldVal) := match t with | some t => [(k, some (.tok t))] | none => []
  let s := modElem (placeWord s w) 0 fun e => { e with
    routes := [(1, 0x80000000#32), (2, 0x90000000#32), (3, 0xC0000000#32), (48, 0x90000000#32)]
    parts := [{ cfg := 257, tag := 1, fields := field 0 a ++ field 1 b ++ field 2 p }] }
  { s with focus := some firstSite, agenda := [] }

def readyWith := readyIn State.reset

def ready (w a b p : Word) : State := readyWith w (some (tok a)) (some (tok b)) (some (tok p))

/-- The slot in hand goes, its result tag is at hand, and `q` holds of its firing and the states of both. -/
def CanGo (s : State) (fm : Form) (c : Bool) (q : Firing → State → State → Bool) : Prop :=
  ∃ f s1 tag s2, Goes s fm c f s1 ∧ resultTag s1 f = some (tag, s2) ∧ q f s1 s2 = true

def canGo (s : State) (c : Bool) (q : Firing → State → State → Bool) (fm : Form) : Bool :=
  match slotInHand s, opInfo fm.op with
  | some h, some i =>
    match gather s h fm (readFields i fm) c with
    | .go f s1 => roomFor s h.el h.v fm && !dividerBusy fm s h && unheld s (cfgPart h.cfg) && ((resultTag s1 f).any fun x => q f s1 x.2)
    | _ => false
  | _, _ => false

theorem canGo_iff {s : State} {fm : Form} {c : Bool} {q : Firing → State → State → Bool} (h : canGo s c q fm = true) :
    CanGo s fm c q := by
  unfold canGo at h
  split at h
  · rename_i hd i hs hi
    split at h
    · rename_i f s1 hg
      simp only [Bool.and_eq_true, Bool.not_eq_true', Option.any_eq_true] at h
      obtain ⟨⟨⟨h1, h3⟩, h2⟩, ⟨tag, s2⟩, ht, hq⟩ := h
      exact ⟨f, s1, tag, s2, ⟨hd, i, hs, hi, h1, h3, h2, hg⟩, ht, hq⟩
    · cases h
  · cases h

/-- The forms with operands L and B = `b` that go, one for each opcode of a list. -/
theorem canGo_all {s : State} {c : Bool} {q : Firing → State → State → Bool} {b : BitVec 4} {l : List Nat}
    (h : l.all (fun op => canGo s c q (form op 0 b 1 0 0)) = true) : ∀ op ∈ l, CanGo s (form op 0 b 1 0 0) c q :=
  fun op ho => canGo_iff (List.all_eq_true.1 h op ho)

/-- The token a firing of the slot in hand sends. -/
def answerOf (i : Instr) (s : State) : Option Token :=
  match exec i s with
  | .next t => t.net.getLast?.map (·.tok)
  | _ => none

/-! ### Worked values of the integer, float and packet chapters -/

theorem test_iadds : (answerOf (.iadds 0 1 1 0 0) (ready 0 0x7FFFFFFF 1 0)).map (·.lanes) = some [0x7FFFFFFF] := by decide

theorem test_idiv_by_zero : (answerOf (.idiv 0 1 1 0 0) (ready 0 5 0 0)).map (·.lanes) = some [0xFFFFFFFF] := by decide

theorem test_irem_overflow : (answerOf (.irem 0 1 1 0 0) (ready 0 0x80000000 0xFFFFFFFF 0)).map (·.lanes) = some [0] := by
  decide

theorem test_sar : (answerOf (.sar 0 1 1 0 0) (ready 0 0x80000000 33 0)).map (·.lanes) = some [0xC0000000] := by decide

theorem test_islt_pred : (answerOf (.islt 0 1 1 0 0) (ready 0 0xFFFFFFFF 0 0)).map (fun t => (t.lanes, t.pred)) =
    some ([1], true) := by decide

theorem test_fadd : (answerOf (.fadd 0 1 1 0 0) (readyWith 0 (some { tok 0x3F800000 with fmt := .f32 })
    (some { tok 0x40000000 with fmt := .f32 }) none)).map (fun t => (t.lanes, t.fmt)) = some ([0x40400000], .f32) := by decide

theorem test_steer_false : (answerOf (.steer 0 0 0 1 0) (ready 0 5 0 0)).map (·.lanes) = some [5] := by decide

/-- R95's table for n = 10 with round keys 0, 1, 2, 3. -/
theorem test_shidx : (List.range 10).map (shidx 10 [0, 1, 2, 3]) = [6, 0, 8, 2, 9, 5, 1, 3, 7, 4] := by decide

/-! ### Firings that meet the hypotheses of the opcodes' statements -/

/-- I32 tokens in every field. -/
def ints : State := ready 0 5 6 7

/-- F32 tokens in every field. -/
def floats : State :=
  let t (w : Word) : Option Token := some { tok w with fmt := .f32 }
  readyWith 0 (t 0x3F800000) (t 0x40000000) (t 0x40400000)

def anyFiring : Firing → State → State → Bool := fun _ _ _ => true

theorem witness_IntegerResults :
    (∀ op ∈ [0x01, 0x02, 0x03, 0x04, 0x05, 0x06, 0x07, 0x08, 0x09, 0x0E, 0x0F, 0x10, 0x11, 0x14, 0x15, 0x16, 0x17, 0x22,
      0x23, 0x24, 0x25, 0x26, 0x27], CanGo ints (form op 0 1 1 0 0) true anyFiring) ∧
    ∀ op ∈ [0x12, 0x13, 0x18, 0x1D, 0x1E, 0x1F], CanGo ints (form op 0 0 1 0 0) true anyFiring :=
  ⟨canGo_all (by decide), canGo_all (by decide)⟩

theorem witness_DivisionResults : ∀ op ∈ [0x0A, 0x0B, 0x0C, 0x0D], CanGo ints (form op 0 1 1 0 0) true anyFiring :=
  canGo_all (by decide)

theorem witness_ShiftResults : ∀ op ∈ [0x19, 0x1A, 0x1B, 0x1C], CanGo ints (form op 0 1 1 0 0) true anyFiring :=
  canGo_all (by decide)

theorem witness_BitFieldResults : ∀ op ∈ [0x20, 0x21], CanGo ints (form op 0 1 1 0 0) true anyFiring :=
  canGo_all (by decide)

theorem witness_FloatArithmetic :
    (∀ op ∈ [0x30, 0x31, 0x32, 0x33, 0x3C], CanGo floats (form op 0 1 1 0 0) true anyFiring) ∧
    CanGo floats (form 0x3D 0 3 1 0 0) true anyFiring := ⟨canGo_all (by decide), canGo_iff (by decide)⟩

theorem witness_FloatSelection :
    (∀ op ∈ [0x34, 0x35, 0x38, 0x39, 0x3A, 0x3B], CanGo floats (form op 0 1 1 0 0) true anyFiring) ∧
    ∀ op ∈ [0x36, 0x37], CanGo floats (form op 0 0 1 0 0) true anyFiring := ⟨canGo_all (by decide), canGo_all (by decide)⟩

/-- The words at the ends of the ranges of R367: the first NaN, the last negative subnormal's successor and negative
infinity, 10 and 18 as F32, and infinity; and the ends of −126 to 127. -/
theorem witness_SpecialFunctions :
    (∀ op ∈ [0x3E, 0x3F, 0x40, 0x41, 0x42, 0x43], CanGo floats (form op 0 0 1 0 0) true anyFiring) ∧
    (0x7F800000 < 0x7F800001 % 2 ^ 31 ∧ 0x7F800001 < 2 ^ 32) ∧
    (2 ^ 31 + 2 ^ 23 ≤ 0x80800000 ∧ 0x80800000 ≤ 2 ^ 31 + 0x7F800000) ∧ 0x7F7FFFFF < 0x7F800000 ∧
    (0x41200000 ≤ 0x41200000 ∧ 0x41200000 ≤ 0x7F800000) ∧ (0x41900000 ≤ 0x41900000 ∧ 0x41900000 ≤ 0x7F800000) ∧
    ((-126 : Int) ≤ -126 ∧ (-126 : Int) ≤ 127 ∧ (-126 : Int) ≤ 127) :=
  ⟨canGo_all (by decide), by decide⟩

theorem witness_ConversionResults :
    (∀ op ∈ [0x50, 0x51, 0x52, 0x53, 0x54, 0x55, 0x5B, 0x5C], CanGo ints (form op 0 0 1 0 0) false anyFiring) ∧
    CanGo ints (form 0x5D 0 7 1 0 0) false anyFiring ∧ (7 : BitVec 4).toNat < 8 :=
  ⟨canGo_all (by decide), canGo_iff (by decide), by decide⟩

/-- Scale 1 and the largest zero points; the element 1. -/
theorem witness_QuantisationResults :
    (∀ op ∈ [0x56, 0x57, 0x58, 0x59, 0x5A], CanGo floats (form op 0 1 1 0 0) false anyFiring) ∧
    valueOf fp16 0x3C00 = .fin false 1024 (-10) ∧ f32 0x3F800000 = .fin false 8388608 (-23) ∧ 255 ≤ 255 ∧ 15 ≤ 15 ∧
    2 < 3 := ⟨canGo_all (by decide), by decide, by decide, by decide⟩

theorem witness_LaneMoveResults :
    (∀ op ∈ [0x62, 0x63, 0x65], CanGo ints (form op 0 1 1 0 0) false anyFiring) ∧
    (∀ m ∈ [0, 7], ∀ op ∈ [0x60, 0x61, 0x6C], CanGo ints (form op 0 m 1 0 0) false anyFiring) ∧
    ∀ m ∈ [1, 7], CanGo ints (form 0x64 0 m 1 0 0) false anyFiring ∧ 1 ≤ m.toNat := by
  refine ⟨canGo_all (by decide), ?_, ?_⟩
  · intro m hm
    simp only [List.mem_cons, List.not_mem_nil, or_false] at hm
    rcases hm with rfl | rfl <;> exact canGo_all (by decide)
  · intro m hm
    simp only [List.mem_cons, List.not_mem_nil, or_false] at hm
    rcases hm with rfl | rfl <;> exact ⟨canGo_iff (by decide), by decide⟩

/-- Firings with a live lane: on integers, and on floats. -/
def liveFiring (int : Bool) : Firing → State → State → Bool := fun f _ _ =>
  (match f.a with | .tok _ => true | .word _ => false) && decide (fmtOfAB f = .i32) == int && f.mask.getLsbD 0 && f.count == 1

theorem witness_ReductionResults :
    (∀ op ∈ [0x66, 0x67, 0x68], CanGo ints (form op 0 0 1 0 0) true (liveFiring true) ∧
      CanGo floats (form op 0 0 1 0 0) true (liveFiring false)) ∧
    CanGo ints (form 0x69 0 1 1 0 0) true (liveFiring true) ∧ CanGo floats (form 0x69 0 1 1 0 0) true (liveFiring false) ∧
    CanGo ints (form 0x6A 0 0 1 0 0) false (liveFiring true) ∧ CanGo ints (form 0x6B 0 1 1 0 0) false (liveFiring true) := by
  refine ⟨?_, canGo_iff (by decide), canGo_iff (by decide), canGo_iff (by decide), canGo_iff (by decide)⟩
  exact fun op ho => ⟨canGo_all (l := [0x66, 0x67, 0x68]) (by decide) op ho, canGo_all (l := [0x66, 0x67, 0x68]) (by decide) op ho⟩

theorem witness_SteeringResults :
    (∀ op ∈ [0x70, 0x71, 0x73], CanGo ints (form op 0 0 1 0 0) false anyFiring) ∧
    CanGo ints (form 0x72 0 1 1 0 0) true anyFiring ∧
    ∀ op ∈ [0x71, 0x73], CanGo ints (form op 0 1 1 0 0) false anyFiring :=
  ⟨canGo_all (by decide), canGo_iff (by decide), canGo_all (by decide)⟩

theorem witness_SystemResults :
    (∀ op ∈ [0xA3, 0xA4, 0xA5, 0xA6, 0xA8, 0xAB], CanGo ints (form op 0 0 1 0 0) false anyFiring) ∧
    CanGo ints (form 0xA7 0 15 1 0 0) false
      (fun f s1 _ => (resultTag (emitEvent s1 (elemDie f.el) (srcElem f.el) 5 15 f.part 5 (floorOf f.toks)) f).isSome) :=
  ⟨canGo_all (by decide), canGo_iff (by decide)⟩

/-- A firing of slot 0. -/
def aFiring : Firing :=
  { el := 0, v := false, slot := 0, cfg := 257, form := form 0xA5 0 1 1 0 0, stream := false, a := .tok (tok 5), b := .word 0, p := none,
    toks := [tok 5], head := tok 5, count := 1, mask := 1 }

/-- A release at SYS that the loss of the link keeps back; an order that is over at once, and one that waits, or that has one of its
slot before it. -/
theorem witness_SystemResults_orders :
    (let s : State := { ints with posted := [{ owner := 1, port := true, part := 1, region := 0, writes := [(.mem ⟨true, 64⟩, 5)] }] }
     s.dev.linkUp = false ∧ hostWaits s 0 ≠ [] ∧ orderFree s (orderOf s true false 3 aFiring []) = false) ∧
    orderFree ints (orderOf ints true true 3 aFiring []) = true ∧
    (let s : State := { ints with orders := [orderOf ints true false 1 aFiring []] }
     s.orders.all (fun p => p.el != aFiring.el || p.slot != key16 aFiring.v aFiring.slot) = false) := by decide

theorem witness_CommandsAreSent :
    ∀ op ∈ [0xB0, 0xB1, 0xB2, 0xB3, 0xB4, 0xB5, 0xB6, 0xB7, 0xB8, 0xC0, 0xC1, 0xC2, 0xC3, 0xC4, 0xC5, 0xC6, 0xC7, 0xD0, 0xD1,
      0xD2, 0xD3, 0xD4, 0xD8, 0xD9, 0xDA, 0xDB, 0xDC, 0xE0, 0xE1, 0xE2], CanGo ints (form op 0 1 1 0 0) false anyFiring :=
  canGo_all (by decide)

theorem witness_TagAndCountResults_firing :
    (∀ op ∈ [0x7A, 0x7B], CanGo ints (form op 0 0 1 0 0) false anyFiring) ∧
    CanGo ints (form 0x7D 8 15 1 0 0) false anyFiring := ⟨canGo_all (by decide), canGo_iff (by decide)⟩

theorem witness_LocalDataResults :
    CanGo ints (form 0x80 0 15 1 0 0) false anyFiring ∧
    CanGo ints (form 0x81 0 0 1 0 0) false (fun f _ _ => match f.p with | some p => p.lanes.length == 1 | none => false) :=
  ⟨canGo_iff (by decide), canGo_iff (by decide)⟩

/-! ### Slots that meet the hypotheses of MERGE, RADD, RMAX and the counting opcodes -/

/-- A slot in stream mode. -/
def inStream (s : State) : State := modElem s 0 fun e => { e with attrs := [(0, 2)] }

/-- MERGE's token from one field, in a slot that last took L or did not. -/
def mergeTakes (s : State) (k : Nat) (both last : Bool) : Bool :=
  (slotInHand s).any fun h =>
    roomFor s h.el h.v (form 0x74 0 1 1 0 0) && unheld s (cfgPart h.cfg) && (tokenIn h.part h.slot k).isSome &&
      (tokenIn h.part h.slot (1 - k)).isSome == both && (elemOf s h.el).mergeL.contains (key16 h.v h.slot) == last

theorem witness_MergeResults :
    mergeTakes (readyWith 0 (some (tok 5)) none none) 0 false false = true ∧
    mergeTakes (readyWith 0 none (some (tok 6)) none) 1 false false = true ∧
    mergeTakes (ready 0 5 6 7) 0 true false = true ∧
    mergeTakes (modElem (ready 0 5 6 7) 0 fun e => { e with mergeL := [0] }) 1 true true = true := by decide

/-- An EOS of tag 1. -/
def eos : Token := { kind := .eos, tag := 1, ctx := 1 }

theorem witness_MergeResults_eos :
    let s := inStream (readyWith 0 (some eos) (some eos) none)
    (slotInHand s).any (fun h => h.stream && roomFor s h.el h.v (form 0x74 0 1 1 0 0) && unheld s (cfgPart h.cfg) &&
      tokenIn h.part h.slot 0 == some eos && tokenIn h.part h.slot 1 == some eos) = true := by decide

/-- A term of RADD or RMAX with `terms` in field R, whose sum stands at `sum` in field P. -/
def summing (terms : Word) (x : Token) (sum : Option (Token × BitVec 12)) : State :=
  modElem (readyWith 0 (some x) (some (tok terms)) none) 0 fun e => { e with
    parts := e.parts.map fun p => { p with fields := p.fields ++ match sum with
      | some (v, next) => [(2, some (.acc v next true))] | none => [] } }

def sumGoes (s : State) (op : Nat) (b : BitVec 4) (complete : Bool) : Bool :=
  (slotInHand s).any fun h =>
    roomFor s h.el h.v (form op 0 b 1 0 0) && unheld s (cfgPart h.cfg) &&
      (tokenIn h.part h.slot 0).any (fun t => !t.poison && t.seq == expectedSeq h.part h.slot &&
        (match tokenIn h.part h.slot 1 with
         | some u => (expectedSeq h.part h.slot).toNat + 1 == (tokLane u 0).toNat
         | none => false) == complete)

theorem witness_OrderedReductionResults :
    (∀ op ∈ [0x75, 0x76],
      sumGoes (summing 2 (tok 5) none) op 1 false = true ∧ sumGoes (summing 1 (tok 5) none) op 1 true = true) ∧
    sumGoes (summing 2 { tok 5 with seq := 1 } (some (tok 9, 1))) 0x75 1 true = true := by decide

/-- A counting opcode's token of a kind. -/
def takesToken (s : State) (fm : Form) (kind : Kind) : Bool :=
  (slotInHand s).any fun h => roomFor s h.el h.v fm && unheld s (cfgPart h.cfg) &&
    (tokenIn h.part h.slot 0).any fun t => t.kind == kind && !t.poison

theorem witness_TagAndCountResults :
    (∀ op ∈ [0x77, 0x78, 0x79, 0x7C], takesToken (ready 0 5 6 7) (form op 0 0 1 0 0) .data = true ∧
      takesToken (inStream (readyWith 0 (some eos) none none)) (form op 0 0 1 0 0) .eos = true) ∧
    (0 : BitVec 4).toNat ≤ 1 ∧ (1 : BitVec 4).toNat ≤ 1 := by decide

/-! ### A machine with a graph loaded -/

/-- A buffer record of eight I32 elements at virtual address 0x5000, with every right. -/
def record : Rec := { base := 0x5000, fmt := .i32, w := 4, rights := 7, ndim := 1, ext := [8, 1, 1, 1], str := [0, 0, 0], tile := [1, 1, 1, 1] }

/-- Stage S2 with the host link up; partition 1 translates page 5 to device page 9 with every right, its queue 0 is enabled
with one ring and a completion ring, its mailbox is on, its graph 1 is loaded with record 0 and is placed, and region 0 runs
for its queue 0. -/
def world : State :=
  { State.reset with
    dev := { stage := .s2, aux33 := true, aux54 := true, perst := false, linkUp := true, linkGts := 64, linkWidth := 16
             featAct := 0x7FFF }
    parts := [(1, { en := true, ptEn := true, ptRoot := 0x1000, rmax := 4
                    queues := [(0, { enable := true, state := .run, nrings := 1, cplBase := 0x5000, cplLog2 := 4
                                     rings := [(0, { base := 0x5400, rlog2 := 4 })] })]
                    graphs := [(1, { life := .loaded, config := { recs := [(0, record)], launch := [⟨0, 0, 0, 0, 0, 0, 0⟩]
                                                                  elems := [{ x := 0, y := 0 }] }
                                     places := [{ cluster := 0, x0 := 0, y0 := 0, v := false }] })]
                    mbx := { base := 0x5800, log2 := 4 } })]
    regions := (List.range 24).map fun r => (r, if r = 0 then { avail := true, owner := 1, queue := 0, last := 1, state := .run }
                                               else { avail := true })
    tlb := [(2 ^ 45 + 5, some (0x901F, 5))] }

/-- The world with slot 0 of element 0 in hand. -/
def graphReady (a b p : Token) : State := readyIn world 0 (some a) (some b) (some p)

/-- A coordinate token, a word naming record 0, and data. -/
def memoryReady (b : Word) : State := graphReady (tok 0) (tok b) (tok 7)

def rightsAre (rights : List Nat) : Firing → State → State → Bool := fun f s _ =>
  match recordNamed s f with | some r => rights.all fun k => r.rights.getLsbD k | none => false

theorem witness_MemoryRequests :
    (∀ op ∈ [0x82, 0x83], CanGo (memoryReady 0) (form op 0 0 1 2 0) false anyFiring) ∧
    (∀ op ∈ [0x84, 0x85, 0x86, 0x87, 0x88, 0x89, 0x8A, 0x8B, 0x8C, 0x8D, 0x8E, 0x8F, 0x90],
      CanGo (memoryReady 0) (form op 0 1 1 2 0) false (rightsAre [0, 1, 2]) ∧
      CanGo (memoryReady 1) (form op 0 1 1 2 0) false (fun f s _ => !rightsAre [] f s s && !(laneOf f.b 0).getLsbD 31)) ∧
    CanGo (memoryReady 0x80000000) (form 0x86 0 1 1 2 0) false (fun f _ _ => (laneOf f.b 0).getLsbD 31) := by
  refine ⟨?_, ?_, canGo_iff (by decide)⟩
  · intro op ho
    exact canGo_iff (List.all_eq_true.1 (show ([0x82, 0x83].all fun op =>
      canGo (memoryReady 0) false anyFiring (form op 0 0 1 2 0)) = true by decide) op ho)
  · intro op ho
    exact ⟨canGo_iff (List.all_eq_true.1 (show ([0x84, 0x85, 0x86, 0x87, 0x88, 0x89, 0x8A, 0x8B, 0x8C, 0x8D, 0x8E, 0x8F, 0x90].all
        fun op => canGo (memoryReady 0) false (rightsAre [0, 1, 2]) (form op 0 1 1 2 0)) = true by decide) op ho),
      canGo_iff (List.all_eq_true.1 (show ([0x84, 0x85, 0x86, 0x87, 0x88, 0x89, 0x8A, 0x8B, 0x8C, 0x8D, 0x8E, 0x8F, 0x90].all
        fun op => canGo (memoryReady 1) false (fun f s _ => !rightsAre [] f s s && !(laneOf f.b 0).getLsbD 31)
          (form op 0 1 1 2 0)) = true by decide) op ho)⟩

/-- The world with one request at port 0 of region 0. -/
def requesting (op : Nat) (bsel : Word) (p : Option Token) : State :=
  { world with reqs := [{ op := op, el := 0, cfg := 257, region := 0, port := 0, a := tok 0, bsel := bsel, p := p, hdr := tok 0 }] }

/-- Request 0 of a machine meets what the responses ask, with the lanes of `js` at places; its region's caches hold nothing. -/
def responds (s : State) (u : Use) (js : Rec → List Nat) : Bool :=
  match s.reqs[0]? with
  | some r => r.parked.isNone && r.begun.isNone && r.early == [] && !(s.reqs.take 0).any (behind s · r) &&
      holder s r.region == cfgPart r.cfg && (regionOf s r.region).lines == [] &&
      waysOf s (coreId (r.region / 4) (portCore r.region r.port)) == [] &&
      (recOf s r.cfg (r.bsel.toNat % 4096)).any fun rc => decide (fmtCode rc.fmt ≤ 1) && rc.space == 0 &&
        match lanePlaces s (elemDie r.el) r.cfg rc (coordOf rc r.a) u (js rc) with
        | .ok ps => !linkWaits s ps && ps == (js rc).map fun j => (j, some ⟨false, 0x9000 + 4 * j⟩)
        | .error _ => false
  | none => false

/-- A store through a record of SPACE 2 goes to the host's own bus addresses. -/
theorem witness_StoreResponse_host :
    let s := modGraph (requesting 0x85 0 (some (tok 7))) 1 1 fun g => { g with config := { g.config with
      recs := [(0, { record with space := 2 })] } }
    (match s.reqs[0]? with
     | some r => (recOf s r.cfg 0).any fun rc => rc.space == 2 &&
         match lanePlaces s 0 r.cfg rc (coordOf rc r.a) .write [0] with
         | .ok ps => ps == [(0, some ⟨true, 0x5000⟩)] && !linkWaits s ps
         | .error _ => false
     | none => false) = true := by decide

theorem witness_LoadResponse : responds (requesting 0x84 0 none) .read (fun rc => List.range rc.w) = true := by decide

theorem witness_StoreResponse :
    responds (requesting 0x85 0 (some { lanes := [1, 2, 3], mask := 5 })) .write (fun _ => [0, 2]) = true ∧
    (requesting 0x85 0 none).memOk = true := by decide

theorem witness_AtomicResponse :
    responds (requesting 0x86 0 (some (tok 1))) .atomic (fun _ => [0]) = true ∧
    responds (requesting 0x8D 0 (some { lanes := [1, 2], mask := 3 })) .atomic (fun _ => [0]) = true ∧
    responds (requesting 0x8E 0 none) .atomic (fun _ => [0]) = true := by decide

def setIs (q : SetUnit → Bool) : Firing → State → State → Bool := fun f s1 s2 =>
  (setRefOf s1 f).any fun ref => q (setUnitOf s2 ref)

/-- The world with slot 0 in hand and set unit 0 of region 0 as given. -/
def setReady (u : SetUnit) : State := modRegion (graphReady (tok 5) (tok 6) (tok 7)) 0 fun g => { g with sets := [(0, u)] }

theorem witness_SetResults :
    CanGo (setReady {}) (form 0xA0 0 0 1 3 0) false (setIs fun u => u.joins.isEmpty && decide (u.members.length < 4096)) ∧
    CanGo (setReady { members := [1] }) (form 0xA1 0 0 1 3 0) false
      (setIs fun u => u.joins.isEmpty && u.arrived.isEmpty && u.heldNext.isEmpty) ∧
    CanGo (setReady {}) (form 0xA2 0 0 1 3 0) false (setIs fun u => !u.members.contains 1) ∧
    CanGo (setReady { members := [1] }) (form 0xA2 0 0 1 3 0) false
      (setIs fun u => u.members.contains 1 && u.arrived.all (·.tag != 1) && u.heldNext.isEmpty) :=
  ⟨canGo_iff (by decide), canGo_iff (by decide), canGo_iff (by decide), canGo_iff (by decide)⟩

def done? {α : Type} : Access α → Bool | .done _ => true | _ => false

theorem witness_MessagesFromGraphs :
    CanGo ints (form 0xA9 0 0 1 0 0) false (fun f s1 _ => !mbxOn (partOf ints f.part).mbx && (partOf ints f.part).mbx == (partOf s1 f.part).mbx) ∧
    (let s := graphReady (tok 5) (tok 6) (tok 7)
     CanGo s (form 0xA9 0 0 1 0 0) false (fun f s1 _ => mbxOn (partOf s f.part).mbx && (partOf s f.part).mbx == (partOf s1 f.part).mbx &&
       (partOf s f.part).mbx.reserve.isEmpty && done? (writeMessage s f.part (graphMessage s f)) &&
       (match writeMessage s1 f.part (graphMessage s1 f) with | .done s2 => (resultTag s2 f).isSome | _ => false))) ∧
    CanGo ints (form 0xAA 0 1 1 0 0) false (fun f s1 _ => qputRefused ints f && qputRefused s1 f) ∧
    (let s := graphReady (tok 0) (tok 0) (tok 7)
     CanGo s (form 0xAA 0 1 1 0 0) false (fun f s1 _ => !qputRefused s f && !qputRefused s1 f && done? (qputDo s f) &&
       (match qputDo s1 f with | .done x => (resultTag x.1 f).isSome | _ => false))) :=
  ⟨canGo_iff (by decide), canGo_iff (by decide), canGo_iff (by decide), canGo_iff (by decide)⟩

/-! ### Tokens on their way -/

/-- Element 0 with a slot 0 that holds `w` and attributes `attr`, and a token on its way to its field L. -/
def arriving (w : Word) (attr : BitVec 16) (x : Token) : State :=
  let s := modElem world 0 fun e => { e with instr := [(0, w)], owner := [(0, 257)], attrs := [(0, attr)]
                                             parts := [{ cfg := 257, tag := 1 }] }
  { s with net := [{ tok := x, dest := .slot 0 0 0 .keep false }] }

theorem lands (w : Word) (attr : BitVec 16) (x : Token)
    (h : let s := arriving w attr x
      regionRuns s 0 x.ctx = true ∧ swappedAt s 0 x = none ∧ quietElem (elemOf s 0) = true ∧ (regionOf s 0).spill = [] ∧
        reportable s x.ctx = true) :
    ∃ base, Lands (arriving w attr x) 0 0 0 0 false x base :=
  ⟨_, _, .keep, rfl, rfl, rfl, rfl, by decide, rfl, h.1, h.2.1, h.2.2.1, h.2.2.2.1, h.2.2.2.2, rfl⟩

theorem witness_VoidSlotFaults : (∃ base, Lands (arriving 0 0 (tok 5)) 0 0 0 0 false (tok 5) base) ∧
    (elemOf (arriving 0 0 (tok 5)) 0).absent = [] ∧
    (lookup 0 (elemOf (arriving 0 0 (tok 5)) 0).instr (key16 false 0)).toNat / 2 ^ 24 % 256 = 0 :=
  ⟨lands _ _ _ (by decide), by decide, by decide⟩

theorem witness_TokensReachFields :
    (∃ base, Lands (arriving 0x01010400 0x100 (tok 5)) 0 0 0 0 false (tok 5) base) ∧
    (∃ base, Lands (arriving 0x01010400 0x100 eos) 0 0 0 0 false eos base) ∧
    (let s := arriving 0x01010400 0x100 (tok 5)
     ownerCfg s 0 false 0 = some 257 ∧ (elemOf s 0).spilled = [] ∧
       ((findPart (elemOf s 0) 257 1).any fun p => (fieldOf p 0 0).isNone) = true ∧
       (lookup 0 (elemOf s 0).attrs (key16 false 0)).getLsbD 8 = true) ∧
    (lookup 0 (elemOf (arriving 0x01010400 0 (tok 5)) 0).attrs (key16 false 0)).getLsbD 8 = false :=
  ⟨lands _ _ _ (by decide), lands _ _ _ (by decide), by decide, by decide⟩

theorem witness_TokensReachFields_reload :
    ∀ due, let p : FramePart := { cfg := 257, tag := 1, fields := if due then [(0, some (.tok (tok 5))), (1, some (.tok (tok 6)))] else [] }
    let s := modElem world 0 fun e => { e with instr := [(0, 0x01010400)], owner := [(0, 257)], spilled := [p] }
    (elemOf s 0).spilled.filter (·.tag == 1) = [p] ∧ regionRuns s (elemRegion 0) (cfgPart 257) = true ∧ reloadDue s 0 p = due ∧
    (placementAt s 257 0).any (·.swapped) = false ∧ quietElem (elemOf s 0) = true ∧ reportable s 1 = true ∧
    ((elemOf s 0).parts.filter (·.cfg == 257)).length < quotaOf s 257 ∧ (elemOf s 0).parts.length < 56 := by decide

theorem witness_TokensReachFields_refill :
    let s := modRegion world 0 fun g => { g with spill := [(0, ⟨tok 5, 0, 0⟩), (0, ⟨tok 6, 0, 0⟩)] }
    regionRuns s 0 (holder s 0) = true ∧ busyElems s 0 = [] ∧ lookup [] (elemOf s 0).queues 0 = [] ∧
    (regionOf s 0).spill = (4 * 0 + 0, ⟨tok 5, 0, 0⟩) :: [(0, ⟨tok 6, 0, 0⟩)] := by decide

/-! ### Engines -/

/-- A command of the world's graph for a port. -/
def command (op : BitVec 8) (port : Nat) : Cmd :=
  { op := op, el := 0, cfg := 257, region := 0, port := port, queue := 0, a := tok 0, ident := 1 }

/-- A command that has not been accepted, on its way. -/
def sending (c : Cmd) : State := { world with net := [{ tok := c.a, dest := .engine c.region c.port .keep, cmd := some c }] }

theorem witness_EngineCommandLife_illegal :
    let c := command 0xB2 0
    let s := sending c
    (s.net.take 0).any (sameWay { tok := c.a, dest := .engine 0 0 .keep, cmd := some c }) = false ∧
    regionRuns s c.region c.part = true ∧ engineTakes s c = true ∧ reportable s c.part = true ∧
    portAccepts c.port c.code = false ∧ c.code ≠ 0xDA := by decide

/-- A command in its engine, with WAITF and SIGF, beside the FIFO 1 that it waits on or pushes. -/
def inEngine (c : Cmd) (fifo : List Token) : State := putFifo { world with cmds := [c] } c 1 (fifo.map fun t => (0, t))

theorem witness_EngineCommandLife_waitf :
    ∀ saved ∈ [false, true], ∀ fifo ∈ [[], [tok 1]],
      let c := { command 0xC3 0 with hdr := 0x010000, saved := saved }
      let s := inEngine c fifo
      s.cmds[0]? = some c ∧ s.cmds.find? (·.ident == c.ident) = some c ∧ c.issued = false ∧ cmdRuns s c = true ∧
      hasTurn s c = true ∧ reportable s c.part = true ∧ c.waitf ≠ 0 ∧ c.saved = saved ∧
      fifoOf s c c.waitf = fifo.map fun t => (0, t) := by decide

theorem witness_EngineCommandLife_retire :
    let c := { command 0xC3 0 with hdr := 0x001000, issued := true, finished := true, done := some [0, 0] }
    ∀ n ∈ [0, 63, 64], let s := inEngine c (List.replicate n (tok 1))
      s.cmds[0]? = some c ∧ s.cmds.find? (·.ident == c.ident) = some c ∧ c.illegal = false ∧ c.saved = false ∧ cmdRuns s c = true ∧
      reportable s c.part = true ∧ sigfFull s c = decide (64 ≤ n) ∧ c.rel = false := by decide

/-- A command with REL whose host write the loss of the link keeps back, and the same with the link up. -/
theorem witness_EngineCommandLife_rel :
    let c := { command 0xC3 0 with hdr := 0x400000, issued := true, finished := true, done := some [0, 0] }
    ∀ up ∈ [false, true],
      let s := modDev { inEngine c [] with posted := [{ owner := 1, part := 1, region := 0, writes := [(.mem ⟨true, 64⟩, 5)] }] }
        fun d => { d with linkUp := up }
      c.rel = true ∧ c.sigf = 0 ∧ sigfFull s c = false ∧ cmdRuns s c = true ∧ reportable s c.part = true ∧
      (completeWhere s (·.owner == c.ident)).posted.any (·.owner == c.ident) = !up := by decide

theorem witness_EngineEvents :
    (let s := modQueue (inEngine (command 0xC3 0) []) 1 0 fun u => { u with state := .saving }
     (queueOf s 1 0).state = .saving ∧ (s.cmds[0]?.any fun c => !c.saved) = true ∧ reportable s 1 = true) ∧
    (let s := modCluster world 0 fun k => { k with hwq := [(0, { home := 0, armed := some (257, 0, {}), triggers := [tok 1] })] }
     (hwqOf s 0 0).armed = some (257, 0, {}) ∧ (hwqOf s 0 0).triggers = tok 1 :: [] ∧ engineStalls s (4 * 0 + 0 / 16) 6 = false ∧ regionRuns s (4 * 0 + 0 / 16) (cfgPart 257) = true) ∧
    (let cp : Copy := { part := 1, queue := 0, cfg := 257, region := 0, home := 0, src := .record 0 [0, 0, 0, 0]
                        dst := .record 0 [4, 0, 0, 0], shape := [4, 1, 1, 1], tok := tok 1 }
     copyRuns { world with copies := [cp] } cp = true ∧ cp.left = []) ∧
    (6 ≤ 6 ∧ ({ world with net := [{ tok := tok 1, dest := .engine 0 6 .keep }] } : State).net[0]?.any (·.cmd.isNone) = true) := by
  decide

/-! ### Rings and packets -/

/-- The world's ring 0 of queue 0, with its indices. -/
def ringed (rhead prod : BitVec 32) : State := modRing world 1 0 0 fun r => { r with rhead := rhead, prod := prod }

/-- A packet of a type with a body. -/
def packet (type : Nat) (body : List Byte := List.replicate 56 0) : Packet :=
  { qseq := 5, hdrSeq := 5, ring := 0, bytes := BitVec.ofNat 8 type :: List.replicate 7 0 ++ body }

/-- The world with queue 0 in hand and a packet at its head. -/
def heading (p : Packet) (f : Queue → Queue := id) : State :=
  { modQueue world 1 0 (fun u => f { u with merged := [p], nextSeq := 6 }) with hand := (1, 0) }

theorem witness_RingsAndMerge_doorbell :
    let r := ringOf (ringed 3 3) 1 0 0
    (3#32 - r.rhead).toNat ≤ 2 ^ r.rlog2 ∧ (19#32 - r.rhead).toNat ≤ 2 ^ r.rlog2 ∧ 2 ^ r.rlog2 < (20#32 - r.rhead).toNat ∧
    2 ^ r.rlog2 < (2#32 - r.rhead).toNat := by
  intro r
  have h : r = { base := 0x5400, rlog2 := 4, rhead := 3, prod := 3 } := rfl
  rw [h]
  exact ⟨by decide, by decide, by decide, by decide⟩

theorem witness_RingsAndMerge :
    (let s := ringed 0 1
     queueGoes s 1 0 = true ∧ (ringOf s 1 0 0).rstat = .active ∧ (ringOf s 1 0 0).prod ≠ (ringOf s 1 0 0).rhead) ∧
    (let s := { modRing world 1 0 0 (fun r => { r with fetched := [packet 10] }) with hand := (1, 0) }
     queueGoes s 1 0 = true ∧ (queueOf s 1 0).merged = [] ∧ (queueOf s 1 0).nrings = 1 ∧ (queueOf s 1 0).mergeAt = 0 ∧
       (queueOf s 1 0).run = none ∧ (ringOf s 1 0 0).ibs = [] ∧ (packet 10).bundle = false ∧ (packet 10).type ≠ 4) ∧
    (let s := { modRing world 1 0 0 (fun r => { r with ibs := [⟨1, 0x5000, 2, 0, 4⟩] }) with hand := (1, 0) }
     queueGoes s 1 0 = true ∧ (queueOf s 1 0).merged = [] ∧ (queueOf s 1 0).mergeAt = 0) := by decide

theorem witness_RingsAndMerge_fetch : ∃ bs, loadVia world (fun a => translateRing world 1 false 0 a .read) 0x5400 64 =
    .ok (bs, false) := ⟨_, rfl⟩

theorem atHead (p : Packet) (f : Queue → Queue)
    (h : let s := heading p f
      (queueOf s 1 0).merged = [p] ∧ queueGoes s 1 0 = true ∧ (queueOf s 1 0).held.length < 256 ∧ headFault s p = none ∧
        chainOk (queueOf s 1 0) p = true) :
    AtHead (heading p f) 1 0 p := ⟨rfl, h.2.1, h.2.2.1, ⟨[], h.1⟩, h.2.2.2.1, h.2.2.2.2⟩

/-- A queue whose packets before the head have all completed, or where packet 4 has not. -/
def pendingBefore (u : Queue) : Queue := { u with inFlight := [{ packet 10 with qseq := 4 }] }

theorem witness_ChainHoldsAdmission :
    (let p := { packet 10 with bytes := [0x0A, 0x08, 0, 0, 0, 0, 0, 0] ++ List.replicate 56 0 }
     let s := heading p pendingBefore
     s.hand = (1, 0) ∧ (queueOf s 1 0).merged = p :: [] ∧ headFault s p = none ∧ p.chain = true ∧ p.qseq ≠ 0 ∧
       (queueOf s 1 0).inFlight.any (·.qseq == p.qseq - 1) = true) ∧
    (let s := heading (packet 10)
     headFault s (packet 10) = none ∧ queueGoes s 1 0 = true ∧ (queueOf s 1 0).held.length < 256 ∧
       ((packet 10).bytes.drop 8).all (· == 0) = true) := by decide

/-- An INJECT of graph 1 with launch entry 0 and one argument, and the bodies of the other packets. -/
def inject1 : Packet := packet 1 ([1, 0, 1, 0, 1, 0, 0, 0, 9, 0, 0, 0] ++ List.replicate 44 0)
def reside2 : Packet := packet 2 ([2, 0, 0, 0, 0, 0, 0, 0, 0x40, 0x50, 0, 0, 0, 0, 0, 0, 0x80, 3, 0, 0] ++ List.replicate 36 0)
def evict1 : Packet := packet 3 ([1] ++ List.replicate 55 0)
def ib1 (level : Nat) : Packet := { packet 4 ([0x40, 0x50, 0, 0, 0, 0, 0, 0, 1] ++ List.replicate 47 0) with level := level }
def waitv1 (op : Byte) : Packet := packet 5 ([0, 0x50, 0, 0, 0, 0, 0, 0, 1, 0, 0, 0, 0, 0, 0, 0, op] ++ List.replicate 39 0)
def writev1 (op : Byte) : Packet := packet 6 ([0, 0x50, 0, 0, 0, 0, 0, 0, 1, 0, 0, 0, 0, 0, 0, 0, op] ++ List.replicate 39 0)

theorem witness_GraphPackets_inject : AtHead (heading inject1) 1 0 inject1 ∧ inject1.type = 1 ∧ (1 ≤ inject1.field 0 2 ∧ inject1.field 0 2 ≤ 255) ∧
    (graphOf (heading inject1) 1 1).life = .loaded ∧ launchFault (graphOf (heading inject1) 1 1).config inject1 = none ∧
    (readyPlace (heading inject1) 1 0 1).isSome = true ∧
    (newTag (heading inject1) 1 fun u => { alloc := true, link := u, head := u, root := some u }).isSome = true :=
  ⟨atHead _ _ (by decide), by decide⟩

theorem witness_GraphPackets_notLive :
    let p := packet 1 ([2, 0, 1, 0, 1] ++ List.replicate 51 0)
    AtHead (heading p) 1 0 p ∧ (graphOf (heading p) 1 (p.field 0 2)).life = .free :=
  ⟨atHead _ _ (by decide), by decide⟩

theorem witness_GraphPackets_reside : AtHead (heading reside2) 1 0 reside2 ∧ reside2.field 0 2 = 2 ∧
    nonzeroAt reside2 2 8 = none ∧ reside2.field 8 8 % 64 = 0 ∧ nonzeroAt reside2 20 56 = none ∧
    (graphOf (heading reside2) 1 2).life = .free :=
  ⟨atHead _ _ (by decide), by decide⟩

theorem witness_GraphPackets_evict : AtHead (heading evict1) 1 0 evict1 ∧ evict1.field 0 2 = 1 ∧ nonzeroAt evict1 2 56 = none ∧
    (graphOf (heading evict1) 1 1).life = .loaded := ⟨atHead _ _ (by decide), by decide⟩

theorem witness_GraphPackets_ib : AtHead (heading (ib1 3)) 1 0 (ib1 3) ∧ AtHead (heading (ib1 4)) 1 0 (ib1 4) ∧
    (ib1 3).field 0 8 % 64 = 0 ∧ (ib1 3).field 8 4 = 1 ∧ nonzeroAt (ib1 3) 12 56 = none :=
  ⟨atHead _ _ (by decide), atHead _ _ (by decide), by decide⟩

theorem witness_GraphPackets_nopk : AtHead (heading (packet 10)) 1 0 (packet 10) ∧
    AtHead (heading (packet 8)) 1 0 (packet 8) ∧ AtHead (heading (packet 8) pendingBefore) 1 0 (packet 8) ∧
    (queueOf (heading (packet 8) pendingBefore) 1 0).inFlight ≠ [] ∧ (queueOf (heading (packet 8)) 1 0).inFlight = [] ∧
    ((packet 8).bytes.drop 8).all (· == 0) = true :=
  ⟨atHead _ _ (by decide), atHead _ _ (by decide), atHead _ _ (by decide), by decide⟩

/-- The header faults at the ends of the ranges: types 0 and 11. -/
theorem witness_GraphPackets_header : ∀ k ∈ [0, 11], let p := packet k
    queueGoes (heading p) 1 0 = true ∧ (queueOf (heading p) 1 0).merged = [p] ∧ (queueOf (heading p) 1 0).held.length < 256 ∧
    (queueOf (heading p) 1 0).errorDue = false ∧ (p.type = 0 ∨ 10 < p.type) := by decide

/-- Page 5 reads as zeros, so 1 ≤ 0 does not hold and 1 ≠ 0 does. -/
theorem witness_ValuePackets :
    (∀ op ∈ [0, 2], AtHead (heading (waitv1 op)) 1 0 (waitv1 op) ∧ valueFault (waitv1 op) 2 = none ∧
      (queueOf (heading (waitv1 op)) 1 0).vPage = none) ∧
    (∀ op ∈ [0, 1], AtHead (heading (writev1 op)) 1 0 (writev1 op) ∧ valueFault (writev1 op) 1 = none ∧
      (queueOf (heading (writev1 op)) 1 0).inFlight = []) ∧
    AtHead (heading (writev1 0) pendingBefore) 1 0 (writev1 0) := by
  refine ⟨?_, ?_, atHead _ _ (by decide)⟩ <;> intro op ho <;>
    simp only [List.mem_cons, List.not_mem_nil, or_false] at ho <;> rcases ho with rfl | rfl <;>
    exact ⟨atHead _ _ (by decide), by decide⟩

/-- A write of the queue's that the loss of the link keeps back, and the same with the link up. -/
def posting (s : State) (up : Bool) : State :=
  modDev { s with posted := [{ owner := 1, port := true, part := 1, queue := 0, region := 0, writes := [(.mem ⟨true, 64⟩, 5)] }] }
    fun d => { d with linkUp := up }

theorem witness_ValuePackets_release : releaseQueue (posting world false) 1 0 = none ∧ (releaseQueue world 1 0).isSome = true ∧
    (releaseQueue (posting world true) 1 0).isSome = true := by decide

theorem witness_ValuePackets_places : (∃ ps, valuePlaces (heading (waitv1 0)) 1 (waitv1 0) .read = .ok ps) ∧
    (∃ ps, valuePlaces (heading (writev1 0)) 1 (writev1 0) .write = .ok ps) ∧
    ∃ ps, valuePlaces (heading (writev1 1)) 1 (writev1 1) .atomic = .ok ps := ⟨⟨_, rfl⟩, ⟨_, rfl⟩, ⟨_, rfl⟩⟩

def echo : Packet := packet 7 ([4, 0, 1] ++ List.replicate 53 0)
def attestation : Packet := packet 7 ([2] ++ List.replicate 39 0 ++ [0, 0x50] ++ List.replicate 14 0)
def tracectl : Packet := packet 9 ([0, 0, 1, 0, 15, 2, 8] ++ List.replicate 49 0)

theorem witness_MessagePackets :
    AtHead (heading echo) 1 0 echo ∧ AtHead (heading attestation) 1 0 attestation ∧ AtHead (heading tracectl) 1 0 tracectl ∧
    (echo.bytes.length = 64 ∧ echo.type = 7 ∧ echo.field 0 2 = 4 ∧ mboxRoom (heading echo) 1 = true) ∧
    (attestation.bytes.length = 64 ∧ attestation.field 0 2 = 2 ∧ nonzeroAt attestation 2 8 = none ∧
      attestation.field 40 8 % 8 = 0 ∧ nonzeroAt attestation 48 56 = none) ∧
    tracectl.bytes.length = 64 ∧ tracectlFault (heading tracectl) tracectl = none ∧
    (partOf (heading tracectl) 1).trace.stalled = false :=
  ⟨atHead _ _ (by decide), atHead _ _ (by decide), atHead _ _ (by decide), by decide, by decide, by decide⟩

/-- No signature left, and one left. -/
theorem witness_MessagePackets_attest :
    1048576 ≤ (modDev world fun d => { d with xmssIndex := 1048576 }).dev.xmssIndex ∧
    (attest (modDev world fun d => { d with xmssIndex := 1048575 }) 0).isSome = true :=
  ⟨by decide, by
    unfold attest
    rw [show signaturesLeft (modDev world fun d => { d with xmssIndex := 1048575 }) = 1 from rfl]
    rfl⟩

/-! ### Completion, graphs, mailboxes, queues -/

/-- The world with an activation of queue 0, and tokens on their way. -/
def activated (net : List Flight) : State :=
  { modPart world 1 (fun p => { p with
      acts := [{ root := 1, queue := 0, qseq := 4, hdrSeq := 4, ring := 0, irq := true, handle := 1 }]
      tags := [(1, { alloc := true, link := 1, head := 1, root := some 1 })] }) with net := net }

theorem witness_CompletionRecords :
    ((partOf (activated []) 1).acts.find? (·.root == 1)).isSome = true ∧
    liveOf (activated []) 1 1 = 0 ∧ liveOf (activated [{ tok := tok 5, dest := .slot 0 0 0 .keep false }]) 1 1 ≠ 0 ∧
    (let u := queueOf (activated []) 1 0
     u.held = [] ∧ cplReady (activated []) u = true ∧ (u.cplTail - u.cplHead).toNat < 2 ^ u.cplLog2 ∧
       (15 - u.cplHead : BitVec 32).toNat < 2 ^ u.cplLog2) := by decide

/-- The paused FGE, with a FIFO that has room and one that is full. -/
theorem witness_CompletionRecords_paused :
    let paused (quiet : List (Nat × Nat × Tag)) : State := modDev { activated [] with fge := { quiet := quiet } } fun d =>
      { d with castle := { d.castle with state := .castlePoint, body := .scheduler } }
    ∀ k ∈ [255, 256], let s := paused (List.replicate k (0, 2, 7))
      fgePaused s = true ∧ liveOf s 1 1 = 0 ∧ s.fge.quiet.find? (·.2 == (1, 1)) = none ∧ quietDie s 1 0 = 0 ∧
      decide ((s.fge.quiet.filter (·.1 == 0)).length < 256) = (k == 255) := by decide

theorem witness_CompletionRecords_turn :
    fgePaused (activated []) = false ∧ (activated []).fge.quiet = [] ∧ releaseQueue (posting (activated []) false) 1 0 = none ∧
    (releaseQueue (activated []) 1 0).isSome = true ∧
    ({ activated [] with fge := { quiet := [(0, 1, 1)] } } : State).fge.quiet.head? = some (0, 1, 1) := by decide

theorem witness_CompletionRecords_places : ∃ ps,
    placesVia (fun x => translateRing (activated []) 1 false 0 x .write) (0x5000 + 32 * (0 % 2 ^ 4)) 32 = .ok ps := ⟨_, rfl⟩

/-- The smallest image: one element with one SINK in slot 0, which accepts I32; no record, template or launch entry. -/
def image : List (Nat × List Byte) :=
  [(0, [0x47, 0x51, 0x58, 0, 1, 0, 9, 0, 0x80, 3, 0, 0]), (16, [1, 1]), (22, [1, 0]),
   (64, [0, 0, 0, 0, 0, 1, 0, 0, 72, 0, 0, 0, 1]), (80, [1, 0, 0, 0, 0x80, 1, 0, 0, 68, 0, 0, 0, 1]),
   (96, [2, 0, 0, 0, 0, 2, 0, 0, 12, 1, 0, 0, 1]), (112, [3, 0, 0, 0, 0x40, 3, 0, 0, 36, 0, 0, 0, 1]),
   (128, [4, 0, 0, 0, 0x80, 3]), (144, [5, 0, 0, 0, 0x80, 3]), (160, [6, 0, 0, 0, 0x80, 3]), (176, [7, 0, 0, 0, 0x80, 3]),
   (192, [8, 0, 0, 0, 0x80, 3]),
   (256, [0, 0, 1, 0, 0, 0, 0, 0, 0, 0, 0, 0x7C]), (832 + 4, [0, 1])]

/-- The world with graph 2 loading from page 5. -/
def imaged (size : Nat) : State :=
  { modGraph world 1 2 (fun _ => { life := .loading, queue := 0, qseq := 4, addr := 0x5000, size := size }) with
    mem := image.foldl (fun m x => writeBytes m (0x9000 + x.1) x.2) [] }

theorem witness_GraphLoadAndEviction_load : (match loadImage (imaged 896) ⟨1, 0x5000, []⟩ 896 with | .ok _ => true | .error _ => false) = true := by
  decide +kernel

/-- A manager takes the load up, has it in hand, or none is idle. -/
theorem witness_GraphLoadAndEviction_manager :
    (loadManager (imaged 896)).isSome = true ∧ losslessNow (imaged 896) 1 = false ∧
    (let s := { imaged 896 with regions := mapVals (fun _ (g : Region) => { g with task := some (.load 1 2) }) (imaged 896).regions }
     s.regions.any (fun x => x.2.task == some (.load 1 2)) = true) ∧
    (let s := { imaged 896 with regions := mapVals (fun _ (g : Region) => { g with task := some (.load 2 2) }) (imaged 896).regions }
     s.regions.any (fun x => x.2.task == some (.load 1 2)) = false ∧ loadManager s = none) := by decide

theorem witness_GraphLoadAndEviction :
    (graphOf (imaged 207) 1 2).life = .loading ∧ (graphOf (imaged 207) 1 2).parkedPage = none ∧ (graphOf (imaged 207) 1 2).size < 208 ∧
    (∀ s ∈ [world, activated []], let t := modGraph s 1 1 fun g => { g with life := .evicting, addr := 0x5000 }
      (graphOf t 1 1).life = .evicting ∧ (graphOf t 1 1).config.recs = [(0, record)] ∧
        graphQuiet t 1 1 = decide ((partOf s 1).acts = [])) := by decide

theorem witness_MailboxRegisters :
    let msg : Message := { bytes := List.replicate 64 1, remeasure := true }
    let s := modPart world 1 fun p => { p with mbx := { p.mbx with reserve := [msg], tail := 16 } }
    let m := (partOf s 1).mbx
    m.reserve = [msg] ∧ msg.completes = none ∧ 4 ≤ m.log2 ∧ m.log2 ≤ 12 ∧ m.faulted = false ∧ m.parked = none ∧ m.host = false ∧
    (m.tail - 1).toNat < 2 ^ m.log2 ∧ (partOf world 1).mbx.reserve = [] := by decide

theorem witness_MailboxRegisters_places : ∃ ps,
    placesVia (fun a => translate world 0 1 a .write) (0x5800 + 64 * (16 % 2 ^ 4)) 64 = .ok ps := ⟨_, rfl⟩

/-- The ends of the range of NRINGS, and each state a clause names. -/
theorem witness_QueueControl :
    (let s := modQueue world 1 0 fun u => { u with enable := false }
     let u := queueOf s 1 0
     u.enable = false ∧ plainState u = true ∧ u.inFlight = [] ∧ (partOf s 1).acts = [] ∧ 4 ≤ u.cplLog2 ∧ u.cplLog2 ≤ 16 ∧
       u.cplBase % (32 * 2 ^ u.cplLog2) = 0 ∧ (0x11#64).getLsbD 0 = true ∧ 0x11 / 2 ^ 4 % 2 ^ 7 = 1 ∧ 0x401 / 2 ^ 4 % 2 ^ 7 = 64) ∧
    (queueOf world 1 0).enable = true ∧ (queueOf world 1 0).held = [] ∧ (partOf world 1).hold = false ∧
    plainState (queueOf world 1 0) = true ∧ (queueOf world 1 0).savedCtx = false ∧ contexts world 1 0 = [] ∧
    (∀ st ∈ [QState.saved, .recovery], ∀ due ∈ [false, true],
      let u := queueOf (modQueue world 1 0 fun u => { u with state := st, errorDue := due }) 1 0
      u.state = st ∧ u.errorDue = due) := by decide

/-! ### Data rings -/

/-- The world with data ring 0 as given, in hand. -/
def dataRinged (r : DataRing) : State := { modPart world 1 (fun p => { p with rings := [(0, r)] }) with hand := (1, 0) }

def plainDataRing : DataRing := { enable := true, rlog2 := 4, rowLen := 8, graph := 1, base := 0x5000 }

theorem witness_DataRingControl :
    (let r := dringOf (dataRinged { plainDataRing with enable := false }) 1 0
     r.enable = false ∧ plainRing r = true ∧ r.parkedPage = none ∧ r.tag = none ∧ r.closings = [] ∧ r.rowLen % 8 = 0 ∧
       8 ≤ r.rowLen ∧ r.rowLen ≤ 16384 ∧ r.graph ≠ 0) ∧
    (world.dev.featAct.getLsbD 7 = true ∧ (0x401#64).getLsbD 0 = true ∧ 0x401 / 2 ^ 6 % 2 ^ 5 = 16 ∧ 0x101 / 2 ^ 6 % 2 ^ 5 = 4) ∧
    (16#32 - plainDataRing.p).toNat ≤ 2 ^ plainDataRing.rlog2 ∧ 2 ^ plainDataRing.rlog2 < (17#32 - plainDataRing.p).toNat ∧
    (dringOf (dataRinged plainDataRing) 1 0).enable = true ∧ (partOf (dataRinged plainDataRing) 1).hold = false ∧
    plainDataRing.bells = [] ∧ losslessNow (dataRinged plainDataRing) 1 = false ∧ (dringOf (dataRinged { plainDataRing with bells := [3] }) 1 0).bells ≠ [] ∧
    ∀ st ∈ [QState.saved, .recovery], ∀ away ∈ [false, true],
      let s := modQueue (dataRinged { plainDataRing with state := st }) 1 0 fun u => { u with savedCtx := away }
      (dringOf s 1 0).state = st ∧ (queueOf s 1 (graphOf s 1 (dringOf s 1 0).graph).queue).savedCtx = away := by decide

/-- A data packet of a type with a body. -/
def dataPacket (type : Byte) (body : List Byte) : List Byte := type :: List.replicate 7 0 ++ body ++ List.replicate (56 - body.length) 0

/-- A ring with a stream open and bound, and a packet fetched. -/
def streaming (bs : List Byte) : State :=
  dataRinged { plainDataRing with packet := some bs, tag := some 1, bound := some (.slot 0 0 0 .keep true, .drop 0) }

def sample1 : List Byte := dataPacket 0x22 [0, 0x50, 0, 0, 0, 0, 0, 0, 4]
def span1 : List Byte := dataPacket 0x21 ([0, 0x50] ++ List.replicate 14 0 ++ [10, 0, 0, 0, 0, 0, 0, 0, 10])
def flush1 : List Byte := dataPacket 0x23 []

theorem witness_DataStreams_packets : AtRing (streaming sample1) 1 0 0x22 sample1 ∧ AtRing (streaming span1) 1 0 0x21 span1 ∧
    AtRing (streaming flush1) 1 0 0x23 flush1 ∧ (dringOf (streaming flush1) 1 0).tag = some 1 := by
  unfold AtRing
  decide

theorem witness_DataStreams_reads :
    (∃ raw, dringRead (streaming sample1) 1 (dringOf (streaming sample1) 1 0) 0x5000 (4 * 4) = .ok raw) ∧
    ∃ e, dringRead (streaming span1) 1 (dringOf (streaming span1) 1 0) 0x5000 16 = .ok e := ⟨⟨_, rfl⟩, ⟨_, rfl⟩⟩

/-- An entry that names nothing (length 0) and the entry's limits. -/
theorem witness_DataStreams_entry : leNat (List.replicate 4 (0 : Byte)) = 0 ∧ 0x5004 % 4 = 0 ∧ 1 ≤ 1 ∧ 32767 ≤ 32767 ∧ 32767 < 32768 := by
  decide

theorem witness_DataStreams :
    (let s := dataRinged { plainDataRing with packet := some sample1 }
     dringGoes s 1 (dringOf s 1 0) = true ∧ losslessNow s 1 = false ∧ (graphOf s 1 1).life ≠ .free ∧
       (newTag s 1 fun u => { alloc := true, link := u, head := u }).isSome = true) ∧
    (let s := modGraph (dataRinged { plainDataRing with opening := true }) 1 1 fun g => { g with config := { g.config with
        elems := [{ x := 0, y := 0, attrs := [(0, 2)] }] } }
     (graphOf s 1 1).life = .loaded ∧ ((graphOf s 1 1).config.launch[0]?.any fun l => launchStrm (graphOf s 1 1).config l) = true ∧
       (((List.range 4).findSome? fun q => readyPlace s 1 q 1)).isSome = true) ∧
    (let s := dataRinged { plainDataRing with packet := some sample1, delivered := true }
     (dringOf s 1 0).delivered = true ∧ (dringOf s 1 0).parkedPage = none ∧ (dringOf s 1 0).pubs = [] ∧
       (dringOf s 1 0).pubAddr = 0 ∧ (dringOf s 1 0).pubPage = none ∧ (dringOf s 1 0).host = false ∧ (dringOf s 1 0).p ≠ 1) ∧
    (let s := dataRinged { plainDataRing with closings := [1] }
     (dringOf s 1 0).closings = 1 :: [] ∧ liveCount s 1 1 = 0 ∧ losslessNow s 1 = false) := by decide

theorem witness_DataStreams_publication :
    ∃ ps, placesVia (fun a => translate (streaming sample1) 0 1 a .write) 0x5F00 4 = .ok ps := ⟨_, rfl⟩

theorem witness_ShuffleIsBijection : 1 ≤ 1 ∧ 1 ≤ 2 ^ 32 ∧ 2 ^ 32 ≤ 2 ^ 32 := by decide

/-! ### Scheduling, the ladder and faults -/

/-- The world with queue 0 in hand and changed, at a trace time. -/
def laddered (units : Nat) (f : Queue → Queue) : State :=
  { modDev (modQueue world 1 0 f) (fun d => { d with clk := { d.clk with tt := BitVec.ofNat 64 units } }) with hand := (1, 0) }

/-- The INJECT of graph 2, which is loaded and has no place, is first in line, and no region is held. -/
def wantingOf (w h : Nat) : State :=
  let p := packet 1 ([2, 0, 1, 0, 1] ++ List.replicate 51 0)
  let s := modGraph (heading p) 1 2 fun _ => { life := .loaded, config := { w := w, h := h, launch := [⟨0, 0, 0, 0, 0, 0, 0⟩], elems := [{ x := 0, y := 0 }] } }
  modRegion (modGraph s 1 1 fun g => { g with places := [] }) 0 fun g => { g with owner := 0, state := .free }

def wanting : State := wantingOf 32 16

theorem witness_LadderRungs_grant : fgePaused wanting = false ∧ wantsRegion wanting 1 0 = true ∧ mayHold wanting 1 0 = true ∧
    belowMax wanting 1 = true ∧ (regionOf wanting 0).owner = 0 ∧ turnOf wanting 0 = some (1, 0) ∧
    (regionOf wanting 0).last = 1 ∧ (regionOf wanting 0).task = none := by decide +kernel

/-- Region 5 was another partition's last. -/
theorem witness_LadderRungs_clearing :
    let s := modRegion wanting 5 fun g => { g with last := 2 }
    mayHold s 1 5 = true ∧ (regionOf s 5).owner = 0 ∧ turnOf s 5 = some (1, 0) ∧ (regionOf s 5).task = none := by decide +kernel

theorem witness_LadderRungs_charge :
    (∀ us ∈ [500, 501], decide (uncharged (laddered 8000000 id) < us) = (us == 501)) ∧ fgePaused (laddered 8000000 id) = false := by decide

/-- Deadlines just met and not yet met, at T1 500 µs and T2 100 µs. -/
theorem witness_LadderRungs_deadlines :
    (∀ k ∈ [7999999, 8000000], let s := laddered k fun u => { u with state := .draining }
      (queueOf s 1 0).state = .draining ∧ (partOf s 1).trace.stalled = false ∧ noStreams s 1 0 = true ∧ (partOf s 1).hold = false ∧
        decide ((queueOf s 1 0).t1lim * 16000 ≤ (tt s - (queueOf s 1 0).rungAt).toNat) = (k == 8000000)) ∧
    (∀ k ∈ [1599999, 1600000], let s := laddered k fun u => { u with state := .saving }
      (queueOf s 1 0).state = .saving ∧ decide ((queueOf s 1 0).t2lim * 16000 ≤ (tt s - (queueOf s 1 0).rungAt).toNat) = (k == 1600000)) := by
  decide

/-- A frozen region, and its context restored where it was. -/
def frozen : State := modRegion (laddered 0 fun u => { u with state := .saving }) 0 fun g => { g with state := .saving }

def restoring : State :=
  modRegion (laddered 0 fun u => { u with state := .saved, savedCtx := true }) 0 fun g => { g with
    state := .restoring, shadow := some { part := 1, queue := 0, region := 0 } }

theorem witness_LadderRungs :
    (regionOf frozen 0).state = .saving ∧ boundariesReached frozen 1 0 0 = true ∧ regionsOf frozen 1 0 = [0] ∧
    (regionOf frozen 0).task = none ∧ portsQuiet frozen 1 0 = true ∧ exchangePartner (settleStores frozen 0) 0 = none ∧
    restoreWanted restoring 1 0 = true ∧ regionsOf restoring 1 0 ≠ [] ∧ fgePaused restoring = false ∧
    (restoreMoves restoring 1 0).isSome = true := by decide +kernel

/-- The shadow banks of the frozen region hold a context of queue 1, whose turn it is. -/
theorem witness_LadderRungs_exchange :
    let s := modRegion (modQueue frozen 1 1 fun u => { u with enable := true, state := .saved, savedCtx := true }) 0 fun g =>
      { g with shadow := some { part := 1, queue := 1, region := 0 } }
    (regionOf s 0).state = .saving ∧ boundariesReached s 1 0 0 = true ∧ portsQuiet s 1 0 = true ∧
    (exchangePartner (settleStores s 0) 0).isSome = true := by decide +kernel

/-- An activation of queue 0 with a fault of a code under way, at a trace time. -/
def faulting (code : Byte) (queue : Option Nat) : State :=
  { activated [] with faults := [{ code := code, part := 1, tag := some 1, queue := queue }] }

theorem witness_FaultsAreTaken :
    (∀ code ∈ [0x01#8, 0x02#8, 0x03#8, 0x20#8, 0x23#8], ownerQueue (faulting code none) 1 1 = some 0 ∧
      fgePaused (faulting code none) = false ∧ (queueOf (faulting code none) 1 0).rung ≠ 3) ∧
    ((faulting 0x10 none).faults.map (·.code) = [0x10] ∧ fgePaused (faulting 0x10 none) = false) ∧
    ((queueOf (faulting 0x11 none) 1 3).rung ≠ 3 ∧ (faulting 0x11 none).faults.map (·.queue) = [none]) ∧
    (∀ k ∈ [159999999, 160000000], let s := laddered k fun u => { u with fireStallAt := some 0 }
      (queueOf s 1 0).fireStallAt = some 0 ∧ (queueOf s 1 0).rung ≠ 3 ∧ decide (160000000 ≤ (tt s - 0).toNat) = (k == 160000000)) ∧
    (∀ k ∈ [159999999, 160000000], let s := { laddered k (fun u => { u with stallAt := some 0 }) with
        net := [{ tok := tok 5, dest := .slot 0 0 0 .keep false }] }
      watched s 1 = true ∧ (queueOf s 1 0).stallAt = some 0 ∧ (queueOf s 1 0).fireStallAt = none ∧ queueGoes s 1 0 = true ∧ (partOf s 1).trace.stalled = false ∧
        decide (160000000 ≤ (tt s - (partOf s 1).progressAt).toNat) = (k == 160000000)) ∧
    (let s := modDev (dataRinged { plainDataRing with stallAt := some 0 }) fun d => { d with clk := { d.clk with tt := 160000000 } }
     (dringOf s 1 0).stallAt = some 0 ∧ 160000000 ≤ (tt s - 0).toNat) := by decide

theorem witness_FaultsAreTaken_paused :
    let s := modDev (faulting 0x11 none) fun d => { d with castle := { d.castle with state := .castlePoint, body := .scheduler } }
    s.faults ≠ [] ∧ fgePaused s = true := by decide

/-! ### The manager, paging and memory controllers -/

/-- `wantingOf 1 1` with region 0 held. -/
def placing : State := modRegion (wantingOf 1 1) 0 fun g => { g with owner := 1, queue := 0, state := .run }

theorem witness_ManagerTasks_place :
    (∀ q' ∈ [1, 2, 3], injectWaits placing 1 q' 2 = false ∧ openingWaits placing 1 q' 2 = false) ∧ placeWanted placing 1 0 2 = true ∧
    ((findOrigin placing 1 0 (graphOf placing 1 2).config).any fun x =>
      ((regionsUnder (graphOf placing 1 2).config x.1).all fun r => (regionOf placing r).task.isNone) && (x.2.find? fun v =>
        (regionsUnder (graphOf placing 1 2).config x.1).all fun r => versionFree placing r v).isSome) = true ∧ losslessNow placing 1 = false ∧
    ∀ q ∈ [0, 1, 2, 3], placeWanted world 1 q 1 = false := by decide +kernel

/-- Element 0 waits for slot 0 of the graph placed there. -/
def fetching : State :=
  let s := modGraph world 1 1 fun g => { g with config := { g.config with elems := [{ x := 0, y := 0, slots := [(0, 0x7C000000#32)] }] } }
  modElem s 0 fun e => { e with absent := [.slot false 0], owner := [(0, 257)], queues := [(0, [⟨tok 5, 0, 0⟩])] }

theorem witness_ManagerTasks_fetch : (elemOf fetching 0).absent.contains (.slot false 0) = true ∧
    entryAwaited (elemOf fetching 0) (.slot false 0) = true ∧ (entrySource fetching 0 (.slot false 0)).isSome = true ∧
    regionRuns fetching 0 1 = true ∧ reportable fetching 1 = true ∧ (regionOf fetching 0).task = none ∧ losslessNow fetching 1 = false := by decide

/-- Two stages on one footprint, the second swapped out with an entry in its input, bank 1 of core 0; with the first swapped out
too, the manager is in the swap. -/
def staged (out1 : Bool) : State :=
  let stage (bank : Nat) (swapped : Bool) : Graph :=
    { life := .loaded, config := { stage := true, stBank := bank }
      places := [{ cluster := 0, x0 := 0, y0 := 0, v := false, swapped := swapped }] }
  let s := modCore (modGraph (modGraph world 1 1 fun _ => stage 0 out1) 1 2 fun _ => stage 1 true) 0 fun x => { x with
    banks := [(0, { mode := .fifo, emptyAt := 5 }), (1, { mode := .fifo, entries := [tok 1] })] }
  modRegion (modDev s fun d => { d with uptime := 16005 }) 0 fun g => { g with task := if out1 then some (.swap 1 1 2) else none }

theorem witness_ManagerTasks_stages :
    (let s := staged false
     (stageOf s 1 1).any (fun p => !p.swapped && inputIdle s (graphOf s 1 1).config p &&
       stageWaiters s 1 (graphOf s 1 1).config p == [(2, 1)] && regionRuns s (originRegion p) 1 && (regionOf s (originRegion p)).task.isNone &&
       nextStage (stageWaiters s 1 (graphOf s 1 1).config p) == some 2) = true) ∧
    (let s := staged true
     (stageOf s 1 1).any (fun p => p.swapped && regionRuns s (originRegion p) 1 && versionFree s (originRegion p) p.v &&
       (regionOf s (originRegion p)).task == some (.swap 1 1 2) && (stageOf s 1 2).any fun p' => p'.swapped && p.queue == p'.queue &&
       sameFootprint ((graphOf s 1 1).config, p) ((graphOf s 1 2).config, p') &&
       !stageTaken s 1 (graphOf s 1 2).config { p' with v := p.v }) = true) := by decide

/-- A fault on page 6, whose entry stands at 0x2030; with its tables, a walk of page 7 finds a leaf. -/
def pageWaiting (resolved : Bool) : State :=
  { world with pageFaults := [{ part := 1, page := 6, pteAddr := 0x2030, resolved := resolved }]
               tlb := store world.tlb (2 ^ 45 + 6) (some (0x901F, 5))
               mem := [(0x1000, 1), (0x1001, 0x20), (0x2000, 1), (0x2001, 0x30), (0x3000, 1), (0x3001, 0x40), (0x4000, 1), (0x4001, 0x50),
                       (0x5038, 0x1F), (0x5039, 0x90)] }

theorem witness_TranslationEvents :
    (partOf (pageWaiting false) 1).ptEn = true ∧ walk (pageWaiting false) 1 (7 * 4096 % 2 ^ 57) = .leaf 0x901F 5 ∧
    (faultOf (pageWaiting false) 1 6).isSome = true ∧ lostAt (pageWaiting false) 0x2030 = false ∧ (pageWaiting false).memOk = true ∧
    (faultOf (pageWaiting true) 1 6).any (·.resolved) = true ∧ resolve (pageWaiting true) 0 1 (6 * 4096) = .leaf 0x901F 5 ∧
    (let hp := hostPage 3 0x9000
     let s (n : Nat) : State := { world with pageFaults := (List.range n).map (fun k => { part := 1, page := hostPage 3 (0xA000 + k) }) ++
       [{ part := 1, page := hp }] }
     ∀ k ∈ [0, 512], (faultOf (s k) 1 hp).any (fun f => (priAsked (s k)).contains f) = (k == 0) ∧ 2 ^ 52 ≤ hp) ∧
    (invalidating world = false ∧ invalidating { world with posted := [{ owner := 1, part := 1, region := 0, writes := [], stale := true }] } = true) ∧
    (let s := { world with atsPending := [2 ^ 52 * (3 + 1) + 9] }
     2 ^ 52 * (3 + 1) + 9 % 2 ^ 52 ∈ s.atsPending ∧ 2 ^ 52 * (3 + 1) + 8 % 2 ^ 52 ∉ s.atsPending) ∧
    (0x7FFFFFFFFF < 0x8000000000 ∧ (0 : Nat) < 2 ^ 45 ∧ 2 ^ 45 - 1 < 2 ^ 45) := by decide +kernel

/-! ### Trace rings, stages, time, links, castling -/

/-- The world with partition 1's trace ring as given and one event for it. -/
def tracing (g : TraceRing) : State :=
  { modPart world 1 (fun p => { p with trace := g }) with
    traceOut := [{ tt := 5, ctx := 1, die := 0, clamp := false, lock := false, cls := 0, code := 0, source := 7, payload := 9 }] }

def openRing : TraceRing := { base := 0x5000, en := true, log2 := 8, cls := 0xFFFFFFFF }

theorem witness_TraceRings :
    (∀ tail ∈ [255, 256], let s := tracing { openRing with tail := BitVec.ofNat 32 tail }
      (s.traceOut.all fun e => ringsFor e == [1] && passes (ringAt s 1) e && !mustWait s e 1) = true ∧
        (partOf s 1).trace.stalled = false ∧ (ringAt s 1).unreported = 0 ∧
        decide (((ringAt s 1).tail - (ringAt s 1).head).toNat < 2 ^ (ringAt s 1).log2) = (tail == 255)) ∧
    (ringPlaces (tracing openRing) 1 0x5000).isSome = true ∧
    ((ringAt world 1).en = false ∧ 8 ≤ (0x10 : Nat) / 2 % 32 ∧ (0x30 : Nat) / 2 % 32 ≤ 24) ∧
    (∀ k ∈ [159999999, 160000000], let s := modQueue (tracing { openRing with lossless := true, rungStall := [(0, k)] }) 1 0 fun u =>
        { u with state := .saving }
      (ringAt s 1).en = true ∧ (ringAt s 1).lossless = true ∧ inRung (queueOf s 1 0) = true ∧
        decide (160000000 ≤ lookup 0 (ringAt s 1).rungStall 0) = (k == 160000000)) ∧
    (holder world 0 = 1 ∧ (regionOf world 0).state ≠ .restoring ∧ holder world 23 ≠ 1) := by decide

theorem witness_RegisterWrites : 1 ≤ 24 ∧ 24 ≤ 24 ∧ 4 % 8 ≠ 0 ∧ 0x4000000 ≤ 0x4000000 ∧ (1#64).getLsbD 8 = false := by decide

/-- The machine at a stage. -/
def atStageOf (g : Stage) : State := { world with dev := { world.dev with stage := g, clk := { world.dev.clk with lock := true } } }

theorem witness_StartUpStages :
    State.reset.dev.stage = .off ∧ State.reset.dev.perst = true ∧
    (∀ t ∈ [800000000, 800000001], let s := modDev (atStageOf .booting) fun d => { d with uptime := t }
      s.dev.stage = .booting ∧ decide (s.dev.uptime ≤ 800000000) = (t == 800000000)) ∧
    (∀ t ∈ [4800000000, 4800000001], let s := modDev (atStageOf .s0) fun d => { d with uptime := t }
      s.dev.stage = .s0 ∧ s.dev.perst = false ∧ s.dev.linkUp = true ∧ decide (s.dev.uptime - s.dev.perstAt ≤ 4800000000) = (t == 4800000000)) ∧
    (let s := modDev (atStageOf .s1) fun d => { d with trained := s2Units }
     s.dev.stage = .s1 ∧ s.dev.aux54 = true ∧ (∀ u ∈ s2Units, u ∈ s.dev.trained) ∧ 1 ∉ (atStageOf .s1).dev.trained) ∧
    (∀ t ∈ [63999999999, 64000000000], ∀ l ∈ [[], [1]],
      let s := modDev (atStageOf .s1) fun d => { d with uptime := t, retried := l }
      s.dev.stage = .s1 ∧ s.dev.aux54 = true ∧ 1 ∉ s.dev.trained ∧ 1 ∉ s.dev.failed ∧ controllerPaused s = false ∧ s.dev.retried = l ∧
        decide (64000000000 ≤ s.dev.uptime - s.dev.perstAt) = (t == 64000000000)) ∧
    ((atStageOf .s2).dev.stage = .s2 ∧ (atStageOf .s2).dev.clk.lock = true ∧ (atStageOf .s2).dev.expanders = []) ∧
    (∀ u ∈ [1#8, 8#8, 0x10#8, 0x15#8], 1 ≤ u.toNat ∧ u.toNat ≤ 8 ∨ 0x10 ≤ u.toNat ∧ u.toNat ≤ 0x15) ∧
    (900 ≤ 900 ∧ 1800 ≤ 1800) := by decide

theorem witness_Resets : world.dev.featAct.getLsbD 12 = true ∧ world.dev.linkUp = true ∧ castling world = false ∧
    world.dev.castle.latched = [] := by decide

theorem witness_Sideband : sidebandUp world = true ∧ (world.dev.stage = .s2 ∨ world.dev.stage = .s3) ∧
    (600 ≤ world.dev.clockMHz ∧ world.dev.clockMHz ≤ 1200 ∧ world.dev.clockMHz < 625) ∧ 1175 ≤ 1175 ∧ 899 < 900 ∧ 1800 < 1801 ∧
    world.dev.xmssIndex < 1048576 ∧ controllerPaused world = false ∧ wearDue world = true ∧ world.dev.wearNext = none ∧
    wearDue (modDev world fun d => { d with wearAt := some 0, uptime := 959999999999 }) = false ∧
    wearDue (modDev world fun d => { d with wearAt := some 0, uptime := 960000000000 }) = true := by decide

/-- The controller's pause, with seven and eight messages latched. -/
theorem witness_Sideband_paused : ∀ k ∈ [7, 8],
    let s := modDev world fun d => { d with castle := { d.castle with state := .castlePoint, body := .controller
                                                                      latched := List.replicate k (plain (.powerCapSet 1000), 0) } }
    sidebandUp s = true ∧ controllerPaused s = true ∧ decide ((s.dev.castle.latched.filter fun x => isMessage x.1).length < 8) = (k == 7) := by
  decide

/-- The world at a trace time, its clock stepped. -/
def clocked (units : Nat) (tod : Option Nat) : State :=
  modDev world fun d => { d with clk := { d.clk with tt := BitVec.ofNat 64 units, stepped := true, tod := tod } }

/-- Offsets of 20 ns, of 1 µs and beyond, from the second 2. -/
theorem witness_TimeDiscipline :
    (sidebandUp world = true ∧ world.dev.clk.stepped = false ∧ world.dev.clk.tod = none) ∧
    (∀ k ∈ [320, 321, 16000, 16001], let c := (clocked (32000000000 + k) none).dev.clk
      c.stepped = true ∧ c.tt.toNat = 32000000000 + k ∧ (32000000000 + k + 8000000000) / 16000000000 = 2 ∧ c.rejects.length < 2) ∧
    (let c := (clocked 24000000000 none).dev.clk
     c.holdover = false ∧ 24000000000 ≤ (c.tt - 0).toNat ∧ c.slewAcc < 1000) ∧
    (24 < (25#16).toInt.natAbs ∧ (24#16).toInt.natAbs ≤ 24) ∧ controllerPaused world = false ∧
    (modDev world fun d => { d with clk := { d.clk with lastEdge := some 0 } }).dev.clk.lastEdge = some 0 ∧ world.dev.clk.lastEdge = none ∧
    (clocked (2 ^ 64 - 1) none).dev.clk.tt.toNat = 2 ^ 64 - 1 := by decide

/-- Timers run in the world, and none is due; a deadline just met is. -/
theorem witness_TimeDiscipline_timers :
    (let s := { world with agenda := [.elapse 8001] }
     s.agenda = .elapse 8001 :: [] ∧ timersRun s = true ∧ (timerItems s).find? (changes s) = none) ∧
    (let s := { laddered 8000000 (fun u => { u with state := .draining }) with agenda := [.elapse 1] }
     ((timerItems s).find? (changes s)).isSome = true) ∧ timersRun State.reset = false := by decide +kernel

theorem witness_LinkEvents :
    (sidebandUp world = true ∧ world.dev.perst = false ∧ 32 ∈ [32, 64, 128] ∧ 16 ∈ [1, 4, 8, 16] ∧ 16 ∉ [32, 64, 128]) ∧
    (world.dev.linkUp = true ∧ world.dev.orderlyDown = false ∧ restoreWanted world 1 0 = false) ∧
    (∀ rung ∈ [0, 2], let s := modDev (laddered 0 fun u => { u with state := .linkLost, rung := rung }) fun d => { d with linkUp := false }
      s.dev.linkUp = false ∧ s.dev.linkGts ≠ 0 ∧ (queueOf s 1 0).state = .linkLost ∧ (queueOf s 1 0).rung = rung ∧
        (queueOf s 1 0).held = [] ∧ (partOf s 1).mbx.reserve = []) ∧
    (let s := modDev (laddered 0 fun u => { u with state := .saved }) fun d => { d with linkUp := false }
     s.hand = (1, 0) ∧ s.dev.linkUp = false ∧ s.dev.orderlyDown = false ∧ (queueOf s 1 0).state = .saved) ∧
    (∀ k ∈ [959999999999, 960000000000], let s := laddered k fun u => { u with state := .recovery }
      (queueOf s 1 0).state = .recovery ∧ (queueOf s 1 0).held = [] ∧ (partOf s 1).acts.any (·.queue == 0) = false ∧
        decide (s.dev.recoveryS * 16000000000 ≤ (tt s - (queueOf s 1 0).rungAt).toNat) = (k == 960000000000)) := by decide

theorem witness_LinkEvents_bar2 :
    (0x7FFFFFFFFC + [1, 2, 3, 4].length ≤ 2 ^ world.dev.bar2log2 ∧
      (List.range 4).all (fun i => backed world (world.dev.bar2base.toNat + 0x7FFFFFFFFC + i)) = true) ∧
    (let s := modDev world fun d => { d with bar2base := 0x8000000000 }
     backed s (s.dev.bar2base.toNat + 0) = false) ∧ world.memOk = true ∧
    (world.dev.aux54 = true ∧ 128 ≤ 128 ∧ 16 ∈ [1, 2, 4, 8, 16]) ∧
    (let s := modDev world fun d => { d with expanders := [⟨0x10000000000, 0x1000, 1, 0, true⟩] }
     s.dev.expanders[0]? = some ⟨0x10000000000, 0x1000, 1, 0, true⟩ ∧ expandersOk s.dev.expanders = true) := by decide

/-- A link that is not in FLIT mode, interleaved expanders, and a flit with granules of both memories. -/
theorem witness_LinkEvents_links :
    (false = false ∨ 16 ∉ [32, 64, 128]) ∧ controllerPaused world = false ∧
    expandersOk [⟨0x10000000000, 0x1000, 2, 0, true⟩, ⟨0x10000000000, 0x1000, 2, 1, true⟩] = true ∧ world.dev.linkUp = true ∧ world.dev.orderlyDown = false ∧
    (modDev world fun d => { d with linkUp := false }).dev.linkUp = false := by decide

/-- Castling in a state, at a trace time. -/
def castled (k : Nat) (st : CastleState) : State :=
  modDev world fun d => { d with
    clk := { d.clk with tt := BitVec.ofNat 64 k }
    castle := { d.castle with state := st, image := some blankImage, verified := true, current := [(.engine, blankImage)] } }

theorem witness_CastlingSteps :
    (∀ st ∈ [CastleState.verify, .staged, .castlePoint, .probation, .idle], let s := castled 0 st
      sidebandUp s = true ∧ s.dev.castle.state = st ∧ s.dev.castle.image = some blankImage ∧ s.dev.castle.verified = true ∧
        s.dev.castle.body = .engine ∧ 169 ∉ s.dev.castle.swapped) ∧
    (∀ k ∈ [159999999, 160000000], (tt (castled k .probation) - (castled k .probation).dev.castle.beatAt).toNat = k) ∧
    (let s := modDev (castled 16000000000 .probation) fun d => { d with castle := { d.castle with beatAt := 16000000000 } }
     16000000000 ≤ (tt s - s.dev.castle.importAt).toNat ∧ (tt s - s.dev.castle.beatAt).toNat ≤ 160000000 ∧
       imageOf s s.dev.castle.body = blankImage) := by decide

/-- Before the castle point a manager is in a task, or none is; and an engine runs on, or stalls for its swap. -/
theorem witness_CastlingSteps_boundaries :
    (let c (s : State) : State := modDev s fun d => { d with castle := { d.castle with body := .scheduler } }
     (∃ r ∈ (c (modRegion (castled 0 .staged) 0 fun g => { g with task := some (.load 1 1) })).regions, r.2.task ≠ none) ∧
       ∀ r ∈ (c (castled 0 .staged)).regions, r.2.task = none) ∧
    (let s := castled 0 .castlePoint
     s.dev.castle.stall = none ∧ engineAtBoundary s 0 = true ∧
       engineAtBoundary { s with cmds := [{ command 0xC0 0 with issued := true, row := 3 }] } 0 = false ∧
       (modDev s fun d => { d with castle := { d.castle with stall := some 0 } }).dev.castle.stall = some 0) ∧
    (castled 0 .castlePoint).dev.castle.latched = [] := by decide

theorem witness_CastlingSteps_swapped :
    ∀ e < 170, e ∈ (modDev world fun d => { d with castle := { d.castle with swapped := List.range 170 } }).dev.castle.swapped :=
  fun _ h => List.mem_range.2 h

/-- The sizes at the ends of the range, and pushes that pass and fail. -/
theorem witness_CastlingSteps_window :
    atStage world .s1 = true ∧ (64 % 64 = 0 ∧ 64 ≤ 64 ∧ 2 ^ 28 % 64 = 0 ∧ 2 ^ 28 ≤ 2 ^ 28) ∧
    (let s := modDev world fun d => { d with staging := { state := 1, size := 64, total := 64, len := 64 } }
     let g := s.dev.staging
     g.push = false ∧ g.state = 1 ∧ g.len.toNat % 64 = 0 ∧ g.len ≠ 0 ∧ g.off = g.received ∧ g.received ≠ g.total) ∧
    (modDev world fun d => { d with staging := { state := 1, push := true } }).dev.staging.push = true ∧
    (∀ req ∈ [false, true], let s := modDev world fun d => { d with staging := { state := 1, total := 64, received := 64, requested := req } }
      s.dev.staging.total ≠ 0 ∧ s.dev.staging.received = s.dev.staging.total ∧ s.dev.staging.requested = req) := by decide

/-- What EventsComplete asks beyond the witnesses of the other statements. -/
theorem witness_EventsComplete :
    (sidebandUp world = true ∧ controllerPaused world = false ∧ castling world = false ∧ castleOffered world .engine = true ∧
      world.dev.log.length < Config.measurementLogEntries ∧ atStage world .s1 = true) ∧
    (modDev world fun d => { d with linkUp := false }).dev.linkGts ≠ 0 ∧
    (0 % 2 ^ world.dev.bar2log2 = 0 ∧ backed world (world.dev.bar2base.toNat + 0) = true) ∧ world.dev.perst = false ∧ world.memOk = true ∧
    ((castled 0 .verify).dev.castle.image = some blankImage ∧
      (let img := { blankImage with signatureOk := true, importLo := 0, importHi := 9, writes := [0] }
       refusal (castled 0 .verify) .engine img = none)) ∧
    (let s := modDev (castled 0 .castlePoint) fun d => { d with castle := { d.castle with swapped := List.range 170 } }
     s.dev.castle.latched = [] ∧ allSwapped s.dev.castle = true) ∧ atCastlePoint (castled 0 .staged) = true ∧
    (let g : Staging := { state := 1, size := 64, total := 64, len := 64 }
     sizeOk g.size.toNat = true ∧ 64 ≤ g.len.toNat ∧ g.len.toNat % 64 = 0 ∧ g.len.toNat ≤ 2 ^ 23 ∧ g.off = g.received ∧
       g.off.toNat + g.len.toNat ≤ g.total.toNat) := by decide

/-! ### Decoding and stepping -/

theorem witness_DecodeAndEncodeAgree : (Instr.iadds 0 1 1 0 0).wellFormed = true ∧ encode (.iadds 0 1 1 0 0) = some 0x03010400#32 ∧
    decode 0x03010400 = .ok (.iadds 0 1 1 0 0) := ⟨by decide, rfl, rfl⟩

theorem witness_StepRunsDecoded :
    (let s := State.reset.withFetchWord 32 0x03010400
     ∃ rest, s.agenda = .fire firstSite :: rest ∧
       decode (lookup 0 (elemOf s 0).instr (key16 false 0)) = .ok (.iadds 0 1 1 0 0)) ∧
    (let s := State.reset.withFetchWord 32 0
     decode (lookup 0 (elemOf s 0).instr (key16 false 0)) = .error .void) ∧ 0x03010400 < 2 ^ 32 :=
  ⟨⟨[], rfl, rfl⟩, rfl, by decide⟩

/-- A placed instruction is what the next step runs. -/
theorem test_step_runs_placed_word : step (State.reset.withFetchWord 32 0x03010400) =
    exec (.iadds 0 1 1 0 0) { placeWord State.reset 0x03010400 with agenda := [], focus := some firstSite } := rfl

theorem witness_StepKeepsMemory : State.reset.memOk = true ∧ ∃ t, step (State.reset.withFetchWord 32 0x03010400) = .next t :=
  ⟨by decide, _, rfl⟩

theorem witness_FiringFrame : encode (.iadds 0 1 1 0 0) = some 0x03010400#32 ∧
    (∃ t, exec (.iadds 0 1 1 0 0) ints = .next t) ∧ (∃ t, exec (.mbxs 0 1 0 0) ints = .next t) ∧
    (slotInHand ints).isSome = true ∧ (∃ t, exec (.qput 0 1 1 0 0) ints = .next t) ∧
    (readyFiring qputOp (form 0xAA 0 1 1 0 0) ints).isSome = true := ⟨rfl, ⟨_, rfl⟩, ⟨_, rfl⟩, by decide, ⟨_, rfl⟩, by decide⟩

/-! ### Further clauses -/

/-- A busy divider. -/
theorem witness_DivisionResults_busy :
    let s := modElem ints 0 fun e => { e with divider := some (257, 1) }
    (slotInHand s).any (fun h => (elemOf s h.el).divider.isSome) = true := by decide

/-- A NaN, an infinity, a zero and a finite number, and scales and elements of each kind. -/
theorem witness_ConversionResults_values :
    f32 0x7FC00000 = .nan ∧ f32 0xFF800000 = .inf true ∧ f32 0x3F800000 = .fin false 8388608 (-23) ∧ (8388608 : Nat) ≠ 0 ∧
    valueOf fp16 0x3C00 = .fin false 1024 (-10) ∧ valueOf fp16 0x7C00 = .inf false ∧ valueOf fp16 0x0000 = .fin false 0 (-24) ∧
    valueOf e4m3 0x7F = .nan ∧ valueOf e5m2 0x7C = .inf false ∧ valueOf e4m3 0x38 = .fin false 8 (-3) := by decide

theorem witness_ConversionResults_zero : (∃ neg m e, f32 0 = .fin neg m e ∧ m = 0) ∧
    ∀ rs, some rs ∈ [some [({ code := 1 } : Rounded)], none] → rs.length = 1 := by
  refine ⟨⟨_, _, _, rfl, rfl⟩, ?_⟩
  intro rs h
  simp only [List.mem_cons, Option.some.injEq, reduceCtorEq, List.not_mem_nil, or_false] at h
  rw [h]; rfl

/-- The world with a scratch access at lane 0 of `a`, a word address, and a bank of the core of region 0 in a mode. -/
def scratching (op : Nat) (at_ : Nat) (p : Option Token) (b : Bank) : State :=
  let s := modCore world 0 fun x => { x with banks := [(0, b)] }
  { s with reqs := [{ op := op, el := 0, cfg := 257, region := 0, port := 0, a := tok (BitVec.ofNat 32 (4 * at_)), bsel := 0, p := p, hdr := tok 0 }] }

theorem atPort (op at_ : Nat) (p : Option Token) (b : Bank) :
    AtPort (scratching op at_ p b) 0 { op := op, el := 0, cfg := 257, region := 0, port := 0, a := tok (BitVec.ofNat 32 (4 * at_)), bsel := 0, p := p, hdr := tok 0 } op :=
  ⟨rfl, rfl, rfl, rfl, rfl, rfl, show holder world 0 = cfgPart 257 by decide⟩

/-- Words in a SCRATCH bank, a CACHE bank, the spill ring, beyond the cores, in a foreign core, in FIFO banks and at control words. -/
theorem witness_LocalDataResults_scratch :
    (∀ op ∈ [0x82, 0x83], ∃ r, AtPort (scratching op 5 (some (tok 7)) { mode := .scratch }) 0 r op) ∧
    InBank (scratching 0x82 5 none { mode := .scratch }) 1 0 5 .scratch ∧ InBank (scratching 0x82 5 none { mode := .cache }) 1 0 5 .cache ∧
    (spillBank (scrAt (30 * 2 ^ 15)).1 (scrAt (30 * 2 ^ 15)).2.1 = true ∧ holdsCore world 1 0 (scrAt (30 * 2 ^ 15)).1 = true) ∧
    (24 ≤ (scrAt (24 * 2 ^ 20)).1 ∧ (scrAt (30 * 2 ^ 20)).1 ≤ 30) ∧ Foreign world 1 0 (6 * 2 ^ 20) ∧
    (∀ es ∈ [[], [tok 1]], let s := scratching 0x82 5 none { mode := .fifo, entries := es }
      InBank s 1 0 5 .fifo ∧ (bankOf s 0 0 0).entries = es) ∧
    ((scrAt (31 * 2 ^ 20)).1 = 31 ∧ (scrAt (31 * 2 ^ 20 + 24 * 2 ^ 15)).2.1 = 24 ∧ holdsCore world 1 0 0 = true ∧ spillBank 0 0 = false ∧
      holdsCore world 1 0 6 = false) := by
  refine ⟨fun op h => ⟨_, atPort op 5 _ _⟩, ?_⟩
  unfold InBank Foreign
  decide

/-- Every mode that a control word can be given, and the one it has; banks of every number of entries. -/
theorem witness_LocalDataResults_control :
    [0#32, 1, 2, 3].map (·.toNat % 4) = [0, 1, 2, 3] ∧
    (bankOf (scratching 0x83 5 none { mode := .scratch }) 0 0 0).mode = .scratch := by decide

theorem witness_LocalDataResults_full : ∃ es : List Token,
    (bankOf (scratching 0x83 5 none { mode := .fifo, entries := es }) 0 0 0).entries = es ∧ es.length = 2730 :=
  ⟨List.replicate 2730 (tok 1), rfl, List.length_replicate⟩

theorem witness_MemoryRequests_fifo : ∀ es ∈ [[], [tok 1]],
    let s := modCore (memoryReady 0) 0 fun x => { x with banks := [(0, { mode := .fifo, entries := es })] }
    CanGo s (form 0x82 0 0 1 2 0) false (fun f s1 _ => fifoWaits s1 f == es.isEmpty) ∧
    CanGo s (form 0x83 0 0 1 2 0) false (fun f s1 _ => !fifoWaits s1 f) := by
  intro es h
  simp only [List.mem_cons, List.not_mem_nil, or_false] at h
  rcases h with rfl | rfl <;> exact ⟨canGo_iff (by decide), canGo_iff (by decide)⟩

/-- The world with a request of an opcode at port 0 of region 0 and record 0 as given. -/
def recorded (op : Nat) (bsel : Word) (p : Option Token) (rc : Rec) : State :=
  modGraph (requesting op bsel p) 1 1 fun g => { g with config := { g.config with recs := [(0, rc)] } }

theorem recordedAt (op : Nat) (bsel : Word) (p : Option Token) (rc : Rec) : ∃ r, AtPort (recorded op bsel p rc) 0 r op ∧
    r.p = p ∧ r.bsel = bsel ∧ r.cfg = 257 ∧ r.el = 0 :=
  ⟨_, ⟨rfl, rfl, rfl, rfl, rfl, rfl, show holder world 0 = cfgPart 257 by decide⟩, rfl, rfl, rfl, rfl⟩

/-- PREFG with room, with 1,024 windows, with windows of 128 MiB, and through a record of SPACE 1. -/
theorem witness_LoadResponse_prefg :
    (∃ r, AtPort (recorded 0x90 0 none record) 0 r 0x90) ∧ recOf (recorded 0x90 0 none record) 257 0 = some record ∧
    recOf (recorded 0x90 0 none { record with space := 1 }) 257 0 = some { record with space := 1 } ∧ record.space = 0 ∧
    world.dev.windows = [] ∧ 2 ^ 16 ≤ 2 ^ 27 ∧
    (let s := modDev world fun d => { d with windows := [{ die := 0, part := 1, base := 0, bytes := 2 ^ 27, left := 1 }] }
     2 ^ 27 < ((s.dev.windows.filter fun w => w.die == 0).map (·.bytes)).sum + 2 ^ 16) := by
  refine ⟨(recordedAt ..).imp fun _ h => h.1, ?_⟩
  decide

/-- A write to the host that the read comes after, and none. -/
theorem witness_LoadResponse_hostFirst :
    world.posted.any (hostFirst 0) = false ∧ (posting world true).posted.any (hostFirst 0) = true := by decide

/-- APPEND of a packet of three lanes, two of them unmasked. -/
theorem witness_StoreResponse_append :
    let p : Token := { lanes := [1, 2, 3], mask := 5 }
    let s := recorded 0x8F 0 (some p) record
    (∃ r, AtPort s 0 r 0x8F) ∧ recOf s 257 0 = some record ∧ fmtCode record.fmt ≤ 2 ∧ p.fmt = record.fmt ∧
    (match lanePlaces s 0 257 record (clipCoord record [0, 0, 0, 0]) .write [0, 2] with
     | .ok ps => !linkWaits s ps && ps.length == 2 | .error _ => false) = true := by
  refine ⟨(recordedAt ..).imp fun _ h => h.1, ?_⟩
  decide

/-- An atomic of four lanes, two pairs of ATCAS, a record of another format, and scratch words held, missing and foreign. -/
theorem witness_AtomicResponse_lanes :
    let p : Token := { lanes := [1, 2, 3, 4], mask := 0xF }
    (∀ op ∈ [0x86, 0x8D], ∃ r, AtPort (recorded op 0 (some p) record) 0 r op) ∧
    (match lanePlaces (recorded 0x86 0 (some p) record) 0 257 record (coordOf record (tok 0)) .atomic [0, 1, 2, 3] with
     | .ok ps => !linkWaits world ps && ps.length == 4 | .error _ => false) = true ∧
    ¬ (fmtCode Fmt.bf16 ≤ 1) ∧ p.fmt ≠ .f32 ∧ (0x80000000#32).getLsbD 31 = true ∧
    (InBank world 1 0 0 .scratch ∧ ¬ Foreign world 1 0 0) ∧ Foreign world 1 0 (6 * 2 ^ 20) ∧
    ¬ InBank world 1 0 (24 * 2 ^ 20) .scratch ∧ ¬ Foreign world 1 0 (24 * 2 ^ 20) := by
  refine ⟨fun op _ => (recordedAt ..).imp fun _ h => h.1, ?_⟩
  unfold InBank Foreign
  decide

/-- The bytes of a message and of a packet have places, which differ, and the record reads. -/
theorem witness_MessagesFromGraphs_places :
    (match placesVia (fun a => translateRing world 1 false 0 a .write) 0x5800 64 with | .ok ps => decide ps.Nodup | .error _ => false) = true ∧
    (match placesVia (fun a => translateRing world 1 false 0 a .write) 0x5400 64 with | .ok ps => decide ps.Nodup | .error _ => false) = true ∧
    done? (loadRecord world (seenWord world 0) 0 257 record (clipCoord record [0]) 16) = true ∧ (releaseSys world 0).isSome = true ∧
    world.memOk = true ∧ world.dev.lostRanges = [] := by decide +kernel

/-- The token of `arriving`, whose element is changed. -/
def arrivingAt (w : Word) (attr : BitVec 16) (x : Token) (f : Element → Element) : State := modElem (arriving w attr x) 0 f

theorem landsAt (w : Word) (attr : BitVec 16) (x : Token) (f : Element → Element)
    (h : let s := arrivingAt w attr x f
      regionRuns s 0 x.ctx = true ∧ swappedAt s 0 x = none ∧ quietElem (elemOf s 0) = true ∧ (regionOf s 0).spill = [] ∧
        reportable s x.ctx = true) :
    ∃ base, Lands (arrivingAt w attr x f) 0 0 0 0 false x base :=
  ⟨_, _, .keep, rfl, rfl, rfl, rfl, by decide, rfl, h.1, h.2.1, h.2.2.1, h.2.2.2.1, h.2.2.2.2, rfl⟩

/-- CONV names route 1; a CTRL token; a stream bound to another tag, which has not ended; a spilled part; an early term. -/
theorem witness_TokensReachFields_others :
    (let f (e : Element) : Element := { e with routes := [(1, 0x80000000#32)] }
     (∃ base, Lands (arrivingAt 0x01010400 0x4 (tok 5) f) 0 0 0 0 false (tok 5) base) ∧
       (0x4#16).toNat / 4 % 64 = 1 ∧ ∃ d, route (arrivingAt 0x01010400 0x4 (tok 5) f) 0 false 1 = some d) ∧
    (∃ base, Lands (arriving 0x01010400 0x100 { tok 5 with kind := .ctrl }) 0 0 0 0 false { tok 5 with kind := .ctrl } base) ∧
    (let f (e : Element) : Element := { e with streamTag := [(0, some 9)] }
     let s := arrivingAt 0x01010400 0x102 (tok 5) f
     (∃ base, Lands s 0 0 0 0 false (tok 5) base) ∧ (0x102#16).getLsbD 1 = true ∧
       lookup none (elemOf s 0).streamTag (key16 false 0) = some 9 ∧ (9 : Tag) ≠ (tok 5).tag ∧
       streamEnding (elemOf s 0) 257 0 0x01010400 9 = false) ∧
    (let f (e : Element) : Element := { e with parts := [], spilled := [{ cfg := 257, tag := 1 }] }
     (∃ base, Lands (arrivingAt 0x01010400 0x100 (tok 5) f) 0 0 0 0 false (tok 5) base) ∧
       (elemOf (arrivingAt 0x01010400 0x100 (tok 5) f) 0).spilled.any (fun p => p.cfg == 257 && p.tag == 1) = true) ∧
    (∃ base, Lands (arriving 0x75010400 0x100 { tok 5 with seq := 3 }) 0 0 0 0 false { tok 5 with seq := 3 } base) ∧
    (3 - 0 : BitVec 12).toNat < 16 ∧ (3 : BitVec 12) ≠ 0 :=
  ⟨⟨landsAt _ _ _ _ (by decide), by decide, ⟨_, rfl⟩⟩, lands _ _ _ (by decide), ⟨landsAt _ _ _ _ (by decide), by decide⟩,
    ⟨landsAt _ _ _ _ (by decide), by decide⟩, lands _ _ _ (by decide), by decide, by decide⟩

/-- A tag with no part: within the quota, and at it, with a part that is spilled. -/
theorem witness_TokensReachFields_parts :
    ∀ k ∈ [55, 56],
      let f (e : Element) : Element := { e with parts := (List.range k).map fun i => { cfg := 257, tag := BitVec.ofNat 16 (i + 2), touch := i } }
      let s := arrivingAt 0x01010400 0x100 (tok 5) f
      (∃ base, Lands s 0 0 0 0 false (tok 5) base) ∧ findPart (elemOf s 0) 257 1 = none ∧ quotaOf s 257 = 56 ∧
      ((elemOf s 0).parts.filter (·.cfg == 257)).length = k ∧ spilledIn s 0 < 16384 ∧
      ((elemOf s 0).parts.head?.any fun v => !(v.fresh || firingInFlight s 0 v) &&
        ((elemOf s 0).parts.drop 1).all fun p => decide (v.touch < p.touch)) = true := by
  intro k h
  simp only [List.mem_cons, List.not_mem_nil, or_false] at h
  rcases h with rfl | rfl <;> exact ⟨landsAt _ _ _ _ (by decide), by decide⟩

/-- A queue with eight tokens: the ninth goes to the spill ring. -/
theorem witness_TokensReachFields_spill :
    let s := modElem (arriving 0x01010400 0x100 (tok 5)) 0 fun e => { e with
      queues := [(0, List.replicate 8 ⟨tok 6, 0, 0⟩)], parts := [{ cfg := 257, tag := 1, fields := [(0, some (.tok (tok 6)))] }] }
    let u := noteAck (modRegion { s with net := dropAt s.net 0 } 0 fun g => { g with spill := g.spill ++ [(0, ⟨tok 5, 0, 0⟩)] }) 0 none
    8 ≤ (lookup [] (elemOf s 0).queues 0).length ∧ (regionOf s 0).spill.length < Config.spillRingTokens ∧ losslessNow s 1 = false ∧
    regionRuns s 0 1 = true ∧ swappedAt s 0 (tok 5) = none ∧ settle u 0 = u := by decide +kernel

/-- An element with any number of spilled parts of other tags, and a token of a new one. -/
def crowded (l : List FramePart) : State :=
  { arriving 0x01010400 0x100 (tok 5) with
    elems := [(0, { instr := [(0, 0x01010400)], owner := [(0, 257)], attrs := [(0, 0x100)], spilled := l
                    parts := (List.range 56).map fun i => { cfg := 257, tag := BitVec.ofNat 16 (i + 2), touch := i } })] }

theorem witness_TokensReachFields_full :
    (∀ l, spilledIn (crowded l) 0 = l.length) ∧ (∃ l : List FramePart, l.length = 16384 ∧ ∀ p ∈ l, p.tag = 100) ∧
    regionRuns (crowded []) 0 1 = true ∧ findPart (elemOf (crowded []) 0) 257 1 = none ∧ (elemOf (crowded []) 0).parts.length = 56 := by
  refine ⟨fun l => by simp [spilledIn, crowded, show elemRegion 0 = 0 by decide], ⟨List.replicate 16384 { cfg := 257, tag := 100 }, List.length_replicate, ?_⟩, by decide⟩
  intro p h
  rw [List.eq_of_mem_replicate h]

/-- A command that waits on its FIFO is ILLEGAL by now, or is not: SHIDX's key set has gone, and a code that no earlier command
bears on. -/
theorem witness_EngineCommandLife_check :
    (let c := { command 0xDB 9 with hdr := 0x010000 }
     let s := inEngine c [tok 1]
     c.parked = none ∧ c.code ∈ [0xB0, 0xC5, 0xD1, 0xD4, 0xD8, 0xD9, 0xDA, 0xDB, 0xDC, 0xE0] ∧ cmdRuns s c = true ∧ hasTurn s c = true ∧
       (match issueCheck s c with | .done true => true | _ => false) = true ∧ c.code ≠ 0xDA ∧ fifoOf s c c.waitf = [(0, tok 1)]) ∧
    (let c := { command 0xC3 0 with hdr := 0x010000 }
     c.parked = none ∧ c.code ∉ [0xB0, 0xC5, 0xD1, 0xD4, 0xD8, 0xD9, 0xDA, 0xDB, 0xDC, 0xE0] ∧
       (match issueCheck (inEngine c [tok 1]) c with | .done false => true | _ => false) = true) := by decide

/-- A command with a completion and an answer. -/
theorem witness_EngineCommandLife_before :
    let c := { command 0xC3 0 with hdr := 0x001000, issued := true, finished := true, done := some [0, 0], answers := [tok 1] }
    c.done.isSome = true ∧ c.answers ≠ [] ∧ cmdRuns (inEngine c []) c = true := by decide

theorem witness_EngineEvents_drop :
    let f : Flight := { tok := tok 1, dest := .engine 0 6 .keep }
    let s : State := { world with net := [f] }
    s.net[0]? = some f ∧ (s.net.take 0).any (sameWay f) = false ∧ reportable s 1 = true := by decide

/-- Two rings, the first with a packet tied to another, the second with a tied packet not yet published; and a run that waits for a
packet published and not fetched. -/
theorem witness_RingsAndMerge_round :
    let p (ring : Nat) (tied : Bool) : Packet := { packet 10 with ring := ring, bytes := [10, if tied then 2 else 0] ++ List.replicate 62 0 }
    let s := { modRing (modRing (modQueue world 1 0 fun u => { u with nrings := 2 }) 1 0 0 fun r => { r with fetched := [p 0 true, p 0 false] })
      1 0 1 (fun r => { r with base := 0x5C00, rlog2 := 4, fetched := [p 1 true] }) with hand := (1, 0) }
    queueGoes s 1 0 = true ∧ (queueOf s 1 0).merged = [] ∧ (queueOf s 1 0).nrings = 2 ∧ (queueOf s 1 0).mergeAt = 0 ∧ (queueOf s 1 0).run = none ∧
    (∀ j < 2, (ringOf s 1 0 j).ibs = [] ∧ (∀ x ∈ (ringOf s 1 0 j).fetched, x.ring = j ∧ x.type ≠ 4) ∧ (ringOf s 1 0 j).rstat = .active ∧
      (ringOf s 1 0 j).prod = (ringOf s 1 0 j).rhead) ∧
    (runOf 8 (ringOf s 1 0 0).fetched).length = 2 ∧ runBreaks 8 (ringOf s 1 0 0).fetched = false ∧
    runBreaks 8 (ringOf s 1 0 1).fetched = true := by decide

theorem witness_RingsAndMerge_waits :
    let s := { modQueue (ringed 0 1) 1 0 (fun u => { u with run := some 1 }) with hand := (1, 0) }
    queueGoes s 1 0 = true ∧ (queueOf s 1 0).merged = [] ∧ (queueOf s 1 0).mergeAt = 0 ∧ 0 < (queueOf s 1 0).nrings ∧
    (queueOf s 1 0).run = some 1 ∧ (ringOf s 1 0 0).ibs = [] ∧ (ringOf s 1 0 0).fetched = [] ∧
    (ringOf s 1 0 0).prod ≠ (ringOf s 1 0 0).rhead := by decide

/-- INJECTs of the loaded graph with IMASK beyond its launch entries, with NARG 0 and 9, and with a byte that is not zero; handles 0
and 256. -/
theorem witness_GraphPackets_fields :
    let inj (mask narg : Byte) (z : Byte) : Packet := packet 1 ([1, 0, mask, 0, narg, z] ++ List.replicate 50 0)
    AtHead (heading (inj 2 1 0)) 1 0 (inj 2 1 0) ∧ (graphOf world 1 1).config.launch[1]? = none ∧ ((inj 2 1 0).field 2 2).testBit 1 = true ∧
    AtHead (heading (inj 1 0 0)) 1 0 (inj 1 0 0) ∧ ((graphOf world 1 1).config.launch[0]?.any fun l => decide (0 ≤ l.arg + l.len ∧ l.fmt < 3)) = true ∧
    (inj 1 9 0).field 4 1 = 9 ∧ AtHead (heading (inj 1 1 7)) 1 0 (inj 1 1 7) ∧
    (nonzeroAt (inj 1 1 7) 5 8).or (nonzeroAt (inj 1 1 7) 40 56) = some 5 ∧
    (packet 2 ([0, 0] ++ List.replicate 54 0)).field 0 2 = 0 ∧ (packet 2 ([0, 1] ++ List.replicate 54 0)).field 0 2 = 256 :=
  ⟨atHead _ _ (by decide), by decide, by decide, atHead _ _ (by decide), by decide, by decide, atHead _ _ (by decide), by decide⟩

/-- Another queue's WAITV waits on the place that a WRITEV stores to. -/
theorem witness_ValuePackets_reread :
    let s := modQueue (heading (writev1 0)) 1 1 fun u => { u with merged := [waitv1 0] }
    (match valuePlaces s 1 (writev1 0) .write with
     | .ok ps => (waitingQueues s).filter (waitsOn s ps) == [(1, 1)] | .error _ => false) = true := by decide +kernel

theorem witness_CompletionRecords_held : ∀ ps, hostHeld (activated []) ps = false := fun _ => rfl

/-- A paused FGE and a load with a DETAIL; a result that waits already. -/
theorem witness_GraphLoadAndEviction_paused :
    let s := modDev (imaged 896) fun d => { d with castle := { d.castle with state := .castlePoint, body := .scheduler } }
    fgePaused s = true ∧ loadGiven s 1 2 = false ∧ fgePaused (imaged 896) = false ∧ loadGiven (imaged 896) 1 2 = false ∧
    (queueOf (imaged 896) 1 0).state ≠ .error ∧ (queueOf (imaged 896) 1 0).errorDue = false ∧ (queueOf (imaged 896) 1 0).state ≠ .resetting ∧
    inLadder (queueOf (imaged 896) 1 0) = false ∧ inLadder (queueOf (laddered 0 fun u => { u with state := .draining }) 1 0) = true := by decide

/-- An EVICT of a graph with one record: the states between which its counters are written. -/
theorem witness_GraphLoadAndEviction_evict :
    let s := modGraph world 1 1 fun g => { g with life := .evicting, addr := 0x5000 }
    graphQuiet s 1 1 = true ∧ fgePaused s = false ∧ s.fge.results.contains (.evicted 1 1) = false ∧ (graphOf s 1 1).config.recs.length = 1 ∧
    (match placesVia (fun a => translate s 0 1 a .write) (0x5000 + 0 + 64 * 0 + 56) 8 with
     | .ok ps => !hostHeld s ps | .error _ => false) = true := by decide

theorem witness_MailboxRegisters_held : ∀ ps, hostHeld world ps = false := fun _ => rfl

/-- A launch entry that is no stream-mode slot, with MARKS 0 and 1; MENT beside DENT. -/
theorem witness_DataStreams_bind :
    (let s := dataRinged { plainDataRing with opening := true }
     (graphOf s 1 1).life = .loaded ∧ ((graphOf s 1 1).config.launch[0]?.all fun l => !launchStrm (graphOf s 1 1).config l) = true ∧
       (graphOf s 1 1).config.launch[5]? = none ∧ fgePaused s = false) ∧
    (let s := modGraph (dataRinged { plainDataRing with opening := true, marks := true, ment := 1 }) 1 1 fun g => { g with config := { g.config with
        launch := [⟨0, 0, 0, 0, 0, 0, 0⟩, ⟨0, 0, 1, 0, 0, 0, 0⟩], elems := [{ x := 0, y := 0, attrs := [(0, 2), (1, 2)] }] } }
     ([0, 1].all fun (k : Nat) => (graphOf s 1 1).config.launch[k]?.any fun l => launchStrm (graphOf s 1 1).config l) = true ∧
       (((List.range 4).findSome? fun q => readyPlace s 1 q 1)).isSome = true) := by decide

/-- Samples of 4, 5, 6 and 9 elements into an open row of 3 of 8, and an open row that is empty. -/
theorem witness_DataStreams_packing :
    let p : Packer := { rowLen := 8, row := List.replicate 3 ⟨0, true, 0, false⟩ }
    p.row.length < p.rowLen ∧ (List.replicate 4 ((0, true, false) : SampleElt)) ≠ [] ∧ 3 + 4 < 8 ∧ 3 + 5 = 8 ∧ (8 < 3 + 6 ∧ 6 ≤ 8) ∧ 8 < 9 ∧
    ({ rowLen := 8 } : Packer).row = [] ∧ p.row ≠ [] := by decide

/-- Marks to a slot of their own; a row of whole packets. -/
theorem witness_DataStreams_rows :
    let r := dringOf (dataRinged { plainDataRing with marks := true, tag := some 1, bound := some (.slot 0 0 0 .keep true, .slot 0 1 0 .keep true) }) 1 0
    r.bound = some (.slot 0 0 0 .keep true, .slot 0 1 0 .keep true) ∧ (∀ x ∈ [(0, List.replicate 8 (⟨0, true, 0, false⟩ : PackElt))], x.2.length % 8 = 0) := by
  decide

theorem witness_DataStreams_rows_targets : ∀ e, (Dest.slot 0 1 0 .keep true) ≠ .drop e := fun _ h => nomatch h

/-- A release that the loss of the link keeps back, and one that is done. -/
theorem witness_DataStreams_release :
    let s := dataRinged { plainDataRing with closings := [1] }
    dringQueue s 1 (dringOf s 1 0) = 0 ∧ releaseQueue (posting s false) 1 0 = none ∧ (releaseQueue s 1 0).isSome = true ∧
    (dringOf s 1 0).state ≠ .resetting := by decide

theorem witness_DataRingControl_reset : losslessNow (dataRinged plainDataRing) 1 = false ∧
    (dringOf (dataRinged plainDataRing) 1 0).enable = true := by decide

theorem witness_LadderRungs_suits : suits wanting 1 0 0 = true ∧ .cleared 5 ∉ wanting.fge.results ∧ heldQuiet frozen 0 = true ∧
    .saved 0 ∉ frozen.fge.results ∧ fgePaused frozen = false ∧
    fgePaused (modDev frozen fun d => { d with castle := { d.castle with state := .castlePoint, body := .scheduler } }) = true := by decide +kernel

/-- A packet's fault and a data ring's. -/
theorem witness_FaultsAreTaken_packets :
    (∀ code ∈ [0x30#8, 0x31#8, 0x32#8, 0x33#8], let s := faulting code (some 0)
      fgePaused s = false ∧ inLadder (queueOf s 1 0) = false ∧ (queueOf s 1 0).state ≠ .error ∧ (queueOf s 1 0).errorDue = false ∧
        s.faults.map (fun f => (f.part, f.ring, f.queue)) = [(1, none, some 0)]) ∧
    (let s := { dataRinged plainDataRing with faults := [{ code := 0x30, part := 1, tag := none, ring := some 0 }] }
     (dringOf s 1 0).state ≠ .resetting ∧ fgePaused s = false ∧ s.faults.map (·.ring) = [some 0]) := by decide

/-- The stall of a data ring with the FGE paused. -/
theorem witness_FaultsAreTaken_ring :
    let s := modDev (dataRinged { plainDataRing with stallAt := some 0 }) fun d => { d with
      clk := { d.clk with tt := 160000000 }, castle := { d.castle with state := .castlePoint, body := .scheduler } }
    (dringOf s 1 0).stallAt = some 0 ∧ fgePaused s = true ∧ (dringOf s 1 0).state ≠ .resetting ∧ 160000000 ≤ (tt s - 0).toNat := by decide

/-- A stage waited for, of the footprint of one that is placed, where no origin is accepted. -/
theorem witness_ManagerTasks_join :
    let s := modGraph (modGraph placing 1 2 fun g => { g with config := { g.config with stage := true, w := 16, h := 8 } }) 1 1 fun _ =>
      { life := .loaded, config := { stage := true, w := 16, h := 8 }, places := [{ cluster := 0, x0 := 0, y0 := 0, v := false, queue := 0 }] }
    (∀ q' ∈ [1, 2, 3], injectWaits s 1 q' 2 = false ∧ openingWaits s 1 q' 2 = false) ∧ placeWanted s 1 0 2 = true ∧
    findOrigin s 1 0 (graphOf s 1 2).config = none ∧ (stagePlace s 1 0 (graphOf s 1 2).config).isSome = true := by decide +kernel

/-- A manager is between tasks; an access that has begun with a place of the host, and none; pages that a TLBINV drops. -/
theorem witness_TranslationEvents_accesses :
    (loadManager (pageWaiting false)).isSome = true ∧ (∀ r ∈ world.reqs, begunOnHost r = false) ∧
    (let s := modGraph (requesting 0x84 0 none) 1 1 fun g => { g with config := { g.config with recs := [(0, { record with space := 2, w := 1 })] } }
     let s := { s with reqs := s.reqs.map fun (r : MemReq) => ({ r with ident := 3, begun := some ([(0, some ⟨true, 0x5000⟩)], none) } : MemReq) }
     (match s.reqs with
      | [r] => s.reqs.filter begunOnHost == [r] && findPlace (·.ident == r.ident) s.reqs == some 0 && itsTurn s 0 r && done? (perform s r)
      | _ => false) = true) ∧
    (let s := { requesting 0x84 0 none with reqs := (requesting 0x84 0 none).reqs.map fun (r : MemReq) => ({ r with begun := some ([(0, some ⟨false, 0x9000⟩)], none) } : MemReq) }
     (s.reqs.all fun r => reqPart r == 1 && r.begun.isSome && (reqPages s r).contains 5) = true ∧ (5 : Nat) < 2 ^ 45) := by decide +kernel

/-- Two slots free, with reports due. -/
theorem witness_TraceRings_lost :
    let s := tracing { openRing with unreported := 3 }
    let g := ringAt s 1
    g.unreported ≠ 0 ∧ g.log2 ≤ 24 ∧ (g.tail - g.head).toNat + 2 ≤ 2 ^ g.log2 ∧ g.cls.getLsbD 10 = true ∧ (∀ x ∈ g.src, x.2.en = false) ∧
    (s.traceOut.all fun e => ringsFor e == [1] && passes g e && e.cls != 10) = true := by decide

/-- The deadline of S3 just met and not yet met, by the tier of a card with expanders and by PTP; a card without. -/
theorem witness_StartUpStages_s3 :
    (∀ t ∈ [159999999999, 160000000000], ∀ l ∈ [[], [0x20]], let s := modDev (atStageOf .s2) fun d => { d with
        cxlCabled := true, uptime := t, failed := l, clk := {} }
      s.dev.stage = .s2 ∧ s.dev.aux54 = true ∧ s.dev.cxlCabled = true ∧ s.dev.cxlGts = 0 ∧ s.dev.clk.lock = false ∧ controllerPaused s = false ∧
        s.dev.failed = l ∧ decide (160000000000 ≤ s.dev.uptime - s.dev.perstAt) = (t == 160000000000)) ∧
    (atStageOf .s2).dev.cxlCabled = false := by decide

/-- Time passes up to the next deadline, in pieces; a WAITV waits for its next read, or none does. -/
theorem witness_TimeDiscipline_pieces :
    (let s := { modDev (atStageOf .s2) (fun d => { d with uptime := 159999999000 }) with agenda := [.elapse 8001] }
     nextDeadline s = some 1000 ∧ (timerItems s).find? (changes s) = none) ∧
    (let s := { heading (waitv1 0) with agenda := [.elapse 8001] }
     (rereadItems s).any (changes s) = false) ∧
    (let s := { modDev (heading (waitv1 2)) (fun d => { d with uptime := 1 }) with agenda := [.elapse 20000] }
     (rereadItems s).any (changes s) = true ∧ (timerItems s).find? (changes s) = none ∧ 16000 - s.dev.uptime % 16000 = 15999) ∧
    nextDeadline { world with dev := { world.dev with stage := .s3 } } = none := by decide +kernel

theorem witness_LinkEvents_rates :
    (([⟨0x10000000000, 0x1000, 1, 0, true⟩] : List Expander) ≠ [] ∧ ∀ x ∈ ([⟨0x10000000000, 0x1000, 1, 0, true⟩] : List Expander), x.fast = true) ∧
    (1 ≤ 1 ∧ 32 ≤ 32) ∧ ¬ ((0 : Nat) = 64 ∨ (1 ≤ 0 ∧ 0 ≤ 32)) ∧ ¬ ((33 : Nat) = 128 ∨ 33 = 64 ∨ (1 ≤ 33 ∧ 33 ≤ 32)) := by decide

/-- Engines that swap back; timers of each kind; a manager's result that waits. -/
theorem witness_CastlingSteps_back :
    (let s := modDev (castled 0 .staged) fun d => { d with castle := { d.castle with back := [0] } }
     0 ∈ s.dev.castle.back ∧ s.dev.castle.stall = none ∧ engineAtBoundary s 0 = true ∧ s.dev.castle.back ≠ [] ∧
       (modDev s fun d => { d with castle := { d.castle with stall := some 0 } }).dev.castle.stall = some 0) ∧
    (let s := laddered 5 fun u => { u with state := .draining, stallAt := some 0, fireStallAt := some 0 }
     (queueOf s 1 0).state = .draining ∧ regionsOf s 1 0 ≠ [] ∧ (queueOf s 1 0).stallAt = some 0 ∧ (queueOf s 1 0).fireStallAt = some 0) ∧
    watched { world with net := [{ tok := tok 5, dest := .slot 0 0 0 .keep false }] } 1 = true ∧
    (let s := { frozen with fge := { results := [.saved 0] } }
     s.fge.results = [.saved 0] ∧ (regionOf s 0).state = .saving) := by decide

/-- A fall-back of the scheduler's body, with a record. -/
theorem witness_CastlingSteps_record :
    let s := modDev (castled 160000000 .probation) fun d => { d with castle := { d.castle with
      body := .scheduler, record := some (capture world), swapped := [0] } }
    s.dev.castle.checkpoint.or s.dev.castle.record = some (capture world) ∧ 160000000 ≤ (tt s - s.dev.castle.beatAt).toNat ∧
    0 ∈ s.dev.castle.swapped := by decide +kernel

/-- Of EventsComplete: an entry that names bytes, and the packets, streams and pages of the statements above. -/
theorem witness_EventsComplete_streams :
    (let bs := dataPacket 0x21 ([0, 0x50] ++ List.replicate 14 0 ++ [10, 0, 0, 0, 0, 0, 0, 0, 10])
     let s := { streaming bs with mem := [(0x9060, 0x40), (0x9061, 0x50), (0x9068, 4)] }
     (match dringRead s 1 (dringOf s 1 0) (0x5000 + 16 * shidx 10 (shuffleKeys 0 0) 0) 16 with
      | .ok e => decide (leNat ((e.map (·.1)).take 8) % 4 = 0 ∧ 1 ≤ leNat (((e.map (·.1)).drop 8).take 4) ∧ leNat (((e.map (·.1)).drop 12).take 4) = 0)
      | .error _ => false) = true) := by decide +kernel

/-! ### More worked examples of the manual -/

/-- R98: the second row of the example closes full of C0, C1 and D0 to D5, and the third takes the rest of D. -/
theorem test_packing :
    let es (n : Nat) : List SampleElt := List.replicate n (0, true, false)
    let p0 : Packer := { rowLen := 8 }
    let p1 := (packSample p0 (es 3)).1
    let p2 := (packSample p1 (es 4)).1
    let x3 := packSample p2 (es 2)
    let x4 := packSample x3.1 (es 11)
    (x3.2.map fun r => (r.1, r.2.map (·.mark))) =
      [(0, [0x00010000, 0x00010001, 0x00010002, 0x00020000, 0x00020001, 0x00020002, 0x00020003, 0])] ∧
    (x4.2.map fun r => (r.1, r.2.map (·.mark))) =
      [(1, [0x00010000, 0x00010001, 0x00020000, 0x00020001, 0x00020002, 0x00020003, 0x00020004, 0x00020005])] ∧
    x4.1.row.map (·.mark) = [0x80010006, 0x80010007, 0x80010008, 0x80010009, 0x8001000A] := by decide

/-- R141: event 3's sixteen bytes. -/
theorem test_event_bytes :
    eventBytes { tt := 0x4B3A91C000000109, ctx := 7, die := 1, clamp := true, lock := true, cls := 0, code := 0, source := 0x243
                 payload := 0x00026230 } =
      [0x09, 0x01, 0x00, 0x00, 0xC0, 0x91, 0x3A, 0x4B, 0xC7, 0x01, 0x30, 0x24, 0x30, 0x62, 0x02, 0x00] := by decide

/-- R27 and R82: status words of queues. -/
theorem test_qsw :
    qsw (modQueue State.reset 1 0 fun u => { u with state := .linkLost, rung := 2, fault := 0x40, lastSeq := 0x41 }) 1 0 =
      0x0000004100001028 ∧
    qsw (modQueue State.reset 1 0 fun u => { u with state := .error, rung := 0, fault := 0x31, lastSeq := 0x11 }) 1 0 =
      0x0000001100000C46 := by decide

end Sys2Proof.Tests
end

section
/-! SUPPORT. Register writes (R3, R54): how an offset of the PF's BAR0 is decoded, and what a write of PARTCFG may make
the scheduler do (R106, R108) without changing any partition's configuration. -/

namespace Sys2Proof.Machine

/-! ### Fields of a register value (R3) -/

theorem bit_toNat (v : BitVec 64) (i : Nat) : bit v.toNat i = v.getLsbD i := by
  simp [bit, BitVec.getLsbD, Nat.testBit_eq_decide_div_mod_eq, Bool.beq_eq_decide_eq]

/-! ### PARTCFG's fields are kept (R106) -/

/-- What PARTCFG configures in a partition. -/
def partcfgFields (p : Part) : Bool × Nat × BitVec 2 × Bool := (p.en, p.rmax, p.dies, p.hold)

/-- Every partition keeps the fields of its PARTCFG. -/
structure PartcfgKept (s t : State) : Prop where
  fields : ∀ n, partcfgFields (partOf t n) = partcfgFields (partOf s n)

theorem PartcfgKept.refl (s : State) : PartcfgKept s s := ⟨fun _ => rfl⟩

theorem PartcfgKept.trans {s t u : State} (h : PartcfgKept s t) (k : PartcfgKept t u) : PartcfgKept s u :=
  ⟨fun n => (k.fields n).trans (h.fields n)⟩

/-- A step that touches no partition keeps every PARTCFG. -/
theorem PartcfgKept.of_parts {s t : State} (h : t.parts = s.parts) : PartcfgKept s t := ⟨fun n => by simp only [partOf, h]⟩

theorem partcfgKept_foldl {α : Type} {f : State → α → State} (hf : ∀ s a, PartcfgKept s (f s a)) (l : List α) (s : State) :
    PartcfgKept s (l.foldl f s) := by
  induction l generalizing s with
  | nil => exact .refl s
  | cons a l ih => exact (hf s a).trans (ih _)

theorem partcfgKept_ite {c : Prop} [Decidable c] {s t u : State} (ht : PartcfgKept s t) (hu : PartcfgKept s u) :
    PartcfgKept s (if c then t else u) := by
  split
  · exact ht
  · exact hu

theorem partcfgKept_modPart (s : State) (n : Nat) (f : Part → Part) (hf : ∀ p, partcfgFields (f p) = partcfgFields p) :
    PartcfgKept s (modPart s n f) := by
  refine ⟨fun m => ?_⟩
  by_cases hm : m = n
  · subst hm; simp only [partOf_modPart, hf]
  · rw [partOf_modPart_other _ _ hm]

theorem partcfgKept_modQueue (s : State) (n q : Nat) (f : Queue → Queue) : PartcfgKept s (modQueue s n q f) :=
  partcfgKept_modPart _ _ _ fun _ => rfl

theorem partcfgKept_modFollowers (s : State) (n q : Nat) (f : DataRing → DataRing) : PartcfgKept s (modFollowers s n q f) :=
  partcfgKept_modPart _ _ _ fun _ => rfl

theorem partcfgKept_modRingAt (s : State) (n : Nat) (f : TraceRing → TraceRing) : PartcfgKept s (modRingAt s n f) :=
  partcfgKept_ite (.of_parts rfl) (partcfgKept_modPart _ _ _ fun _ => rfl)

theorem partcfgKept_emitEvent (s : State) (die src cls code ctx payload : Nat) (floor : DWord) :
    PartcfgKept s (emitEvent s die src cls code ctx payload floor) := .of_parts rfl

theorem partcfgKept_modRegion (s : State) (r : Nat) (f : Region → Region) : PartcfgKept s (modRegion s r f) := .of_parts rfl

/-! ### A region's release (R109, R257) -/

theorem partcfgKept_unload (s : State) (r : Nat) : PartcfgKept s (unload s r) := by
  simp only [unload]
  split
  · exact .refl s
  · exact partcfgKept_ite (partcfgKept_modRegion ..)
      ((partcfgKept_modRegion ..).trans (partcfgKept_modPart _ _ _ fun _ => rfl))

theorem partcfgKept_loseCluster (s : State) (n cl : Nat) : PartcfgKept s (loseCluster s n cl) :=
  partcfgKept_ite (.refl s) (partcfgKept_ite (.of_parts rfl) (.of_parts rfl))

theorem partcfgKept_loseDie (s : State) (n die : Nat) : PartcfgKept s (loseDie s n die) :=
  partcfgKept_ite (.refl s) (.of_parts rfl)

theorem partcfgKept_releaseRegion (s : State) (r : Nat) : PartcfgKept s (releaseRegion s r) :=
  partcfgKept_ite (.refl s) <|
    (partcfgKept_unload s r).trans <| (partcfgKept_emitEvent ..).trans <| (partcfgKept_modRegion ..).trans <|
      (partcfgKept_loseCluster ..).trans (partcfgKept_loseDie ..)

theorem partcfgKept_releaseRegions (s : State) (rs : List Nat) : PartcfgKept s (rs.foldl releaseRegion s) :=
  partcfgKept_foldl partcfgKept_releaseRegion rs s

/-! ### The ladder's first rungs (R121 to R123, R150) -/

theorem partcfgKept_endStall (s : State) (n : Nat) : PartcfgKept s (endStall s n) :=
  partcfgKept_ite ((partcfgKept_modRingAt ..).trans (partcfgKept_emitEvent ..)) (.refl s)

theorem partcfgKept_forceLossy (s : State) (n cause : Nat) : PartcfgKept s (forceLossy s n cause) := by
  have forced := partcfgKept_modRingAt s n fun g => { g with forcedBy := (g.forcedBy ++ [cause]).eraseDups }
  exact partcfgKept_ite (forced.trans ((partcfgKept_emitEvent ..).trans (partcfgKept_endStall ..))) forced

theorem partcfgKept_setRegions (s : State) (n q : Nat) (st : RegState) : PartcfgKept s (setRegions s n q st) :=
  partcfgKept_foldl (fun _ _ => partcfgKept_modRegion ..) _ _

/-- Both rungs begin with the partition's stall time counted afresh and a LADDER event. -/
theorem partcfgKept_rungBegins (s : State) (n q r code : Nat) : PartcfgKept s (ladderEvent (newRung s n q) n q r code) :=
  (partcfgKept_modRingAt ..).trans (partcfgKept_emitEvent ..)

theorem partcfgKept_finishSave (s : State) (n q r : Nat) : PartcfgKept s (finishSave s n q r) :=
  (partcfgKept_emitEvent ..).trans <| (partcfgKept_modQueue ..).trans (partcfgKept_modFollowers ..)

/-- In both rungs the queue, its regions and the data rings that follow it take their states of the ladder. -/
theorem partcfgKept_rungStates (s : State) (n q : Nat) (st : RegState) (g : Queue → Queue) (f : DataRing → DataRing) :
    PartcfgKept s (modFollowers (setRegions (modQueue s n q g) n q st) n q f) :=
  (partcfgKept_modQueue ..).trans <| (partcfgKept_setRegions ..).trans (partcfgKept_modFollowers ..)

theorem partcfgKept_startRung1 (s : State) (n q : Nat) : PartcfgKept s (startRung1 s n q) :=
  (partcfgKept_rungBegins ..).trans (partcfgKept_rungStates ..)

theorem partcfgKept_startRung2 (s : State) (n q : Nat) : PartcfgKept s (startRung2 s n q) :=
  have begun := (partcfgKept_rungBegins s n q (firstRegion s n q) 2).trans (partcfgKept_forceLossy _ n q)
  partcfgKept_ite (begun.trans <| (partcfgKept_rungStates ..).trans (partcfgKept_finishSave ..))
    (begun.trans (partcfgKept_rungStates ..))

theorem partcfgKept_errorInLadder (s : State) (n q : Nat) : PartcfgKept s (errorInLadder s n q) :=
  partcfgKept_ite (partcfgKept_modQueue ..) (.refl s)

theorem partcfgKept_startLadder (s : State) (n q : Nat) : PartcfgKept s (startLadder s n q) :=
  partcfgKept_ite (.refl s) <| partcfgKept_ite (partcfgKept_releaseRegions ..) <|
    partcfgKept_ite ((partcfgKept_errorInLadder ..).trans (partcfgKept_startRung2 ..))
      ((partcfgKept_errorInLadder ..).trans (partcfgKept_startRung1 ..))

/-! ### The scheduler acts on PARTCFG (R106, R108) -/

theorem partcfgKept_giveUp (s : State) (n q : Nat) : PartcfgKept s (giveUp s n q) :=
  partcfgKept_ite (partcfgKept_releaseRegions ..) (.refl s)

theorem partcfgKept_giveWay (s : State) (n q : Nat) : PartcfgKept s (giveWay s n q) :=
  partcfgKept_ite (partcfgKept_startLadder ..) (partcfgKept_ite (.refl s) (partcfgKept_giveUp ..))

theorem partcfgKept_enforceConfig (s : State) (n : Nat) : PartcfgKept s (enforceConfig s n) :=
  partcfgKept_foldl (fun _ _ => partcfgKept_giveWay ..) _ _

/-- PARTCFG written with HOLD 0: whatever queues give way for it, the partition has the fields written. -/
theorem partcfgFields_setPartCfg (s : State) (n v : Nat) (hold : bit v 8 = false) :
    partcfgFields (partOf (setPartCfg s n v) n) = (bit v 0, bits v 5 1, BitVec.ofNat 2 (bits v 7 6), false) := by
  have kept := (partcfgKept_enforceConfig
    (modPart s n fun p => { p with en := bit v 0, rmax := bits v 5 1, dies := BitVec.ofNat 2 (bits v 7 6) }) n).fields n
  simp only [partcfgFields, partOf_modPart, Prod.mk.injEq] at kept
  obtain ⟨hen, hrmax, hdies, -⟩ := kept
  simp [setPartCfg, hold, partcfgFields, hen, hrmax, hdies]

/-! ### The instructions of a partition's registers -/

theorem exec_trheadWrite (s : State) {n : Nat} (v : BitVec 32) (h24 : n ≤ 24) :
    exec (.trheadWrite n v) s = .next (setTrhead s n v) := congrArg _ (if_pos h24)

theorem exec_elcselWrite (s : State) {n : Nat} (v : BitVec 64) (h1 : 1 ≤ n) (h24 : n ≤ 24) :
    exec (.elcselWrite n v) s = .next (sampleCounter s n v.toNat) := congrArg _ (if_pos (by simp [h1, h24]))

/-! ### The device registers' offsets (R106, R199) -/

theorem exec_registerWrite (off : Nat) (v : BitVec 64) (s : State) :
    exec (.registerWrite off v) s = execRegisterWrite off v s := rfl

theorem registerWrite_ignored (s : State) (off : Nat) (v : BitVec 64) (h : off % 8 ≠ 0 ∨ 0x4000000 ≤ off) :
    exec (.registerWrite off v) s = .next s := by
  rw [exec_registerWrite, execRegisterWrite, if_pos (by simpa using h)]

theorem registerWrite_mapped (s : State) (off : Nat) (v : BitVec 64) (aligned : off % 8 = 0) (h : off < 0x4000000) :
    exec (.registerWrite off v) s = .next (if off < 0x1000000 then writeDevice s off v.toNat
      else writeWindow s ((off - 0x1000000) / 0x200000 + 1) (off % 0x200000) v.toNat) := by
  rw [exec_registerWrite, execRegisterWrite, if_neg (by simp [aligned, h])]

theorem registerWrite_device (s : State) (off : Nat) (v : BitVec 64) (aligned : off % 8 = 0) (h : off < 0x1000000) :
    exec (.registerWrite off v) s = .next (writeDevice s off v.toNat) := by
  rw [registerWrite_mapped s off v aligned (by omega), if_pos h]

theorem writeDevice_drvfeat (s : State) (v : Nat) : writeDevice s 0x10 v = setDrvFeat s (BitVec.ofNat 32 v) := rfl

theorem writeDevice_bar2base (s : State) (v : Nat) : writeDevice s 0x40 v = setBar2Base s v := by
  unfold writeDevice
  split
  case h_2 => rfl
  all_goals contradiction

theorem writeDevice_tlbinv (s : State) (v : Nat) :
    writeDevice s 0x3300 v = if invalidating s then s else invalidate s v := by
  unfold writeDevice
  split
  case h_3 => rfl
  all_goals contradiction

theorem writeDevice_partcfg (s : State) {n : Nat} (v : Nat) (h1 : 1 ≤ n) (h24 : n ≤ 24) :
    writeDevice s (0x3000 + 16 * n) v = setPartCfg s n v := by
  have number : (0x3000 + 16 * n - 0x3000) / 16 = n := by omega
  unfold writeDevice
  split
  case h_4 => rw [if_pos (by simp; omega), number]
  all_goals omega

theorem writeDevice_ptroot (s : State) {n : Nat} (v : Nat) (h1 : 1 ≤ n) (h24 : n ≤ 24) :
    writeDevice s (0x3200 + 8 * n) v = setPtRoot s n v := by
  have number : (0x3200 + 8 * n - 0x3200) / 8 = n := by omega
  unfold writeDevice
  split
  case h_4 => rw [if_neg (by simp; omega), if_pos (by simp; omega), number]
  all_goals omega

/-! ### The partition windows' offsets (R54) -/

/-- An aligned write at offset `o` of partition n's window, which the PF reaches at R54's place, is a write of that window. -/
theorem registerWrite_window (s : State) {n o : Nat} (v : BitVec 64) (h1 : 1 ≤ n) (h24 : n ≤ 24) (aligned : o % 8 = 0)
    (ho : o < 0x200000) :
    exec (.registerWrite (0x1000000 + (n - 1) * 0x200000 + o) v) s = .next (writeWindow s n o v.toNat) := by
  have number : (0x1000000 + (n - 1) * 0x200000 + o - 0x1000000) / 0x200000 + 1 = n := by omega
  have offset : (0x1000000 + (n - 1) * 0x200000 + o) % 0x200000 = o := by omega
  rw [registerWrite_mapped s _ v (by omega) (by omega), if_neg (by omega), number, offset]

theorem writeWindow_mbxctl (s : State) (n v : Nat) : writeWindow s n 0x8 v = setMbxCtl s n v := rfl

theorem writeWindow_mbxhead (s : State) (n v : Nat) : writeWindow s n 0x10 v = setMbxHead s n (BitVec.ofNat 32 v) := rfl

theorem writeWindow_trhead (s : State) (n v : Nat) : writeWindow s n 0x110 v = setTrhead s n (BitVec.ofNat 32 v) := rfl

theorem writeWindow_elcsel (s : State) (n v : Nat) : writeWindow s n 0x180 v = sampleCounter s n v := rfl

theorem writeWindow_cplhead (s : State) (n v : Nat) {q : Nat} (hq : q < 4) :
    writeWindow s n (0x1000 * (q + 1) + 0x20) v = setCplHead s n q (BitVec.ofNat 32 v) := by
  have number : (0x1000 * (q + 1) + 0x20) / 0x1000 - 1 = q := by omega
  have offset : (0x1000 * (q + 1) + 0x20) % 0x1000 = 0x20 := by omega
  rw [writeWindow, if_neg (by omega), if_pos (by omega), number, offset]
  rfl

theorem writeWindow_doorbell (s : State) (n v : Nat) {q i : Nat} (hq : q < 4) (hi : i < 64) :
    writeWindow s n (0x10000 + 0x1000 * (64 * q + i)) v = doorbell s n q i (BitVec.ofNat 32 v) := by
  have page : (0x10000 + 0x1000 * (64 * q + i)) / 0x1000 - 0x10 = 64 * q + i := by omega
  have queue : (64 * q + i) / 64 = q := by omega
  have ring : (64 * q + i) % 64 = i := by omega
  rw [writeWindow, if_neg (by omega), if_neg (by omega), if_neg (by simp), if_pos (by omega)]
  simp only [page, queue, ring]

theorem writeWindow_dataDoorbell (s : State) (n v : Nat) {d : Nat} (hd : d < 64) :
    writeWindow s n (0x180000 + 0x2000 * d) v = dataDoorbell s n d (BitVec.ofNat 32 v) := by
  have page : (0x180000 + 0x2000 * d - 0x180000) / 0x1000 = 2 * d := by omega
  have offset : (0x180000 + 0x2000 * d) % 0x1000 = 0 := by omega
  have ring : 2 * d / 2 = d := by omega
  rw [writeWindow, if_neg (by omega), if_neg (by omega), if_neg (by simp; omega), if_neg (by omega), if_neg (by omega)]
  simp only [page, offset, ring, if_true]
  rw [if_neg (by omega)]

/-! ### The registers written whole, and the statement -/

/-- PARTCFG's fields, as the value written has them. -/
theorem registerWrite_partcfg (s : State) {n : Nat} (v : BitVec 64) (h1 : 1 ≤ n) (h24 : n ≤ 24) (hold : v.getLsbD 8 = false) :
    ∃ t, exec (.registerWrite (0x3000 + 16 * n) v) s = .next t ∧
      let p := partOf t n
      p.en = v.getLsbD 0 ∧ p.rmax = v.toNat / 2 ^ 1 % 2 ^ 5 ∧ p.dies.toNat = v.toNat / 2 ^ 6 % 2 ^ 2 ∧ p.hold = false := by
  have fields := partcfgFields_setPartCfg s n v.toNat (by rw [bit_toNat, hold])
  simp only [partcfgFields, bit_toNat, Prod.mk.injEq] at fields
  obtain ⟨hen, hrmax, hdies, hhold⟩ := fields
  refine ⟨setPartCfg s n v.toNat, ?_, hen, hrmax, ?_, hhold⟩
  · rw [registerWrite_device _ _ _ (by omega) (by omega), writeDevice_partcfg _ _ h1 h24]
  · simp [hdies, bits]

theorem registerWrite_ptroot (s : State) {n : Nat} (v : BitVec 64) (h1 : 1 ≤ n) (h24 : n ≤ 24) :
    exec (.registerWrite (0x3200 + 8 * n) v) s =
      .next (modPart s n fun p => { p with ptEn := v.getLsbD 0, ptRoot := v.toNat / 2 ^ 12 % 2 ^ 40 * 4096 }) := by
  rw [registerWrite_device _ _ _ (by omega) (by omega), writeDevice_ptroot _ _ h1 h24, setPtRoot, bit_toNat]
  rfl

/-- Settles O47: each offset is decoded to its register's operation, and a write of PARTCFG leaves the fields it sets through
everything that the scheduler does for it. -/
theorem registerWrites : Obligations.RegisterWrites := by
  intro s n v h1 h24 page low field
  have window {o : Nat} (aligned : o % 8 = 0) (ho : o < 0x200000) :
      exec (.registerWrite (page + o) v) s = .next (writeWindow s n o v.toNat) :=
    registerWrite_window s v h1 h24 aligned ho
  have hlow : BitVec.ofNat 32 v.toNat = low := BitVec.ofNat_toNat ..
  refine ⟨fun off h => registerWrite_ignored s off v h, registerWrite_ptroot s v h1 h24, registerWrite_partcfg s v h1 h24,
    ?drvfeat, ?bar2base, ?tlbinv, ?mbxctl, ?mbxhead, ?trhead, ?elcsel, fun q hq => ⟨?cplhead, fun i hi => ?doorbell⟩,
    fun d hd => ?dataDoorbell⟩
  case drvfeat => rw [registerWrite_device _ _ _ rfl (by omega), writeDevice_drvfeat, hlow]; rfl
  case bar2base => rw [registerWrite_device _ _ _ rfl (by omega), writeDevice_bar2base]; rfl
  case tlbinv => rw [registerWrite_device _ _ _ rfl (by omega), writeDevice_tlbinv]; rfl
  case mbxctl => rw [window rfl (by omega), writeWindow_mbxctl]; rfl
  case mbxhead => rw [window rfl (by omega), writeWindow_mbxhead, hlow]; rfl
  case trhead => rw [window rfl (by omega), writeWindow_trhead, hlow, exec_trheadWrite _ _ h24]
  case elcsel => rw [window rfl (by omega), writeWindow_elcsel, exec_elcselWrite _ _ h1 h24]
  case cplhead => rw [Nat.add_assoc, window (by omega) (by omega), writeWindow_cplhead _ _ _ hq, hlow]; rfl
  case doorbell => rw [Nat.add_assoc, window (by omega) (by omega), writeWindow_doorbell _ _ _ hq hi, hlow]; rfl
  case dataDoorbell => rw [Nat.add_assoc, window (by omega) (by omega), writeWindow_dataDoorbell _ _ _ hd, hlow]; rfl

end Sys2Proof.Machine
end

section
/-! SUPPORT. The shuffle (R95): perm is a bijection on 2^(2h) numbers, because each of its rounds is; the walk is perm's first
return below n, and the first return of an injective function is injective. -/

namespace Sys2Proof.Machine

/-! ### Injective functions on the numbers below a bound -/

/-- `f` keeps the numbers below `N` below `N`, and no two of them meet. -/
structure InjectiveBelow (N : Nat) (f : Nat → Nat) : Prop where
  lt : ∀ i < N, f i < N
  inj : ∀ i < N, ∀ j < N, f i = f j → i = j

/-- The pigeonhole principle. In the step, N is renamed to the last number's value, which no other number has. -/
theorem exists_collision {N : Nat} {g : Nat → Nat} (lt : ∀ i ≤ N, g i < N) : ∃ a b, a < b ∧ b ≤ N ∧ g a = g b := by
  induction N generalizing g with
  | zero => exact absurd (lt 0 (Nat.le_refl 0)) (Nat.not_lt_zero _)
  | succ N ih =>
    by_cases met : ∃ a ≤ N, g a = g (N + 1)
    · obtain ⟨a, ha, heq⟩ := met
      exact ⟨a, N + 1, by omega, Nat.le_refl _, heq⟩
    · have unmet (a : Nat) (ha : a ≤ N) : g a ≠ g (N + 1) := fun heq => met ⟨a, ha, heq⟩
      have last := lt (N + 1) (Nat.le_refl _)
      obtain ⟨a, b, hab, hb, heq⟩ := ih (g := fun i => if g i = N then g (N + 1) else g i) (by
        intro i hi
        have := lt i (by omega)
        have := unmet i hi
        split <;> omega)
      refine ⟨a, b, hab, by omega, ?_⟩
      have ha := unmet a (by omega)
      have hb := unmet b hb
      split at heq <;> split at heq <;> omega

theorem InjectiveBelow.onto {N y : Nat} {f : Nat → Nat} (h : InjectiveBelow N f) (hy : y < N) : ∃ i < N, f i = y := by
  obtain ⟨a, b, hab, hb, heq⟩ := exists_collision (N := N) (g := fun i => if i = N then y else f i) (by
    intro i hi
    split
    next => exact hy
    next => exact h.lt i (by omega))
  have ha : a < N := by omega
  simp only [if_neg (Nat.ne_of_lt ha)] at heq
  split at heq
  next => exact ⟨a, ha, heq⟩
  next => exact absurd (h.inj a ha b (by omega) heq) (Nat.ne_of_lt hab)

theorem repeat_add (f : Nat → Nat) (m n i : Nat) : Nat.repeat f (m + n) i = Nat.repeat f m (Nat.repeat f n i) := by
  induction m with
  | zero => rw [Nat.zero_add]; rfl
  | succ m ih => rw [Nat.add_right_comm]; exact congrArg f ih

theorem InjectiveBelow.iterate {N : Nat} {f : Nat → Nat} (h : InjectiveBelow N f) (m : Nat) :
    InjectiveBelow N (Nat.repeat f m) := by
  induction m with
  | zero => exact ⟨fun _ hi => hi, fun _ _ _ _ heq => heq⟩
  | succ m ih =>
    exact ⟨fun i hi => h.lt _ (ih.lt i hi),
      fun i hi j hj heq => ih.inj i hi j hj (h.inj _ (ih.lt i hi) _ (ih.lt j hj) heq)⟩

theorem repeat_succ' (f : Nat → Nat) (m i : Nat) : Nat.repeat f (m + 1) i = Nat.repeat f m (f i) := repeat_add f m 1 i

/-- An injective function on N numbers comes back to each of them within N steps. -/
theorem InjectiveBelow.exists_repeat_succ_eq {N i : Nat} {f : Nat → Nat} (h : InjectiveBelow N f) (hi : i < N) :
    ∃ m < N, Nat.repeat f (m + 1) i = i := by
  obtain ⟨a, b, hab, hb, heq⟩ := exists_collision (N := N) (g := fun m => Nat.repeat f m i) fun m _ => (h.iterate m).lt i hi
  obtain ⟨d, rfl⟩ := Nat.exists_eq_add_of_lt hab
  refine ⟨d, by omega, ((h.iterate a).inj i hi _ ((h.iterate (d + 1)).lt i hi) ?_).symm⟩
  rw [← repeat_add]
  exact heq

/-! ### perm as rounds on two halves -/

/-- hi and lo of a number. -/
def splitHalves (h x : Nat) : Nat × Nat := (x / 2 ^ h, x % 2 ^ h)

/-- The number of hi and lo. -/
def joinHalves (h : Nat) (p : Nat × Nat) : Nat := p.1 * 2 ^ h + p.2

/-- One round of R95 on hi and lo. -/
def shuffleRound (h : Nat) (p : Nat × Nat) (k : Word) : Nat × Nat :=
  (p.2, p.1 ^^^ ((p.2 ^^^ k.toNat) * 0x7A3C52E9 % 2 ^ 32 / 2 ^ (32 - h)))

theorem shufflePerm_eq_rounds (h : Nat) (ks : List Word) (x : Nat) :
    shufflePerm h ks x = joinHalves h (ks.foldl (shuffleRound h) (splitHalves h x)) := rfl

/-- Both halves fit h bits. -/
def FitHalves (h : Nat) (p : Nat × Nat) : Prop := p.1 < 2 ^ h ∧ p.2 < 2 ^ h

theorem two_pow_two_mul (h : Nat) : 2 ^ (2 * h) = 2 ^ h * 2 ^ h := by rw [Nat.two_mul, Nat.pow_add]

theorem joinHalves_splitHalves (h x : Nat) : joinHalves h (splitHalves h x) = x := Nat.div_add_mod' x (2 ^ h)

theorem FitHalves.splitHalves_joinHalves {h : Nat} {p : Nat × Nat} (fit : FitHalves h p) :
    splitHalves h (joinHalves h p) = p := by
  obtain ⟨-, hlo⟩ := fit
  have hdiv : (p.1 * 2 ^ h + p.2) / 2 ^ h = p.1 := by
    rw [Nat.mul_comm, Nat.mul_add_div (Nat.two_pow_pos h), Nat.div_eq_of_lt hlo, Nat.add_zero]
  exact Prod.ext hdiv (Nat.mul_add_mod_of_lt hlo)

theorem fitHalves_splitHalves {h x : Nat} (hx : x < 2 ^ (2 * h)) : FitHalves h (splitHalves h x) :=
  ⟨Nat.div_lt_of_lt_mul (by rwa [← two_pow_two_mul]), Nat.mod_lt _ (Nat.two_pow_pos h)⟩

theorem FitHalves.joinHalves_lt {h : Nat} {p : Nat × Nat} (fit : FitHalves h p) : joinHalves h p < 2 ^ (2 * h) := by
  obtain ⟨hhi, hlo⟩ := fit
  calc p.1 * 2 ^ h + p.2 < (p.1 + 1) * 2 ^ h := by rw [Nat.succ_mul]; omega
    _ ≤ 2 ^ h * 2 ^ h := Nat.mul_le_mul_right _ hhi
    _ = 2 ^ (2 * h) := (two_pow_two_mul h).symm

/-! ### perm is a bijection on 2^(2h) numbers -/

theorem xor_right_cancel {a b f : Nat} (heq : a ^^^ f = b ^^^ f) : a = b := by
  rw [← Nat.xor_zero a, ← Nat.xor_self f, ← Nat.xor_assoc, heq, Nat.xor_assoc, Nat.xor_self, Nat.xor_zero]

/-- The old lo stands in the new hi, so f can be computed again and taken out of the new lo. -/
theorem shuffleRound_injective (h : Nat) (k : Word) : Function.Injective fun p => shuffleRound h p k := by
  rintro ⟨a, b⟩ ⟨c, d⟩ heq
  obtain ⟨hlo, hhi⟩ := Prod.mk.inj heq
  obtain rfl : b = d := hlo
  exact congrArg (fun x => (x, b)) (xor_right_cancel hhi)

theorem FitHalves.shuffleRound {h : Nat} (h32 : h ≤ 32) {p : Nat × Nat} (fit : FitHalves h p) (k : Word) :
    FitHalves h (shuffleRound h p k) := by
  obtain ⟨hhi, hlo⟩ := fit
  have word : 2 ^ (32 - h) * 2 ^ h = 2 ^ 32 := by rw [← Nat.pow_add, Nat.sub_add_cancel h32]
  exact ⟨hlo, Nat.xor_lt_two_pow hhi (Nat.div_lt_of_lt_mul (word ▸ Nat.mod_lt _ (word ▸ Nat.two_pow_pos 32)))⟩

theorem shuffleRounds_injective (h : Nat) (ks : List Word) : Function.Injective (ks.foldl (shuffleRound h)) := by
  induction ks with
  | nil => exact fun _ _ heq => heq
  | cons k ks ih => exact ih.comp (shuffleRound_injective h k)

theorem FitHalves.shuffleRounds {h : Nat} (h32 : h ≤ 32) (ks : List Word) {p : Nat × Nat} (fit : FitHalves h p) :
    FitHalves h (ks.foldl (Machine.shuffleRound h) p) := by
  induction ks generalizing p with
  | nil => exact fit
  | cons k ks ih => exact ih (fit.shuffleRound h32 k)

theorem shufflePerm_injectiveBelow {h : Nat} (h32 : h ≤ 32) (ks : List Word) :
    InjectiveBelow (2 ^ (2 * h)) (shufflePerm h ks) := by
  have fit {x : Nat} (hx : x < 2 ^ (2 * h)) := (fitHalves_splitHalves hx).shuffleRounds h32 ks
  refine ⟨fun x hx => (fit hx).joinHalves_lt, fun x hx y hy heq => ?_⟩
  have rounds : ks.foldl (shuffleRound h) (splitHalves h x) = ks.foldl (shuffleRound h) (splitHalves h y) := by
    rw [← (fit hx).splitHalves_joinHalves, ← (fit hy).splitHalves_joinHalves]
    exact congrArg (splitHalves h) heq
  rw [← joinHalves_splitHalves h x, shuffleRounds_injective h ks rounds, joinHalves_splitHalves]

/-! ### First returns -/

/-- `y` is the first number below `n` that `f` reaches from `i` in one step or more. -/
def FirstReturn (f : Nat → Nat) (n i y : Nat) : Prop :=
  ∃ j, Nat.repeat f (j + 1) i = y ∧ y < n ∧ ∀ m < j, n ≤ Nat.repeat f (m + 1) i

/-- Two paths that end in one number start at one number: the shorter path's start, met on the longer one, would be a return
before its first. -/
theorem InjectiveBelow.start_eq {N n i i' j j' : Nat} {f : Nat → Nat} (h : InjectiveBelow N f) (hn : n ≤ N) (hi : i < n)
    (hi' : i' < n) (le : j ≤ j') (heq : Nat.repeat f (j + 1) i = Nat.repeat f (j' + 1) i')
    (above : ∀ m < j', n ≤ Nat.repeat f (m + 1) i') : i = i' := by
  obtain ⟨d, rfl⟩ := Nat.exists_eq_add_of_le le
  rw [Nat.add_right_comm, repeat_add f (j + 1) d] at heq
  have starts : i = Nat.repeat f d i' :=
    (h.iterate (j + 1)).inj _ (by omega) _ ((h.iterate d).lt _ (by omega)) heq
  cases d with
  | zero => exact starts
  | succ d =>
    have := above d (by omega)
    omega

theorem FirstReturn.start_eq {N n i i' y : Nat} {f : Nat → Nat} (h : InjectiveBelow N f) (hn : n ≤ N) (hi : i < n)
    (hi' : i' < n) (r : FirstReturn f n i y) (r' : FirstReturn f n i' y) : i = i' := by
  obtain ⟨j, hy, -, above⟩ := r
  obtain ⟨j', hy', -, above'⟩ := r'
  have heq := hy.trans hy'.symm
  obtain le | le := Nat.le_total j j'
  · exact h.start_eq hn hi hi' le heq above'
  · exact (h.start_eq hn hi' hi le heq.symm above).symm

/-! ### The walk is perm's first return -/

theorem shuffleWalk_below {h n : Nat} (ks : List Word) (k : Nat) {y : Nat} (hy : y < n) : shuffleWalk h n ks k y = y := by
  cases k with
  | zero => rfl
  | succ k => exact if_neg (Nat.not_le.mpr hy)

theorem shuffleWalk_above {h n : Nat} (ks : List Word) (k : Nat) {y : Nat} (hy : n ≤ y) :
    shuffleWalk h n ks (k + 1) y = shuffleWalk h n ks k (shufflePerm h ks y) := if_pos hy

theorem firstReturn_of_below {f : Nat → Nat} {n i : Nat} (hi : f i < n) : FirstReturn f n i (f i) :=
  ⟨0, rfl, hi, fun m hm => absurd hm (Nat.not_lt_zero m)⟩

theorem FirstReturn.of_above {f : Nat → Nat} {n i y : Nat} (hi : n ≤ f i) (r : FirstReturn f n (f i) y) :
    FirstReturn f n i y := by
  obtain ⟨j, hy, below, above⟩ := r
  refine ⟨j + 1, (repeat_succ' f (j + 1) i).trans hy, below, fun m hm => ?_⟩
  cases m with
  | zero => exact hi
  | succ m => exact repeat_succ' f (m + 1) i ▸ above m (by omega)

/-- The walk ends at the first return when its fuel lasts to some return. -/
theorem firstReturn_shuffleWalk {h n k m i : Nat} (ks : List Word) (le : m ≤ k) (hm : Nat.repeat (shufflePerm h ks) (m + 1) i < n) :
    FirstReturn (shufflePerm h ks) n i (shuffleWalk h n ks k (shufflePerm h ks i)) := by
  induction k generalizing m i with
  | zero =>
    obtain rfl : m = 0 := by omega
    exact firstReturn_of_below hm
  | succ k ih =>
    obtain below | above := Nat.lt_or_ge (shufflePerm h ks i) n
    · rw [shuffleWalk_below ks _ below]
      exact firstReturn_of_below below
    · rw [shuffleWalk_above ks k above]
      cases m with
      | zero => exact absurd hm (Nat.not_lt.mpr above)
      | succ m => exact (ih (Nat.le_of_succ_le_succ le) (repeat_succ' _ (m + 1) i ▸ hm)).of_above above

/-! ### The numbers of the walk -/

theorem lt_two_pow_bitWidth (v : Nat) : v < 2 ^ bitWidth v := by
  rw [bitWidth]
  split
  next h0 => rw [h0]; exact Nat.two_pow_pos 0
  next => exact Nat.lt_log2_self

theorem bitWidth_le {v b : Nat} (hv : v < 2 ^ b) : bitWidth v ≤ b := by
  rw [bitWidth]
  split
  next => exact b.zero_le
  next h0 => exact (Nat.log2_lt h0).mpr hv

theorem le_two_pow_shuffleHalf (n : Nat) : n ≤ 2 ^ (2 * shuffleHalf n) := by
  have width : bitWidth (n - 1) ≤ 2 * shuffleHalf n := by rw [shuffleHalf]; omega
  have := Nat.lt_of_lt_of_le (lt_two_pow_bitWidth (n - 1)) (Nat.pow_le_pow_right Nat.two_pos width)
  omega

/-- A half is at most a word, as the round's shift by 32 − h needs. -/
theorem shuffleHalf_le {n : Nat} (hn : n ≤ 2 ^ 32) : shuffleHalf n ≤ 32 := by
  have := bitWidth_le (v := n - 1) (b := 32) (by omega)
  rw [shuffleHalf]
  omega

/-! ### The statement -/

theorem firstReturn_shidx {n i : Nat} (ks : List Word) (hn : n ≤ 2 ^ 32) (hi : i < n) :
    FirstReturn (shufflePerm (shuffleHalf n) ks) n i (shidx n ks i) := by
  obtain ⟨m, hm, back⟩ := (shufflePerm_injectiveBelow (shuffleHalf_le hn) ks).exists_repeat_succ_eq
    (Nat.lt_of_lt_of_le hi (le_two_pow_shuffleHalf n))
  exact firstReturn_shuffleWalk ks (Nat.le_of_lt hm) (back.symm ▸ hi)

theorem shidx_injectiveBelow {n : Nat} (ks : List Word) (hn : n ≤ 2 ^ 32) : InjectiveBelow n (shidx n ks) := by
  refine ⟨fun i hi => ?_, fun i hi i' hi' heq => ?_⟩
  · obtain ⟨_, _, below, _⟩ := firstReturn_shidx ks hn hi
    exact below
  · exact FirstReturn.start_eq (shufflePerm_injectiveBelow (shuffleHalf_le hn) ks) (le_two_pow_shuffleHalf n) hi hi'
      (firstReturn_shidx ks hn hi) (heq ▸ firstReturn_shidx ks hn hi')

/-- Settles O40: the walk is the first return below n of a bijection on 2^(2h) ≥ n numbers. The statement's 1 ≤ n is not
needed. -/
theorem shuffleIsBijection : Obligations.ShuffleIsBijection := by
  intro n ks _ hn
  have bij := shidx_injectiveBelow ks hn
  exact ⟨bij.lt, bij.inj, fun _ hy => bij.onto hy⟩

end Sys2Proof.Machine
end
